-- ==== Sys2Proof/Word.lean ====
section
/-! DEFINITION. The word types of the Y7 and the plain-data map used throughout the state. -/
namespace Sys2Proof

/-- A byte of memory (R5). -/
abbrev Byte := BitVec 8
/-- A 32-bit register word (R99). -/
abbrev Word := BitVec 32
/-- A 64-bit value: a pair, an address, a system register (R40, R171). -/
abbrev Dword := BitVec 64
/-- A sequence of bytes, lowest address first. -/
abbrev Bytes := List (BitVec 8)

/-- A sparse map from numbers to values: rising keys, no entry equal to what an unlisted key reads as.
The operations over it stand in Machine/Tab.lean. -/
abbrev Tab (α : Type) := List (Nat × α)

end Sys2Proof
end

