-- ==== Sys2Proof/Syntax.lean ====
section
/-! DEFINITION. The instructions and events of the Y7: one constructor for each row of spec/opcode_table.json.
Rows with an encoding are instructions (02_encoding.md, R30 to R44); rows without one are the part's own steps
(95_what_each_step_holds.md), taken by its engines, its links, system units, the host or the environment. -/
namespace Sys2Proof

/-- A 7-bit operand field (R38). Reserved codes have no constructor: decoding refuses them. -/
inductive Operand where
  /-- v(WB + n) -/
  | v (n : BitVec 6)
  /-- s0 to s15 -/
  | s (n : BitVec 4)
  /-- c0 to c7: peek as a source, push as a destination -/
  | chan (n : BitVec 3)
  /-- c0! to c7!: pop -/
  | pop (n : BitVec 3)
  /-- latch k0 to k3 -/
  | k (n : BitVec 2)
  | zero | laneid | groupid | teamid | clrank | dieid | link
  deriving DecidableEq, Repr

/-- One flit with its flit control word (R328). `payload` holds 64 bytes, or 16 on the reed network. -/
structure Flit where
  cls : Nat
  head : Bool
  tail : Bool
  idx : Nat
  psn : Bool
  abt : Bool
  crcls : Nat
  crn : Nat
  lseq : Nat
  chk : Nat
  payload : Bytes
  /-- on a Mirmar link, the sequence of the frame that carries it, which extends LSEQ (R340); else 0 -/
  frame : Nat
  deriving DecidableEq, Repr

/-- The kinds of access a peer device may ask of this one (R458). -/
inductive PeerKind where
  | load | store
  /-- an atomic or RED with this op (R244) -/
  | atomic (op : Nat)
  /-- a compare and swap; the data hold the compared value and the new one -/
  | cas
  /-- a push; the address is the queue id -/
  | push | copyWrite
  /-- whether a queue is live in an address space: the address is the queue id (R323, R329) -/
  | query
  deriving DecidableEq, Repr

/-- A request that arrives from a peer device (R329, R458): kind, Mirmar link, source unit and tag, devices, address space,
address, width in bytes, data. -/
structure PeerReq where
  kind : PeerKind
  port : Nat
  src : Nat
  tag : Nat
  ddev : Nat
  sdev : Nat
  asid : Nat
  va : Nat
  n : Nat
  data : Bytes
  /-- bytes 27 to 31 of the header's OPERAND for copy data of a chain: marker bits and group (R459) -/
  chain : Nat
  group : Nat
  /-- the payload is known bad (R328) -/
  psn : Bool
  deriving DecidableEq, Repr

/-- The instructions (rows with an encoding, their fields as R30 to R42 and the class chapters give) and the
events (rows without one). -/
inductive Instr where
  /-- BRT (R64) -/
  | brt (p : BitVec 4) (disp : BitVec 22)
  /-- BRF (R64) -/
  | brf (p : BitVec 4) (disp : BitVec 22)
  /-- CALL (R64) -/
  | call (disp : BitVec 26)
  /-- BRX (R67) -/
  | brx (a : Operand)
  /-- CALLX (R67) -/
  | callx (a : Operand)
  /-- RET (R67) -/
  | ret
  /-- RET_TARGET_PAIR (R67) -/
  | retTargetPair (a : Operand)
  /-- RET_LOW_WORD (R67) -/
  | retLowWord (b : Operand)
  /-- EXIT (R68) -/
  | exit
  /-- YIELD (R69) -/
  | yield
  /-- SLEEP (R70) -/
  | sleep (a : Operand)
  /-- NOP (R70) -/
  | nop
  /-- ITEMHEAD (R72) -/
  | itemhead (d : Operand)
  /-- ITEMNEXT (R73) -/
  | itemnext (d : Operand)
  /-- WBASE (R379) -/
  | wbase (d : Operand) (a : Operand)
  /-- WBADD (R379) -/
  | wbadd (d : Operand) (a : Operand)
  /-- HJOIN (R74) -/
  | hjoin (h : BitVec 4)
  /-- HLEAVE (R74) -/
  | hleave (h : BitVec 4)
  /-- HWAIT (R75) -/
  | hwait (h : BitVec 4)
  /-- HSET (R74) -/
  | hset (a : Operand) (h : BitVec 4)
  /-- HGET (R74) -/
  | hget (d : Operand) (h : BitVec 4)
  /-- HCOUNT (R74) -/
  | hcount (d : Operand) (h : BitVec 4)
  /-- HCLR (R74) -/
  | hclr (h : BitVec 4)
  /-- SEL (R101) -/
  | sel (nw : Bool) (d : Operand) (a : Operand) (b : Operand) (p : BitVec 4)
  /-- PAND (R107) -/
  | pand (d : BitVec 4) (a : BitVec 4) (b : BitVec 4)
  /-- POR (R107) -/
  | por (d : BitVec 4) (a : BitVec 4) (b : BitVec 4)
  /-- PXOR (R107) -/
  | pxor (d : BitVec 4) (a : BitVec 4) (b : BitVec 4)
  /-- PANDN (R107) -/
  | pandn (d : BitVec 4) (a : BitVec 4) (b : BitVec 4)
  /-- PNOT (R107) -/
  | pnot (d : BitVec 4) (a : BitVec 4)
  /-- PMOV (R107) -/
  | pmov (d : BitVec 4) (a : BitVec 4)
  /-- PCLR (R107) -/
  | pclr (d : BitVec 4)
  /-- ADD (R102) -/
  | add (nw : Bool) (d : Operand) (a : Operand) (b : Operand)
  /-- SUB (R102) -/
  | sub (nw : Bool) (d : Operand) (a : Operand) (b : Operand)
  /-- MIN (R102) -/
  | min (nw : Bool) (d : Operand) (a : Operand) (b : Operand)
  /-- MAX (R102) -/
  | max (nw : Bool) (d : Operand) (a : Operand) (b : Operand)
  /-- MINN (R102) -/
  | minn (nw : Bool) (d : Operand) (a : Operand) (b : Operand)
  /-- MAXN (R102) -/
  | maxn (nw : Bool) (d : Operand) (a : Operand) (b : Operand)
  /-- ABS (R102) -/
  | abs (nw : Bool) (d : Operand) (a : Operand)
  /-- ABSDIFF (R102) -/
  | absdiff (nw : Bool) (d : Operand) (a : Operand) (b : Operand)
  /-- ADDSAT (R102) -/
  | addsat (nw : Bool) (d : Operand) (a : Operand) (b : Operand)
  /-- SUBSAT (R102) -/
  | subsat (nw : Bool) (d : Operand) (a : Operand) (b : Operand)
  /-- ADDSATN (R102) -/
  | addsatn (nw : Bool) (d : Operand) (a : Operand) (b : Operand)
  /-- SUBSATN (R102) -/
  | subsatn (nw : Bool) (d : Operand) (a : Operand) (b : Operand)
  /-- SAD (R102) -/
  | sad (nw : Bool) (d : Operand) (a : Operand) (b : Operand)
  /-- AND (R103) -/
  | and (nw : Bool) (d : Operand) (a : Operand) (b : Operand)
  /-- OR (R103) -/
  | or (nw : Bool) (d : Operand) (a : Operand) (b : Operand)
  /-- XOR (R103) -/
  | xor (nw : Bool) (d : Operand) (a : Operand) (b : Operand)
  /-- ANDN (R103) -/
  | andn (nw : Bool) (d : Operand) (a : Operand) (b : Operand)
  /-- ORN (R103) -/
  | orn (nw : Bool) (d : Operand) (a : Operand) (b : Operand)
  /-- XNOR (R103) -/
  | xnor (nw : Bool) (d : Operand) (a : Operand) (b : Operand)
  /-- SHL (R103) -/
  | shl (nw : Bool) (d : Operand) (a : Operand) (b : Operand)
  /-- SHR (R103) -/
  | shr (nw : Bool) (d : Operand) (a : Operand) (b : Operand)
  /-- SAR (R103) -/
  | sar (nw : Bool) (d : Operand) (a : Operand) (b : Operand)
  /-- ROL (R103) -/
  | rol (nw : Bool) (d : Operand) (a : Operand) (b : Operand)
  /-- ROR (R103) -/
  | ror (nw : Bool) (d : Operand) (a : Operand) (b : Operand)
  /-- MUL (R104) -/
  | mul (nw : Bool) (d : Operand) (a : Operand) (b : Operand)
  /-- MULH (R104) -/
  | mulh (nw : Bool) (d : Operand) (a : Operand) (b : Operand)
  /-- MULHN (R104) -/
  | mulhn (nw : Bool) (d : Operand) (a : Operand) (b : Operand)
  /-- MAD (R104) -/
  | mad (nw : Bool) (d : Operand) (a : Operand) (b : Operand)
  /-- DIV (R104) -/
  | div (nw : Bool) (d : Operand) (a : Operand) (b : Operand)
  /-- DIVN (R104) -/
  | divn (nw : Bool) (d : Operand) (a : Operand) (b : Operand)
  /-- REM (R104) -/
  | rem (nw : Bool) (d : Operand) (a : Operand) (b : Operand)
  /-- REMN (R104) -/
  | remn (nw : Bool) (d : Operand) (a : Operand) (b : Operand)
  /-- CLZ (R105) -/
  | clz (nw : Bool) (d : Operand) (a : Operand)
  /-- CTZ (R105) -/
  | ctz (nw : Bool) (d : Operand) (a : Operand)
  /-- POPC (R105) -/
  | popc (nw : Bool) (d : Operand) (a : Operand)
  /-- BREV (R105) -/
  | brev (nw : Bool) (d : Operand) (a : Operand)
  /-- BFE (R105) -/
  | bfe (nw : Bool) (d : Operand) (a : Operand) (b : Operand)
  /-- BFES (R105) -/
  | bfes (nw : Bool) (d : Operand) (a : Operand) (b : Operand)
  /-- BFI (R105) -/
  | bfi (nw : Bool) (d : Operand) (a : Operand) (b : Operand)
  /-- BMIX (R105) -/
  | bmix (nw : Bool) (d : Operand) (a : Operand) (b : Operand)
  /-- ADD64 (R106) -/
  | add64 (d : Operand) (a : Operand) (b : Operand)
  /-- SUB64 (R106) -/
  | sub64 (d : Operand) (a : Operand) (b : Operand)
  /-- SHL64 (R106) -/
  | shl64 (d : Operand) (a : Operand) (b : Operand)
  /-- SHR64 (R106) -/
  | shr64 (d : Operand) (a : Operand) (b : Operand)
  /-- SAR64 (R106) -/
  | sar64 (d : Operand) (a : Operand) (b : Operand)
  /-- MUL64 (R106) -/
  | mul64 (d : Operand) (a : Operand) (b : Operand)
  /-- MUL64N (R106) -/
  | mul64n (d : Operand) (a : Operand) (b : Operand)
  /-- LEA64 (R106) -/
  | lea64 (d : Operand) (a : Operand) (b : Operand)
  /-- CMP (R108) -/
  | cmp (p : BitVec 4) (a : Operand) (b : Operand) (c : BitVec 4)
  /-- CMP64 (R108) -/
  | cmp64 (p : BitVec 4) (a : Operand) (b : Operand) (c : BitVec 4)
  /-- BALLOT (R111) -/
  | ballot (nw : Bool) (d : Operand) (p : BitVec 4)
  /-- PFROM (R111) -/
  | pfrom (p : BitVec 4) (a : Operand)
  /-- MATCH (R111) -/
  | matchLanes (nw : Bool) (d : Operand) (a : Operand)
  /-- PSUM (R111) -/
  | psum (nw : Bool) (d : Operand) (a : Operand)
  /-- PSUMI (R111) -/
  | psumi (nw : Bool) (d : Operand) (a : Operand)
  /-- LRED (R112) -/
  | lred (nw : Bool) (d : Operand) (a : Operand) (o : BitVec 3)
  /-- SHFL (R111) -/
  | shfl (nw : Bool) (d : Operand) (a : Operand) (b : Operand)
  /-- SHFLUP (R111) -/
  | shflup (nw : Bool) (d : Operand) (a : Operand) (b : Operand)
  /-- SHFLDN (R111) -/
  | shfldn (nw : Bool) (d : Operand) (a : Operand) (b : Operand)
  /-- SHFLX (R111) -/
  | shflx (nw : Bool) (d : Operand) (a : Operand) (b : Operand)
  /-- RDLANE (R111) -/
  | rdlane (nw : Bool) (d : Operand) (a : Operand) (b : Operand)
  /-- WRLANE (R111) -/
  | wrlane (nw : Bool) (d : Operand) (a : Operand) (b : Operand)
  /-- ELECT (R111) -/
  | elect (nw : Bool) (d : Operand)
  /-- MOV (R101) -/
  | mov (nw : Bool) (d : Operand) (a : Operand)
  /-- MOV64 (R101) -/
  | mov64 (d : Operand) (a : Operand)
  /-- ACTIVE (R101) -/
  | active (nw : Bool) (d : Operand)
  /-- ADDI (R109) -/
  | addi (nw : Bool) (d : Operand) (a : Operand) (i : BitVec 11)
  /-- ANDI (R109) -/
  | andi (nw : Bool) (d : Operand) (a : Operand) (i : BitVec 11)
  /-- ORI (R109) -/
  | ori (nw : Bool) (d : Operand) (a : Operand) (i : BitVec 11)
  /-- XORI (R109) -/
  | xori (nw : Bool) (d : Operand) (a : Operand) (i : BitVec 11)
  /-- SHLI (R109) -/
  | shli (nw : Bool) (d : Operand) (a : Operand) (c : BitVec 5)
  /-- SHRI (R109) -/
  | shri (nw : Bool) (d : Operand) (a : Operand) (c : BitVec 5)
  /-- SARI (R109) -/
  | sari (nw : Bool) (d : Operand) (a : Operand) (c : BitVec 5)
  /-- MOVI (R109) -/
  | movi (nw : Bool) (d : Operand) (i : BitVec 11)
  /-- CMPI (R108) -/
  | cmpi (c : BitVec 3) (p : BitVec 4) (a : Operand) (i : BitVec 11)
  /-- MULI (R109) -/
  | muli (nw : Bool) (d : Operand) (a : Operand) (i : BitVec 11)
  /-- IMX (R36) -/
  | imx (i : BitVec 26)
  /-- FADD (R133) -/
  | fadd (nw : Bool) (d : Operand) (a : Operand) (b : Operand) (f : BitVec 2) (r : BitVec 2)
  /-- FSUB (R133) -/
  | fsub (nw : Bool) (d : Operand) (a : Operand) (b : Operand) (f : BitVec 2) (r : BitVec 2)
  /-- FMUL (R133) -/
  | fmul (nw : Bool) (d : Operand) (a : Operand) (b : Operand) (f : BitVec 2) (r : BitVec 2)
  /-- FFMA (R133) -/
  | ffma (nw : Bool) (d : Operand) (a : Operand) (b : Operand) (f : BitVec 2) (r : BitVec 2)
  /-- FMIN (R135) -/
  | fmin (nw : Bool) (d : Operand) (a : Operand) (b : Operand)
  /-- FMAX (R135) -/
  | fmax (nw : Bool) (d : Operand) (a : Operand) (b : Operand)
  /-- FABS (R135) -/
  | fabs (nw : Bool) (d : Operand) (a : Operand)
  /-- FNEG (R135) -/
  | fneg (nw : Bool) (d : Operand) (a : Operand)
  /-- FCOPYSIGN (R135) -/
  | fcopysign (nw : Bool) (d : Operand) (a : Operand) (b : Operand)
  /-- FCLASS (R136) -/
  | fclass (nw : Bool) (d : Operand) (a : Operand)
  /-- FRINT (R135) -/
  | frint (nw : Bool) (d : Operand) (a : Operand) (r : BitVec 2)
  /-- FSCALE (R135) -/
  | fscale (nw : Bool) (d : Operand) (a : Operand) (b : Operand)
  /-- FRCP (R135) -/
  | frcp (nw : Bool) (d : Operand) (a : Operand)
  /-- FRSQ (R135) -/
  | frsq (nw : Bool) (d : Operand) (a : Operand)
  /-- FSQRT (R135) -/
  | fsqrt (nw : Bool) (d : Operand) (a : Operand)
  /-- FEX2 (R135) -/
  | fex2 (nw : Bool) (d : Operand) (a : Operand)
  /-- FLG2 (R135) -/
  | flg2 (nw : Bool) (d : Operand) (a : Operand)
  /-- SRSEED (R137) -/
  | srseed (a : Operand)
  /-- FCMP (R138) -/
  | fcmp (t : BitVec 2) (p : BitVec 4) (a : Operand) (b : Operand) (c : BitVec 4)
  /-- FCVT (R141) -/
  | fcvt (nw : Bool) (d : Operand) (a : Operand) (m : BitVec 3) (s : BitVec 4) (t : BitVec 4)
  /-- TCLAIM (R154) -/
  | tclaim (d : Operand) (a : Operand) (k : Bool)
  /-- TREL (R154) -/
  | trel (a : Operand) (k : Bool)
  /-- TZERO (R154) -/
  | tzero (a : Operand) (k : Bool)
  /-- TSTAT (R155) -/
  | tstat (d : Operand) (n : BitVec 2)
  /-- TSCALE (R154) -/
  | tscale (d : BitVec 5) (a : BitVec 5) (n : BitVec 4)
  /-- TSCALE_REMOVE (R154) -/
  | tscaleRemove (d : BitVec 5)
  /-- TLD (R157) -/
  | tld (s : BitVec 5) (a : Operand) (b : Operand)
  /-- TLDX (R157) -/
  | tldx (w : BitVec 2) (s : BitVec 5) (a : Operand) (b : Operand)
  /-- TLDS (R157) -/
  | tlds (s : BitVec 5) (a : Operand) (n : BitVec 4)
  /-- TST (R158) -/
  | tst (y : BitVec 4) (t : BitVec 3) (a : Operand) (m : BitVec 3) (r : BitVec 4)
  /-- TMV (R159) -/
  | tmv (d : Operand) (a : Operand) (t : BitVec 3)
  /-- TMVI (R159) -/
  | tmvi (t : BitVec 3) (a : Operand) (b : Operand)
  /-- MMA (R163) -/
  | mma (sat : Bool) (z : Bool) (t : BitVec 3) (va : Bool) (a : BitVec 5) (vb : Bool) (b : BitVec 5) (f : BitVec 4)
  /-- MMS (R165) -/
  | mms (e : BitVec 2) (z : Bool) (t : BitVec 3) (va : Bool) (a : BitVec 5) (vb : Bool) (b : BitVec 5) (f : BitVec 4)
  /-- ATOM64 (R245) -/
  | atom64 (g : BitVec 4) (d : Operand) (a : Operand) (o : BitVec 4) (s : BitVec 2) (r : BitVec 2)
  /-- ATOML (R245) -/
  | atoml (g : BitVec 4) (d : Operand) (a : Operand) (o : BitVec 4) (s : BitVec 1) (r : BitVec 2)
  /-- CASL (R246) -/
  | casl (g : BitVec 4) (d : Operand) (a : Operand) (s : BitVec 1) (r : BitVec 2)
  /-- TRED (R260) -/
  | tred (d : Operand) (a : Operand) (b : Operand)
  /-- TRWAIT (R261) -/
  | trwait (d : Operand) (a : Operand) (b : Operand)
  /-- TRDEF (R264) -/
  | trdef (d : Operand) (a : Operand) (b : Operand)
  /-- TRSTAT (R263) -/
  | trstat (d : Operand) (a : Operand) (n : BitVec 2)
  /-- LDV (R193) -/
  | ldv (g : BitVec 4) (d : Operand) (a : Operand) (z : BitVec 3) (r : BitVec 2) (fresh : Bool) (lin : Bool) (w : Bool)
  /-- STV (R194) -/
  | stv (g : BitVec 4) (d : Operand) (a : Operand) (z : BitVec 3) (r : BitVec 2) (fresh : Bool) (lin : Bool) (w : Bool)
  /-- LDS (R193) -/
  | lds (g : BitVec 4) (d : Operand) (a : Operand) (z : BitVec 3) (r : BitVec 2) (fresh : Bool) (lin : Bool) (w : Bool)
  /-- STS (R194) -/
  | sts (g : BitVec 4) (d : Operand) (a : Operand) (z : BitVec 3) (r : BitVec 2) (fresh : Bool) (lin : Bool) (w : Bool)
  /-- LDL (R193) -/
  | ldl (g : BitVec 4) (d : Operand) (a : Operand) (z : BitVec 3) (r : BitVec 2) (fresh : Bool) (lin : Bool) (w : Bool)
  /-- STL (R194) -/
  | stl (g : BitVec 4) (d : Operand) (a : Operand) (z : BitVec 3) (r : BitVec 2) (fresh : Bool) (lin : Bool) (w : Bool)
  /-- PREF (R204) -/
  | pref (a : Operand) (r : BitVec 2) (v : Bool)
  /-- INVL (R204) -/
  | invl (a : Operand)
  /-- INVL_ALL (R204) -/
  | invlAll
  /-- WBL (R205) -/
  | wbl (inv : Bool) (a : Operand) (b : Operand)
  /-- SDRAIN (R206) -/
  | sdrain
  /-- SETE (R206) -/
  | sete (a : Operand)
  /-- SETF (R206) -/
  | setf (a : Operand)
  /-- BANKCFG (R207) -/
  | bankcfg (d : Operand) (a : Operand) (b : Operand)
  /-- PROBE (R208) -/
  | probe (d : Operand) (a : Operand)
  /-- ACQ (R220) -/
  | acq (a : Operand) (s : BitVec 2)
  /-- REL (R219) -/
  | rel (a : Operand) (s : BitVec 2)
  /-- ACQA (R220) -/
  | acqa (s : BitVec 2)
  /-- RELA (R219) -/
  | rela (s : BitVec 2)
  /-- BIND (R214) -/
  | bind (d : Operand) (a : Operand) (b : Operand)
  /-- UNBIND (R214) -/
  | unbind (d : Operand) (a : Operand)
  /-- FENCE (R230) -/
  | fence (d : Operand) (s : BitVec 2)
  /-- WAITCNT (R229) -/
  | waitcnt (c : BitVec 3) (n : BitVec 7)
  /-- LDACQ (R226) -/
  | ldacq (g : BitVec 4) (d : Operand) (a : Operand) (z : BitVec 3) (s : BitVec 2) (w : Bool)
  /-- STREL (R226) -/
  | strel (g : BitVec 4) (d : Operand) (a : Operand) (z : BitVec 3) (s : BitVec 2) (w : Bool)
  /-- BINIT (R233) -/
  | binit (a : Operand) (n : BitVec 4)
  /-- BARV (R233) -/
  | barv (d : Operand) (a : Operand) (n : BitVec 4)
  /-- BWAIT (R233) -/
  | bwait (a : Operand) (n : BitVec 4)
  /-- BSYNC (R233) -/
  | bsync (a : Operand) (n : BitVec 4)
  /-- CBAR (R233) -/
  | cbar (a : Operand)
  /-- SRPUT (R237) -/
  | srput (a : Operand) (r : BitVec 3)
  /-- SRTAKE (R237) -/
  | srtake (a : Operand) (r : BitVec 3)
  /-- SRWAIT_FULL (R237) -/
  | srwaitFull (a : Operand) (r : BitVec 3)
  /-- SRWAIT_FREE (R237) -/
  | srwaitFree (a : Operand) (r : BitVec 3)
  /-- ATOM (R245) -/
  | atom (g : BitVec 4) (d : Operand) (a : Operand) (o : BitVec 4) (s : BitVec 2) (r : BitVec 2)
  /-- RED (R245) -/
  | red (g : BitVec 4) (d : Operand) (a : Operand) (o : BitVec 4) (s : BitVec 2) (rl : Bool)
  /-- CAS (R246) -/
  | cas (g : BitVec 4) (d : Operand) (a : Operand) (w : BitVec 2) (s : BitVec 2) (r : BitVec 2)
  /-- XOPEN (R282) -/
  | xopen (d : Operand)
  /-- XSERIAL (R286) -/
  | xserial
  /-- XCLOSE (R282) -/
  | xclose
  /-- XQUIT (R282) -/
  | xquit (a : Operand)
  /-- XSTAT (R283) -/
  | xstat (d : Operand)
  /-- XDEPS (R283) -/
  | xdeps (d : Operand) (n : BitVec 3)
  /-- LREC (R300) -/
  | lrec (d : Operand) (a : Operand) (b : Operand)
  /-- LFREE (R300) -/
  | lfree (a : Operand)
  /-- CPY (R302) -/
  | cpy (d : Operand) (a : Operand) (b : Operand)
  /-- CPYG (R304) -/
  | cpyg (d : Operand) (a : Operand) (b : Operand)
  /-- CPYS (R304) -/
  | cpys (d : Operand) (a : Operand) (b : Operand)
  /-- CPYC (R306) -/
  | cpyc (d : Operand) (a : Operand) (b : Operand)
  /-- CPYM (R305) -/
  | cpym (d : Operand) (a : Operand) (b : Operand)
  /-- CPYE (R302) -/
  | cpye (d : Operand) (a : Operand) (b : Operand)
  /-- CPYF (R302) -/
  | cpyf (d : Operand) (a : Operand) (b : Operand)
  /-- CHBIND (R323) -/
  | chbind (d : Operand) (a : Operand) (b : Operand)
  /-- CHFREE (R324) -/
  | chfree (q : Bool) (c : BitVec 3)
  /-- CHSTAT (R325) -/
  | chstat (d : Operand) (c : BitVec 3)
  /-- SEND (R326) -/
  | send (a : Operand) (k : BitVec 2) (c : BitVec 3)
  /-- LSTAT (R327) -/
  | lstat (d : Operand) (a : Operand)
  /-- LAUNCH (R365) -/
  | launch (d : Operand) (a : Operand)
  /-- LWAIT (R366) -/
  | lwait (d : Operand) (a : Operand)
  /-- LQUERY (R366) -/
  | lquery (d : Operand) (a : Operand)
  /-- ITEMPUT (R367) -/
  | itemput (a : Operand) (b : Operand)
  /-- ITEMCLOSE (R367) -/
  | itemclose (b : Operand)
  /-- PRIO (R368) -/
  | prio (d : Operand) (a : Operand) (b : Operand)
  /-- NOPRE (R363) -/
  | nopre
  /-- OKPRE (R363) -/
  | okpre
  /-- GKILL (R369) -/
  | gkill (d : Operand) (a : Operand) (b : Operand)
  /-- TRAP (R398) -/
  | trap (a : Operand)
  /-- RETT (R399) -/
  | rett (a : Operand)
  /-- MFSR (R400) -/
  | mfsr (d : Operand) (a : Operand)
  /-- MTSR (R400) -/
  | mtsr (a : Operand) (b : Operand)
  /-- BRK (R398) -/
  | brk
  /-- FPOP (R401) -/
  | fpop (d : Operand) (a : Operand) (b : Operand)
  /-- FRESUME (R402) -/
  | fresume (d : Operand) (a : Operand) (b : Operand)
  /-- MSCRUB (R432) -/
  | mscrub (d : Operand) (a : Operand) (b : Operand)
  /-- MRETIRE (R432) -/
  | mretire (d : Operand) (a : Operand) (b : Operand)
  /-- MREPAIR (R432) -/
  | mrepair (d : Operand) (a : Operand) (b : Operand)
  /-- MREBUILD (R432) -/
  | mrebuild (d : Operand) (a : Operand) (b : Operand)
  /-- MDROP (R432) -/
  | mdrop (d : Operand) (a : Operand)
  /-- MPLACE (R429) -/
  | mplace (d : Operand) (a : Operand) (b : Operand)
  /-- MINJECT (R432) -/
  | minject (d : Operand) (a : Operand) (b : Operand)
  /-- MSTAT (R433) -/
  | mstat (d : Operand) (a : Operand) (n : BitVec 2)
  /-- ARRAY_QUEUE_ENTRY_COMPLETE (R149) -/
  | arrayQueueEntryComplete (core : Nat) (i : Nat)
  /-- TREE_NODE_FOLD (R258) -/
  | treeNodeFold (tree : Nat) (node : Nat)
  /-- TREE_TIMEOUT (R262) -/
  | treeTimeout (tree : Nat)
  /-- LOAD_COMPLETION (R25) -/
  | loadCompletion (g : Nat) (seq : Nat)
  /-- HOME_SLICE_REQUEST (R25) -/
  | homeSliceRequest (g : Nat) (seq : Nat) (line : Nat) (victim : Option Nat)
  /-- TRANSLATION_WALK (R177) -/
  | translationWalk (g : Nat) (seq : Nat) (line : Nat)
  /-- DEFERRED_LOAD_FAULT (R200) -/
  | deferredLoadFault (g : Nat)
  /-- SCRATCH_WAIT_END (R190) -/
  | scratchWaitEnd (g : Nat)
  /-- WCB_LINE_DRAIN (R197) -/
  | wcbLineDrain (g : Nat) (line : Nat)
  /-- STORE_WRITE_AT_HOME (R215) -/
  | storeWriteAtHome (g : Nat) (id : Nat)
  /-- STORE_FAULT_RECORD_ARRIVAL (R201) -/
  | storeFaultRecordArrival (g : Nat)
  /-- STORE_FAULT (R201) -/
  | storeFault (g : Nat)
  /-- WAIT_END (R234) -/
  | waitEnd (g : Nat)
  /-- ATOMIC_PERFORM (R245) -/
  | atomicPerform (g : Nat) (seq : Nat) (line : Nat)
  /-- RED_COMBINE (R250) -/
  | redCombine (g : Nat) (seq : Nat) (g2 : Nat) (seq2 : Nat)
  /-- RED_HOLD_EXPIRY (R250) -/
  | redHoldExpiry (g : Nat) (seq : Nat)
  /-- REGION_ACCESS_AT_BATTEN (R272) -/
  | regionAccessAtBatten (g : Nat) (seq : Nat) (line : Nat)
  /-- REGION_STORE_MERGE (R271) -/
  | regionStoreMerge (g : Nat) (seq : Nat) (line : Nat)
  /-- DEPTH_WAIT_END (R274) -/
  | depthWaitEnd (g : Nat) (seq : Nat) (line : Nat)
  /-- REGION_COMMIT (R276) -/
  | regionCommit (slot : Nat)
  /-- REGION_ABORT (R278) -/
  | regionAbort (slot : Nat) (code : Nat)
  /-- REGION_ABORT_DELIVERY (R279) -/
  | regionAbortDelivery (g : Nat)
  /-- HELD_WRITE_RELEASE (R287) -/
  | heldWriteRelease (g : Nat) (id : Nat)
  /-- TRANSFER_START (R291) -/
  | transferStart (core : Nat) (i : Nat) (n : Nat)
  /-- TRANSFER_COMPLETE (R307) -/
  | transferComplete (core : Nat) (i : Nat)
  /-- TRANSFER_FAULT_HOLD (R309) -/
  | transferFaultHold (core : Nat) (i : Nat)
  /-- MULTICAST_DELIVERY (R305) -/
  | multicastDelivery (core : Nat) (i : Nat) (team : Nat)
  /-- CRC_REPLY (R459) -/
  | crcReply (core : Nat) (i : Nat) (v : Word)
  /-- CHANNEL_POP_UNBLOCK (R316) -/
  | channelPopUnblock (g : Nat)
  /-- REMOTE_PUSH_ARRIVAL (R317) -/
  | remotePushArrival (g : Nat) (seq : Nat)
  /-- PUSH_RESEND (R318) -/
  | pushResend (g : Nat) (seq : Nat)
  /-- NOPRE_OVERRUN (R363) -/
  | nopreOverrun (g : Nat)
  /-- TASK_ACTIVATION (R351) -/
  | taskActivation (t : Nat)
  /-- CLUSTER_PLACEMENT (R355) -/
  | clusterPlacement (c : Nat)
  /-- GROUP_ACTIVATION (R360) -/
  | groupActivation (g : Nat)
  /-- PRIORITY_WRITE_BACK (R360) -/
  | priorityWriteBack (g : Nat)
  /-- GROUP_QUANTUM (R360) -/
  | groupQuantum (g : Nat)
  /-- BLOCKED_GROUP_WRITE_BACK (R360) -/
  | blockedGroupWriteBack (g : Nat)
  /-- PRIORITY_WRITE_OUT (R361) -/
  | priorityWriteOut (c : Nat)
  /-- TEAM_QUANTUM (R361) -/
  | teamQuantum (c : Nat)
  /-- SLEEP_EXPIRY (R70) -/
  | sleepExpiry (g : Nat)
  /-- AGING_ISSUE (R60) -/
  | agingIssue (g : Nat)
  /-- GROUP_COMPLETION (R71) -/
  | groupCompletion (g : Nat)
  /-- TASK_COMPLETION_WORD (R353) -/
  | taskCompletionWord (t : Nat)
  /-- REGISTER_MISS_FILL (R381) -/
  | registerMissFill (g : Nat) (reg : Nat)
  /-- FRAME_FAULT (R385) -/
  | frameFault (g : Nat) (va : Nat) (word : Nat)
  /-- LOCAL_TRAP (R391) -/
  | localTrap (g : Nat) (cause : Nat) (word : Nat)
  /-- SUPERVISOR_TRAP (R392) -/
  | supervisorTrap (g : Nat) (cause : Nat) (word : Nat)
  /-- FAULT_RECORD_APPEND (R393) -/
  | faultRecordAppend
  /-- DEGRADED_READ (R414) -/
  | degradedRead (g : Nat) (seq : Nat) (line : Nat)
  /-- STRIPE_WRITE (R415) -/
  | stripeWrite (key : Nat)
  /-- CHANNEL_NO_RESPONSE_DROP (R417) -/
  | channelNoResponseDrop (ch : Nat)
  /-- CHANNEL_UNCORRECTABLE_DROP (R417) -/
  | channelUncorrectableDrop (ch : Nat)
  /-- REBUILD_STRIPE_COPY (R420) -/
  | rebuildStripeCopy
  /-- REBUILD_PAGE_COMMIT (R420) -/
  | rebuildPageCommit
  /-- PATROL_SCRUB_VISIT (R425) -/
  | patrolScrubVisit (stripe : Nat)
  /-- REPAIR_END (R428) -/
  | repairEnd (ch : Nat) (ok : Bool)
  /-- PREPARE_RECEIPT (R423) -/
  | prepareReceipt (req : Nat)
  /-- SLICE_HANDOFF (R423) -/
  | sliceHandoff
  /-- REHASH_REPLY (R424) -/
  | rehashReply (g : Nat) (seq : Nat) (line : Nat)
  /-- FLIT_ARRIVAL (R333) -/
  | flitArrival (port : Nat) (f : Flit)
  /-- OUTPUT_ARBITRATION (R332) -/
  | outputArbitration (port : Nat)
  /-- LINK_FLIT (R330) -/
  | linkFlit (port : Nat) (f : Flit)
  /-- REPLAY_TIMEOUT (R335) -/
  | replayTimeout (port : Nat)
  /-- LANE_LOSS (R336) -/
  | laneLoss (link : Nat) (lanes : Nat)
  /-- RETRAIN_COMPLETE (R336) -/
  | retrainComplete (link : Nat) (ok : Bool)
  /-- MESH_LINK_RETIREMENT (R336) -/
  | meshLinkRetirement (link : Nat)
  /-- LINK_DEATH (R337) -/
  | linkDeath (link : Nat)
  /-- LOST_NOTICE (R337) -/
  | lostNotice (g : Nat) (seq : Nat)
  /-- REPLY_ACKNOWLEDGEMENT (R337) -/
  | replyAcknowledgement (key : Nat)
  /-- PEER_REQUEST_ADMISSION (R458) -/
  | peerRequestAdmission (q : PeerReq)
  /-- LINK_TRAINING (R340) -/
  | linkTraining (link : Nat) (slow : Bool) (peer : Nat) (peerLink : Nat)
  /-- TLB_INVAL_PAGE (R178) -/
  | tlbInvalPage (asid : Nat) (vpn : Nat)
  /-- TLB_INVAL_REGION (R178) -/
  | tlbInvalRegion (asid : Nat) (region : Nat)
  /-- TLB_INVAL_ASID (R178) -/
  | tlbInvalAsid (asid : Nat)
  /-- TLB_INVAL_ALL (R178) -/
  | tlbInvalAll
  /-- PWIN_CTL_WRITE (R457) -/
  | pwinCtlWrite (n : Nat) (v : Dword)
  /-- HOV_CTL_WRITE (R442) -/
  | hovCtlWrite (n : Nat) (v : Dword)
  /-- MIRMAR_RT_WRITE (R342) -/
  | mirmarRtWrite (v : Dword)
  /-- MLINK_EN_WRITE (R343) -/
  | mlinkEnWrite (n : Nat) (v : Dword)
  /-- FEAT_WRITE (R438) -/
  | featWrite (v : Dword)
  /-- DRAIN_SET (R447) -/
  | drainSet
  /-- DRAIN_CLEAR (R447) -/
  | drainClear
  /-- DRAINED (R447) -/
  | drained
  /-- EVACK_WRITE (R446) -/
  | evackWrite (v : Dword)
  /-- DBG_CMD_RESUME (R444) -/
  | dbgCmdResume (task : Nat) (group : Nat)
  /-- DBG_CMD_STEP (R444) -/
  | dbgCmdStep (task : Nat) (group : Nat)
  /-- DBG_CMD_STOP (R444) -/
  | dbgCmdStop (task : Nat) (group : Nat)
  /-- BREAKPOINT_HIT (R444) -/
  | breakpointHit (g : Nat)
  /-- IFT_CORE_TEST (R445) -/
  | iftCoreTest (core : Nat)
  /-- IFT_CHANNEL_TEST (R445) -/
  | iftChannelTest (ch : Nat)
  /-- IFT_TEST_END (R445) -/
  | iftTestEnd (pass : Bool)
  /-- BAR0_WRITE (R436) -/
  | bar0Write (off : Nat) (size : Nat) (v : Dword)
  /-- BAR0_READ (R436) -/
  | bar0Read (off : Nat) (size : Nat)
  /-- BAR2_ACCESS (R437) -/
  | bar2Access (off : Nat) (n : Nat) (w : Option Bytes)
  /-- SPDM_REQUEST (R441) -/
  | spdmRequest (block : Nat)
  /-- COLD_RESET (R439) -/
  | coldReset
  /-- WARM_RESET (R439) -/
  | warmReset
  /-- FUNCTION_RESET (R439) -/
  | functionReset
  /-- START_UP (R440) -/
  | startUp (ok : Bool)
  /-- HEALTH_TABLE_UPDATE (R446) -/
  | healthTableUpdate
  /-- RESETNEEDED (R447) -/
  | resetneeded
  /-- SUPPLY_SAG (R449) -/
  | supplySag
  /-- CLOCK_STEP (R449) -/
  | clockStep (sag : Bool) (power : Nat) (hot : Bool)
  /-- THERMAL_TRIP (R449) -/
  | thermalTrip
  /-- SYSTEM_REGISTER_WRITE (R400) -/
  | systemRegisterWrite (core : Nat) (n : Nat) (v : Dword)
  /-- ILLEGAL_ENCODING (R45) -/
  | illegalEncoding (w : Word)
  /-- INSTRUCTION_FETCH_FAULT (R29) -/
  | instructionFetchFault (cause : Nat) (word : Nat)
  /-- EXTERNAL_ACKNOWLEDGEMENT (R341) -/
  | externalAcknowledgement (g : Nat) (seq : Nat) (ok : Bool) (data : Bytes)
  /-- PERSISTENT_STATE_SAVE (R439) -/
  | persistentStateSave
  deriving DecidableEq, Repr

end Sys2Proof
end

