-- ==== Sys2Proof/WellFormed.lean ====
section
/-! DEFINITION. Which instructions are words of the Y7: the field values that R31, R33 to R36, R42 and the class
chapters call ILLEGAL have no well-formed instruction. -/
namespace Sys2Proof

/-- The row has an encoding: it is an instruction of R42, not an event. -/
def Instr.encoded : Instr → Bool
  | .brt _ _ => true
  | .brf _ _ => true
  | .call _ => true
  | .brx _ => true
  | .callx _ => true
  | .ret => true
  | .retTargetPair _ => true
  | .retLowWord _ => true
  | .exit => true
  | .yield => true
  | .sleep _ => true
  | .nop => true
  | .itemhead _ => true
  | .itemnext _ => true
  | .wbase _ _ => true
  | .wbadd _ _ => true
  | .hjoin _ => true
  | .hleave _ => true
  | .hwait _ => true
  | .hset _ _ => true
  | .hget _ _ => true
  | .hcount _ _ => true
  | .hclr _ => true
  | .sel _ _ _ _ _ => true
  | .pand _ _ _ => true
  | .por _ _ _ => true
  | .pxor _ _ _ => true
  | .pandn _ _ _ => true
  | .pnot _ _ => true
  | .pmov _ _ => true
  | .pclr _ => true
  | .add _ _ _ _ => true
  | .sub _ _ _ _ => true
  | .min _ _ _ _ => true
  | .max _ _ _ _ => true
  | .minn _ _ _ _ => true
  | .maxn _ _ _ _ => true
  | .abs _ _ _ => true
  | .absdiff _ _ _ _ => true
  | .addsat _ _ _ _ => true
  | .subsat _ _ _ _ => true
  | .addsatn _ _ _ _ => true
  | .subsatn _ _ _ _ => true
  | .sad _ _ _ _ => true
  | .and _ _ _ _ => true
  | .or _ _ _ _ => true
  | .xor _ _ _ _ => true
  | .andn _ _ _ _ => true
  | .orn _ _ _ _ => true
  | .xnor _ _ _ _ => true
  | .shl _ _ _ _ => true
  | .shr _ _ _ _ => true
  | .sar _ _ _ _ => true
  | .rol _ _ _ _ => true
  | .ror _ _ _ _ => true
  | .mul _ _ _ _ => true
  | .mulh _ _ _ _ => true
  | .mulhn _ _ _ _ => true
  | .mad _ _ _ _ => true
  | .div _ _ _ _ => true
  | .divn _ _ _ _ => true
  | .rem _ _ _ _ => true
  | .remn _ _ _ _ => true
  | .clz _ _ _ => true
  | .ctz _ _ _ => true
  | .popc _ _ _ => true
  | .brev _ _ _ => true
  | .bfe _ _ _ _ => true
  | .bfes _ _ _ _ => true
  | .bfi _ _ _ _ => true
  | .bmix _ _ _ _ => true
  | .add64 _ _ _ => true
  | .sub64 _ _ _ => true
  | .shl64 _ _ _ => true
  | .shr64 _ _ _ => true
  | .sar64 _ _ _ => true
  | .mul64 _ _ _ => true
  | .mul64n _ _ _ => true
  | .lea64 _ _ _ => true
  | .cmp _ _ _ _ => true
  | .cmp64 _ _ _ _ => true
  | .ballot _ _ _ => true
  | .pfrom _ _ => true
  | .matchLanes _ _ _ => true
  | .psum _ _ _ => true
  | .psumi _ _ _ => true
  | .lred _ _ _ _ => true
  | .shfl _ _ _ _ => true
  | .shflup _ _ _ _ => true
  | .shfldn _ _ _ _ => true
  | .shflx _ _ _ _ => true
  | .rdlane _ _ _ _ => true
  | .wrlane _ _ _ _ => true
  | .elect _ _ => true
  | .mov _ _ _ => true
  | .mov64 _ _ => true
  | .active _ _ => true
  | .addi _ _ _ _ => true
  | .andi _ _ _ _ => true
  | .ori _ _ _ _ => true
  | .xori _ _ _ _ => true
  | .shli _ _ _ _ => true
  | .shri _ _ _ _ => true
  | .sari _ _ _ _ => true
  | .movi _ _ _ => true
  | .cmpi _ _ _ _ => true
  | .muli _ _ _ _ => true
  | .imx _ => true
  | .fadd _ _ _ _ _ _ => true
  | .fsub _ _ _ _ _ _ => true
  | .fmul _ _ _ _ _ _ => true
  | .ffma _ _ _ _ _ _ => true
  | .fmin _ _ _ _ => true
  | .fmax _ _ _ _ => true
  | .fabs _ _ _ => true
  | .fneg _ _ _ => true
  | .fcopysign _ _ _ _ => true
  | .fclass _ _ _ => true
  | .frint _ _ _ _ => true
  | .fscale _ _ _ _ => true
  | .frcp _ _ _ => true
  | .frsq _ _ _ => true
  | .fsqrt _ _ _ => true
  | .fex2 _ _ _ => true
  | .flg2 _ _ _ => true
  | .srseed _ => true
  | .fcmp _ _ _ _ _ => true
  | .fcvt _ _ _ _ _ _ => true
  | .tclaim _ _ _ => true
  | .trel _ _ => true
  | .tzero _ _ => true
  | .tstat _ _ => true
  | .tscale _ _ _ => true
  | .tscaleRemove _ => true
  | .tld _ _ _ => true
  | .tldx _ _ _ _ => true
  | .tlds _ _ _ => true
  | .tst _ _ _ _ _ => true
  | .tmv _ _ _ => true
  | .tmvi _ _ _ => true
  | .mma _ _ _ _ _ _ _ _ => true
  | .mms _ _ _ _ _ _ _ _ => true
  | .atom64 _ _ _ _ _ _ => true
  | .atoml _ _ _ _ _ _ => true
  | .casl _ _ _ _ _ => true
  | .tred _ _ _ => true
  | .trwait _ _ _ => true
  | .trdef _ _ _ => true
  | .trstat _ _ _ => true
  | .ldv _ _ _ _ _ _ _ _ => true
  | .stv _ _ _ _ _ _ _ _ => true
  | .lds _ _ _ _ _ _ _ _ => true
  | .sts _ _ _ _ _ _ _ _ => true
  | .ldl _ _ _ _ _ _ _ _ => true
  | .stl _ _ _ _ _ _ _ _ => true
  | .pref _ _ _ => true
  | .invl _ => true
  | .invlAll => true
  | .wbl _ _ _ => true
  | .sdrain => true
  | .sete _ => true
  | .setf _ => true
  | .bankcfg _ _ _ => true
  | .probe _ _ => true
  | .acq _ _ => true
  | .rel _ _ => true
  | .acqa _ => true
  | .rela _ => true
  | .bind _ _ _ => true
  | .unbind _ _ => true
  | .fence _ _ => true
  | .waitcnt _ _ => true
  | .ldacq _ _ _ _ _ _ => true
  | .strel _ _ _ _ _ _ => true
  | .binit _ _ => true
  | .barv _ _ _ => true
  | .bwait _ _ => true
  | .bsync _ _ => true
  | .cbar _ => true
  | .srput _ _ => true
  | .srtake _ _ => true
  | .srwaitFull _ _ => true
  | .srwaitFree _ _ => true
  | .atom _ _ _ _ _ _ => true
  | .red _ _ _ _ _ _ => true
  | .cas _ _ _ _ _ _ => true
  | .xopen _ => true
  | .xserial => true
  | .xclose => true
  | .xquit _ => true
  | .xstat _ => true
  | .xdeps _ _ => true
  | .lrec _ _ _ => true
  | .lfree _ => true
  | .cpy _ _ _ => true
  | .cpyg _ _ _ => true
  | .cpys _ _ _ => true
  | .cpyc _ _ _ => true
  | .cpym _ _ _ => true
  | .cpye _ _ _ => true
  | .cpyf _ _ _ => true
  | .chbind _ _ _ => true
  | .chfree _ _ => true
  | .chstat _ _ => true
  | .send _ _ _ => true
  | .lstat _ _ => true
  | .launch _ _ => true
  | .lwait _ _ => true
  | .lquery _ _ => true
  | .itemput _ _ => true
  | .itemclose _ => true
  | .prio _ _ _ => true
  | .nopre => true
  | .okpre => true
  | .gkill _ _ _ => true
  | .trap _ => true
  | .rett _ => true
  | .mfsr _ _ => true
  | .mtsr _ _ => true
  | .brk => true
  | .fpop _ _ _ => true
  | .fresume _ _ _ => true
  | .mscrub _ _ _ => true
  | .mretire _ _ _ => true
  | .mrepair _ _ _ => true
  | .mrebuild _ _ _ => true
  | .mdrop _ _ => true
  | .mplace _ _ _ => true
  | .minject _ _ _ => true
  | .mstat _ _ _ => true
  | .arrayQueueEntryComplete _ _ => false
  | .treeNodeFold _ _ => false
  | .treeTimeout _ => false
  | .loadCompletion _ _ => false
  | .homeSliceRequest _ _ _ _ => false
  | .translationWalk _ _ _ => false
  | .deferredLoadFault _ => false
  | .scratchWaitEnd _ => false
  | .wcbLineDrain _ _ => false
  | .storeWriteAtHome _ _ => false
  | .storeFaultRecordArrival _ => false
  | .storeFault _ => false
  | .waitEnd _ => false
  | .atomicPerform _ _ _ => false
  | .redCombine _ _ _ _ => false
  | .redHoldExpiry _ _ => false
  | .regionAccessAtBatten _ _ _ => false
  | .regionStoreMerge _ _ _ => false
  | .depthWaitEnd _ _ _ => false
  | .regionCommit _ => false
  | .regionAbort _ _ => false
  | .regionAbortDelivery _ => false
  | .heldWriteRelease _ _ => false
  | .transferStart _ _ _ => false
  | .transferComplete _ _ => false
  | .transferFaultHold _ _ => false
  | .multicastDelivery _ _ _ => false
  | .crcReply _ _ _ => false
  | .channelPopUnblock _ => false
  | .remotePushArrival _ _ => false
  | .pushResend _ _ => false
  | .nopreOverrun _ => false
  | .taskActivation _ => false
  | .clusterPlacement _ => false
  | .groupActivation _ => false
  | .priorityWriteBack _ => false
  | .groupQuantum _ => false
  | .blockedGroupWriteBack _ => false
  | .priorityWriteOut _ => false
  | .teamQuantum _ => false
  | .sleepExpiry _ => false
  | .agingIssue _ => false
  | .groupCompletion _ => false
  | .taskCompletionWord _ => false
  | .registerMissFill _ _ => false
  | .frameFault _ _ _ => false
  | .localTrap _ _ _ => false
  | .supervisorTrap _ _ _ => false
  | .faultRecordAppend => false
  | .degradedRead _ _ _ => false
  | .stripeWrite _ => false
  | .channelNoResponseDrop _ => false
  | .channelUncorrectableDrop _ => false
  | .rebuildStripeCopy => false
  | .rebuildPageCommit => false
  | .patrolScrubVisit _ => false
  | .repairEnd _ _ => false
  | .prepareReceipt _ => false
  | .sliceHandoff => false
  | .rehashReply _ _ _ => false
  | .flitArrival _ _ => false
  | .outputArbitration _ => false
  | .linkFlit _ _ => false
  | .replayTimeout _ => false
  | .laneLoss _ _ => false
  | .retrainComplete _ _ => false
  | .meshLinkRetirement _ => false
  | .linkDeath _ => false
  | .lostNotice _ _ => false
  | .replyAcknowledgement _ => false
  | .peerRequestAdmission _ => false
  | .linkTraining _ _ _ _ => false
  | .tlbInvalPage _ _ => false
  | .tlbInvalRegion _ _ => false
  | .tlbInvalAsid _ => false
  | .tlbInvalAll => false
  | .pwinCtlWrite _ _ => false
  | .hovCtlWrite _ _ => false
  | .mirmarRtWrite _ => false
  | .mlinkEnWrite _ _ => false
  | .featWrite _ => false
  | .drainSet => false
  | .drainClear => false
  | .drained => false
  | .evackWrite _ => false
  | .dbgCmdResume _ _ => false
  | .dbgCmdStep _ _ => false
  | .dbgCmdStop _ _ => false
  | .breakpointHit _ => false
  | .iftCoreTest _ => false
  | .iftChannelTest _ => false
  | .iftTestEnd _ => false
  | .bar0Write _ _ _ => false
  | .bar0Read _ _ => false
  | .bar2Access _ _ _ => false
  | .spdmRequest _ => false
  | .coldReset => false
  | .warmReset => false
  | .functionReset => false
  | .startUp _ => false
  | .healthTableUpdate => false
  | .resetneeded => false
  | .supplySag => false
  | .clockStep _ _ _ => false
  | .thermalTrip => false
  | .systemRegisterWrite _ _ _ => false
  | .illegalEncoding _ => false
  | .instructionFetchFault _ _ => false
  | .externalAcknowledgement _ _ _ _ => false
  | .persistentStateSave => false

/-- The field rules of the row beyond its fixed bits (step 1 of R45). Events carry no word and no such rule. -/
def Instr.wf : Instr → Bool
  | .brt _ _ => true
  | .brf _ _ => true
  | .call _ => true
  | .brx _ => true
  | .callx _ => true
  | .ret => true
  | .retTargetPair a => a != .zero
  | .retLowWord b => b != .zero
  | .exit => true
  | .yield => true
  | .sleep _ => true
  | .nop => true
  | .itemhead _ => true
  | .itemnext _ => true
  | .wbase _ _ => true
  | .wbadd _ _ => true
  | .hjoin h => h.toNat < 12
  | .hleave h => h.toNat < 12
  | .hwait h => h.toNat < 12
  | .hset _ h => h.toNat < 12
  | .hget _ h => h.toNat < 12
  | .hcount _ h => h.toNat < 12
  | .hclr h => h.toNat < 12
  | .sel nw d _ _ _ => (!nw || d == .zero)
  | .pand _ _ _ => true
  | .por _ _ _ => true
  | .pxor _ _ _ => true
  | .pandn _ _ _ => true
  | .pnot _ _ => true
  | .pmov _ _ => true
  | .pclr _ => true
  | .add nw d _ _ => (!nw || d == .zero)
  | .sub nw d _ _ => (!nw || d == .zero)
  | .min nw d _ _ => (!nw || d == .zero)
  | .max nw d _ _ => (!nw || d == .zero)
  | .minn nw d _ _ => (!nw || d == .zero)
  | .maxn nw d _ _ => (!nw || d == .zero)
  | .abs nw d _ => (!nw || d == .zero)
  | .absdiff nw d _ _ => (!nw || d == .zero)
  | .addsat nw d _ _ => (!nw || d == .zero)
  | .subsat nw d _ _ => (!nw || d == .zero)
  | .addsatn nw d _ _ => (!nw || d == .zero)
  | .subsatn nw d _ _ => (!nw || d == .zero)
  | .sad nw d _ _ => (!nw || d == .zero)
  | .and nw d _ _ => (!nw || d == .zero)
  | .or nw d _ _ => (!nw || d == .zero)
  | .xor nw d _ _ => (!nw || d == .zero)
  | .andn nw d _ _ => (!nw || d == .zero)
  | .orn nw d _ _ => (!nw || d == .zero)
  | .xnor nw d _ _ => (!nw || d == .zero)
  | .shl nw d _ _ => (!nw || d == .zero)
  | .shr nw d _ _ => (!nw || d == .zero)
  | .sar nw d _ _ => (!nw || d == .zero)
  | .rol nw d _ _ => (!nw || d == .zero)
  | .ror nw d _ _ => (!nw || d == .zero)
  | .mul nw d _ _ => (!nw || d == .zero)
  | .mulh nw d _ _ => (!nw || d == .zero)
  | .mulhn nw d _ _ => (!nw || d == .zero)
  | .mad nw d _ _ => (!nw || d == .zero)
  | .div nw d _ _ => (!nw || d == .zero)
  | .divn nw d _ _ => (!nw || d == .zero)
  | .rem nw d _ _ => (!nw || d == .zero)
  | .remn nw d _ _ => (!nw || d == .zero)
  | .clz nw d _ => (!nw || d == .zero)
  | .ctz nw d _ => (!nw || d == .zero)
  | .popc nw d _ => (!nw || d == .zero)
  | .brev nw d _ => (!nw || d == .zero)
  | .bfe nw d _ _ => (!nw || d == .zero)
  | .bfes nw d _ _ => (!nw || d == .zero)
  | .bfi nw d _ _ => (!nw || d == .zero)
  | .bmix nw d _ _ => (!nw || d == .zero)
  | .add64 _ _ _ => true
  | .sub64 _ _ _ => true
  | .shl64 _ _ _ => true
  | .shr64 _ _ _ => true
  | .sar64 _ _ _ => true
  | .mul64 _ _ _ => true
  | .mul64n _ _ _ => true
  | .lea64 _ _ _ => true
  | .cmp _ _ _ c => c.toNat < 10
  | .cmp64 _ _ _ c => c.toNat < 10
  | .ballot nw d _ => (!nw || d == .zero)
  | .pfrom _ _ => true
  | .matchLanes nw d _ => (!nw || d == .zero)
  | .psum nw d _ => (!nw || d == .zero)
  | .psumi nw d _ => (!nw || d == .zero)
  | .lred nw d _ _ => (!nw || d == .zero)
  | .shfl nw d _ _ => (!nw || d == .zero)
  | .shflup nw d _ _ => (!nw || d == .zero)
  | .shfldn nw d _ _ => (!nw || d == .zero)
  | .shflx nw d _ _ => (!nw || d == .zero)
  | .rdlane nw d _ _ => (!nw || d == .zero)
  | .wrlane nw d _ _ => (!nw || d == .zero)
  | .elect nw d => (!nw || d == .zero)
  | .mov nw d _ => (!nw || d == .zero)
  | .mov64 _ _ => true
  | .active nw d => (!nw || d == .zero)
  | .addi nw d _ _ => (!nw || d == .zero)
  | .andi nw d _ _ => (!nw || d == .zero)
  | .ori nw d _ _ => (!nw || d == .zero)
  | .xori nw d _ _ => (!nw || d == .zero)
  | .shli nw d _ _ => (!nw || d == .zero)
  | .shri nw d _ _ => (!nw || d == .zero)
  | .sari nw d _ _ => (!nw || d == .zero)
  | .movi nw d _ => (!nw || d == .zero)
  | .cmpi _ _ _ _ => true
  | .muli nw d _ _ => (!nw || d == .zero)
  | .imx _ => true
  | .fadd nw d _ _ f _ => (!nw || d == .zero) && f.toNat < 3
  | .fsub nw d _ _ f _ => (!nw || d == .zero) && f.toNat < 3
  | .fmul nw d _ _ f _ => (!nw || d == .zero) && f.toNat < 3
  | .ffma nw d _ _ f _ => (!nw || d == .zero) && f.toNat < 3
  | .fmin nw d _ _ => (!nw || d == .zero)
  | .fmax nw d _ _ => (!nw || d == .zero)
  | .fabs nw d _ => (!nw || d == .zero)
  | .fneg nw d _ => (!nw || d == .zero)
  | .fcopysign nw d _ _ => (!nw || d == .zero)
  | .fclass nw d _ => (!nw || d == .zero)
  | .frint nw d _ _ => (!nw || d == .zero)
  | .fscale nw d _ _ => (!nw || d == .zero)
  | .frcp nw d _ => (!nw || d == .zero)
  | .frsq nw d _ => (!nw || d == .zero)
  | .fsqrt nw d _ => (!nw || d == .zero)
  | .fex2 nw d _ => (!nw || d == .zero)
  | .flg2 nw d _ => (!nw || d == .zero)
  | .srseed _ => true
  | .fcmp t _ _ _ c => c.toNat < 8 && t.toNat < 3
  | .fcvt nw d _ m s t => (!nw || d == .zero) && t != s && t.toNat < 15 && s.toNat < 15 && m.toNat < 7 && (t.toNat < 13 || !nw)
  | .tclaim _ _ _ => true
  | .trel _ _ => true
  | .tzero _ _ => true
  | .tstat _ _ => true
  | .tscale _ _ _ => true
  | .tscaleRemove _ => true
  | .tld _ _ _ => true
  | .tldx w _ _ _ => w.toNat < 3
  | .tlds _ _ _ => true
  | .tst y _ _ m _ => y.toNat < 13 && y.toNat != 5 && m.toNat < 5
  | .tmv _ _ _ => true
  | .tmvi _ _ _ => true
  | .mma sat _ _ va _ vb _ f => f.toNat < 11 && ((!va && !vb) || f.toNat == 3 || f.toNat == 4 || f.toNat == 6 || f.toNat == 9) && (!sat || f.toNat == 4 || f.toNat == 9)
  | .mms e _ _ va _ vb _ f => (f.toNat < 5 || f.toNat == 8 || f.toNat == 9) && ((!va && !vb) || f.toNat == 3 || f.toNat == 4 || f.toNat == 6 || f.toNat == 9) && (e.toNat != 3 || f.toNat == 4 || f.toNat == 9)
  | .atom64 _ _ _ o _ _ => o.toNat < 9
  | .atoml _ _ _ o _ _ => o.toNat < 15
  | .casl _ _ _ _ _ => true
  | .tred _ _ _ => true
  | .trwait _ _ _ => true
  | .trdef _ _ _ => true
  | .trstat _ _ n => n.toNat < 3
  | .ldv _ _ _ z _ _ _ _ => z.toNat < 7
  | .stv _ _ _ z _ _ _ _ => z.toNat < 7 && z.toNat != 1 && z.toNat != 3
  | .lds _ _ _ z _ _ _ _ => z.toNat < 7
  | .sts _ _ _ z _ _ _ _ => z.toNat < 7 && z.toNat != 1 && z.toNat != 3
  | .ldl _ _ _ z _ _ _ _ => z.toNat < 7
  | .stl _ _ _ z _ _ _ _ => z.toNat < 7 && z.toNat != 1 && z.toNat != 3
  | .pref _ _ _ => true
  | .invl _ => true
  | .invlAll => true
  | .wbl _ _ _ => true
  | .sdrain => true
  | .sete _ => true
  | .setf _ => true
  | .bankcfg _ _ _ => true
  | .probe _ _ => true
  | .acq _ _ => true
  | .rel _ _ => true
  | .acqa _ => true
  | .rela _ => true
  | .bind _ _ _ => true
  | .unbind _ _ => true
  | .fence _ _ => true
  | .waitcnt c _ => c.toNat < 6
  | .ldacq _ _ _ z _ _ => z.toNat < 6
  | .strel _ _ _ z _ _ => z.toNat < 6 && z.toNat != 1 && z.toNat != 3
  | .binit _ _ => true
  | .barv _ _ _ => true
  | .bwait _ _ => true
  | .bsync _ _ => true
  | .cbar _ => true
  | .srput _ _ => true
  | .srtake _ _ => true
  | .srwaitFull _ _ => true
  | .srwaitFree _ _ => true
  | .atom _ _ _ o _ _ => o.toNat < 15
  | .red _ _ _ o _ _ => o.toNat < 8 || 11 <= o.toNat
  | .cas _ _ _ w _ _ => w.toNat < 3
  | .xopen _ => true
  | .xserial => true
  | .xclose => true
  | .xquit _ => true
  | .xstat _ => true
  | .xdeps _ _ => true
  | .lrec _ _ _ => true
  | .lfree _ => true
  | .cpy _ _ _ => true
  | .cpyg _ _ _ => true
  | .cpys _ _ _ => true
  | .cpyc _ _ _ => true
  | .cpym _ _ _ => true
  | .cpye _ _ _ => true
  | .cpyf _ _ _ => true
  | .chbind _ _ _ => true
  | .chfree _ _ => true
  | .chstat _ _ => true
  | .send _ _ _ => true
  | .lstat _ _ => true
  | .launch _ _ => true
  | .lwait _ _ => true
  | .lquery _ _ => true
  | .itemput _ _ => true
  | .itemclose _ => true
  | .prio _ _ _ => true
  | .nopre => true
  | .okpre => true
  | .gkill _ _ _ => true
  | .trap _ => true
  | .rett _ => true
  | .mfsr _ _ => true
  | .mtsr _ _ => true
  | .brk => true
  | .fpop _ _ _ => true
  | .fresume _ _ _ => true
  | .mscrub _ _ _ => true
  | .mretire _ _ _ => true
  | .mrepair _ _ _ => true
  | .mrebuild _ _ _ => true
  | .mdrop _ _ => true
  | .mplace _ _ _ => true
  | .minject _ _ _ => true
  | .mstat _ _ _ => true
  | .arrayQueueEntryComplete _ _ => true
  | .treeNodeFold _ _ => true
  | .treeTimeout _ => true
  | .loadCompletion _ _ => true
  | .homeSliceRequest _ _ _ _ => true
  | .translationWalk _ _ _ => true
  | .deferredLoadFault _ => true
  | .scratchWaitEnd _ => true
  | .wcbLineDrain _ _ => true
  | .storeWriteAtHome _ _ => true
  | .storeFaultRecordArrival _ => true
  | .storeFault _ => true
  | .waitEnd _ => true
  | .atomicPerform _ _ _ => true
  | .redCombine _ _ _ _ => true
  | .redHoldExpiry _ _ => true
  | .regionAccessAtBatten _ _ _ => true
  | .regionStoreMerge _ _ _ => true
  | .depthWaitEnd _ _ _ => true
  | .regionCommit _ => true
  | .regionAbort _ _ => true
  | .regionAbortDelivery _ => true
  | .heldWriteRelease _ _ => true
  | .transferStart _ _ _ => true
  | .transferComplete _ _ => true
  | .transferFaultHold _ _ => true
  | .multicastDelivery _ _ _ => true
  | .crcReply _ _ _ => true
  | .channelPopUnblock _ => true
  | .remotePushArrival _ _ => true
  | .pushResend _ _ => true
  | .nopreOverrun _ => true
  | .taskActivation _ => true
  | .clusterPlacement _ => true
  | .groupActivation _ => true
  | .priorityWriteBack _ => true
  | .groupQuantum _ => true
  | .blockedGroupWriteBack _ => true
  | .priorityWriteOut _ => true
  | .teamQuantum _ => true
  | .sleepExpiry _ => true
  | .agingIssue _ => true
  | .groupCompletion _ => true
  | .taskCompletionWord _ => true
  | .registerMissFill _ _ => true
  | .frameFault _ _ _ => true
  | .localTrap _ _ _ => true
  | .supervisorTrap _ _ _ => true
  | .faultRecordAppend => true
  | .degradedRead _ _ _ => true
  | .stripeWrite _ => true
  | .channelNoResponseDrop _ => true
  | .channelUncorrectableDrop _ => true
  | .rebuildStripeCopy => true
  | .rebuildPageCommit => true
  | .patrolScrubVisit _ => true
  | .repairEnd _ _ => true
  | .prepareReceipt _ => true
  | .sliceHandoff => true
  | .rehashReply _ _ _ => true
  | .flitArrival _ _ => true
  | .outputArbitration _ => true
  | .linkFlit _ _ => true
  | .replayTimeout _ => true
  | .laneLoss _ _ => true
  | .retrainComplete _ _ => true
  | .meshLinkRetirement _ => true
  | .linkDeath _ => true
  | .lostNotice _ _ => true
  | .replyAcknowledgement _ => true
  | .peerRequestAdmission _ => true
  | .linkTraining _ _ _ _ => true
  | .tlbInvalPage _ _ => true
  | .tlbInvalRegion _ _ => true
  | .tlbInvalAsid _ => true
  | .tlbInvalAll => true
  | .pwinCtlWrite _ _ => true
  | .hovCtlWrite _ _ => true
  | .mirmarRtWrite _ => true
  | .mlinkEnWrite _ _ => true
  | .featWrite _ => true
  | .drainSet => true
  | .drainClear => true
  | .drained => true
  | .evackWrite _ => true
  | .dbgCmdResume _ _ => true
  | .dbgCmdStep _ _ => true
  | .dbgCmdStop _ _ => true
  | .breakpointHit _ => true
  | .iftCoreTest _ => true
  | .iftChannelTest _ => true
  | .iftTestEnd _ => true
  | .bar0Write _ _ _ => true
  | .bar0Read _ _ => true
  | .bar2Access _ _ _ => true
  | .spdmRequest _ => true
  | .coldReset => true
  | .warmReset => true
  | .functionReset => true
  | .startUp _ => true
  | .healthTableUpdate => true
  | .resetneeded => true
  | .supplySag => true
  | .clockStep _ _ _ => true
  | .thermalTrip => true
  | .systemRegisterWrite _ _ _ => true
  | .illegalEncoding _ => true
  | .instructionFetchFault _ _ => true
  | .externalAcknowledgement _ _ _ _ => true
  | .persistentStateSave => true

end Sys2Proof
end

