-- ==== Sys2Proof/Decode.lean ====
section
/-! DEFINITION. Decoding one 32-bit word (R28, R30, R42) and, after it, encoding. An IMX word is an instruction of
its own here; the step joins it to the word that follows (R36). -/
namespace Sys2Proof

/-- Why a word is no instruction; each traps ILLEGAL at step 1 of R45 (R7, R42). -/
inductive DecodeError where
  /-- a major, function code or fixed field that R42 leaves unassigned or reserved -/
  | unassigned
  /-- a reserved operand code of R38 -/
  | reservedOperand
  /-- a field value that R31, R33 to R35 or a class chapter forbids -/
  | malformed
  deriving DecidableEq, Repr

/-- The operand of a 7-bit code (R38); none for the reserved codes 0x64 to 0x6F and 0x77 to 0x7F. -/
def decodeOperand (c : BitVec 7) : Option Operand :=
  if c.getLsbD 6 = false then some (.v (c.extractLsb' 0 6))
  else if c.extractLsb' 4 2 = 0#2 then some (.s (c.extractLsb' 0 4))
  else if c.extractLsb' 3 3 = 2#3 then some (.chan (c.extractLsb' 0 3))
  else if c.extractLsb' 3 3 = 3#3 then some (.pop (c.extractLsb' 0 3))
  else if c.extractLsb' 2 4 = 8#4 then some (.k (c.extractLsb' 0 2))
  else if c = 0x70#7 then some .zero
  else if c = 0x71#7 then some .laneid
  else if c = 0x72#7 then some .groupid
  else if c = 0x73#7 then some .teamid
  else if c = 0x74#7 then some .clrank
  else if c = 0x75#7 then some .dieid
  else if c = 0x76#7 then some .link
  else none

/-- The code of an operand (R38). -/
def encodeOperand : Operand → BitVec 7
  | .v n => 0#1 ++ n
  | .s n => 4#3 ++ n
  | .chan n => 10#4 ++ n
  | .pop n => 11#4 ++ n
  | .k n => 24#5 ++ n
  | .zero => 0x70#7
  | .laneid => 0x71#7
  | .groupid => 0x72#7
  | .teamid => 0x73#7
  | .clrank => 0x74#7
  | .dieid => 0x75#7
  | .link => 0x76#7

/-- An operand field of a word, at bit `lo`. -/
def operandAt (w : Word) (lo : Nat) : Except DecodeError Operand :=
  match decodeOperand (w.extractLsb' lo 7) with
  | some x => .ok x
  | none => .error .reservedOperand

/-- The words of major 0x01 (R42). -/
def decodeMajor01 (w : Word) : Except DecodeError Instr :=
  .ok (.brt (w.extractLsb' 22 4) (w.extractLsb' 0 22))

/-- The words of major 0x02 (R42). -/
def decodeMajor02 (w : Word) : Except DecodeError Instr :=
  .ok (.brf (w.extractLsb' 22 4) (w.extractLsb' 0 22))

/-- The words of major 0x03 (R42). -/
def decodeMajor03 (w : Word) : Except DecodeError Instr :=
  .ok (.call (w.extractLsb' 0 26))

/-- The words of major 0x04 (R42). -/
def decodeMajor04 (w : Word) : Except DecodeError Instr :=
  if w &&& 0x03FFFFFF#32 = 0x01C38702#32 then .ok (.ret)
  else if w &&& 0x03FFFFFF#32 = 0x01C38703#32 then .ok (.exit)
  else if w &&& 0x03FFFFFF#32 = 0x01C38704#32 then .ok (.yield)
  else if w &&& 0x03FFFFFF#32 = 0x01C38706#32 then .ok (.nop)
  else if w &&& 0x03FC07FF#32 = 0x01C00700#32 then (do let a ← operandAt w 11; return (.brx a))
  else if w &&& 0x03FC07FF#32 = 0x01C00701#32 then (do let a ← operandAt w 11; return (.callx a))
  else if w &&& 0x03FC07FF#32 = 0x01C00702#32 then (do let a ← operandAt w 11; return (.retTargetPair a))
  else if w &&& 0x03FFF80F#32 = 0x01C38002#32 then (do let b ← operandAt w 4; return (.retLowWord b))
  else if w &&& 0x03FC07FF#32 = 0x01C00705#32 then (do let a ← operandAt w 11; return (.sleep a))
  else if w &&& 0x0203FFFF#32 = 0x00038707#32 then (do let d ← operandAt w 18; return (.itemhead d))
  else if w &&& 0x0203FFFF#32 = 0x00038708#32 then (do let d ← operandAt w 18; return (.itemnext d))
  else if w &&& 0x020007FF#32 = 0x00000709#32 then (do let d ← operandAt w 18; let a ← operandAt w 11; return (.wbase d a))
  else if w &&& 0x020007FF#32 = 0x0000070A#32 then (do let d ← operandAt w 18; let a ← operandAt w 11; return (.wbadd d a))
  else .error .unassigned

/-- The words of major 0x05 (R42). -/
def decodeMajor05 (w : Word) : Except DecodeError Instr :=
  if w &&& 0x03FFFF0F#32 = 0x01C38000#32 then .ok (.hjoin (w.extractLsb' 4 4))
  else if w &&& 0x03FFFF0F#32 = 0x01C38001#32 then .ok (.hleave (w.extractLsb' 4 4))
  else if w &&& 0x03FFFF0F#32 = 0x01C38002#32 then .ok (.hwait (w.extractLsb' 4 4))
  else if w &&& 0x03FFFF0F#32 = 0x01C38006#32 then .ok (.hclr (w.extractLsb' 4 4))
  else if w &&& 0x03FC070F#32 = 0x01C00003#32 then (do let a ← operandAt w 11; return (.hset a (w.extractLsb' 4 4)))
  else if w &&& 0x0203FF0F#32 = 0x00038004#32 then (do let d ← operandAt w 18; return (.hget d (w.extractLsb' 4 4)))
  else if w &&& 0x0203FF0F#32 = 0x00038005#32 then (do let d ← operandAt w 18; return (.hcount d (w.extractLsb' 4 4)))
  else .error .unassigned

/-- The words of major 0x06 (R42). -/
def decodeMajor06 (w : Word) : Except DecodeError Instr :=
  (do let d ← operandAt w 18; let a ← operandAt w 11; let b ← operandAt w 4; return (.sel (w.getLsbD 25) d a b (w.extractLsb' 0 4)))

/-- The words of major 0x07 (R42). -/
def decodeMajor07 (w : Word) : Except DecodeError Instr :=
  if w &&& 0x03C3FFFF#32 = 0x00038706#32 then .ok (.pclr (w.extractLsb' 18 4))
  else if w &&& 0x03C387FF#32 = 0x00000704#32 then .ok (.pnot (w.extractLsb' 18 4) (w.extractLsb' 11 4))
  else if w &&& 0x03C387FF#32 = 0x00000705#32 then .ok (.pmov (w.extractLsb' 18 4) (w.extractLsb' 11 4))
  else if w &&& 0x03C3870F#32 = 0x00000000#32 then .ok (.pand (w.extractLsb' 18 4) (w.extractLsb' 11 4) (w.extractLsb' 4 4))
  else if w &&& 0x03C3870F#32 = 0x00000001#32 then .ok (.por (w.extractLsb' 18 4) (w.extractLsb' 11 4) (w.extractLsb' 4 4))
  else if w &&& 0x03C3870F#32 = 0x00000002#32 then .ok (.pxor (w.extractLsb' 18 4) (w.extractLsb' 11 4) (w.extractLsb' 4 4))
  else if w &&& 0x03C3870F#32 = 0x00000003#32 then .ok (.pandn (w.extractLsb' 18 4) (w.extractLsb' 11 4) (w.extractLsb' 4 4))
  else .error .unassigned

/-- The words of major 0x08 (R42). -/
def decodeMajor08 (w : Word) : Except DecodeError Instr :=
  if w &&& 0x000007FF#32 = 0x00000706#32 then (do let d ← operandAt w 18; let a ← operandAt w 11; return (.abs (w.getLsbD 25) d a))
  else if w &&& 0x0000000F#32 = 0x00000000#32 then (do let d ← operandAt w 18; let a ← operandAt w 11; let b ← operandAt w 4; return (.add (w.getLsbD 25) d a b))
  else if w &&& 0x0000000F#32 = 0x00000001#32 then (do let d ← operandAt w 18; let a ← operandAt w 11; let b ← operandAt w 4; return (.sub (w.getLsbD 25) d a b))
  else if w &&& 0x0000000F#32 = 0x00000002#32 then (do let d ← operandAt w 18; let a ← operandAt w 11; let b ← operandAt w 4; return (.min (w.getLsbD 25) d a b))
  else if w &&& 0x0000000F#32 = 0x00000003#32 then (do let d ← operandAt w 18; let a ← operandAt w 11; let b ← operandAt w 4; return (.max (w.getLsbD 25) d a b))
  else if w &&& 0x0000000F#32 = 0x00000004#32 then (do let d ← operandAt w 18; let a ← operandAt w 11; let b ← operandAt w 4; return (.minn (w.getLsbD 25) d a b))
  else if w &&& 0x0000000F#32 = 0x00000005#32 then (do let d ← operandAt w 18; let a ← operandAt w 11; let b ← operandAt w 4; return (.maxn (w.getLsbD 25) d a b))
  else if w &&& 0x0000000F#32 = 0x00000007#32 then (do let d ← operandAt w 18; let a ← operandAt w 11; let b ← operandAt w 4; return (.absdiff (w.getLsbD 25) d a b))
  else if w &&& 0x0000000F#32 = 0x00000008#32 then (do let d ← operandAt w 18; let a ← operandAt w 11; let b ← operandAt w 4; return (.addsat (w.getLsbD 25) d a b))
  else if w &&& 0x0000000F#32 = 0x00000009#32 then (do let d ← operandAt w 18; let a ← operandAt w 11; let b ← operandAt w 4; return (.subsat (w.getLsbD 25) d a b))
  else if w &&& 0x0000000F#32 = 0x0000000A#32 then (do let d ← operandAt w 18; let a ← operandAt w 11; let b ← operandAt w 4; return (.addsatn (w.getLsbD 25) d a b))
  else if w &&& 0x0000000F#32 = 0x0000000B#32 then (do let d ← operandAt w 18; let a ← operandAt w 11; let b ← operandAt w 4; return (.subsatn (w.getLsbD 25) d a b))
  else if w &&& 0x0000000F#32 = 0x0000000C#32 then (do let d ← operandAt w 18; let a ← operandAt w 11; let b ← operandAt w 4; return (.sad (w.getLsbD 25) d a b))
  else .error .unassigned

/-- The words of major 0x09 (R42). -/
def decodeMajor09 (w : Word) : Except DecodeError Instr :=
  if w &&& 0x0000000F#32 = 0x00000000#32 then (do let d ← operandAt w 18; let a ← operandAt w 11; let b ← operandAt w 4; return (.and (w.getLsbD 25) d a b))
  else if w &&& 0x0000000F#32 = 0x00000001#32 then (do let d ← operandAt w 18; let a ← operandAt w 11; let b ← operandAt w 4; return (.or (w.getLsbD 25) d a b))
  else if w &&& 0x0000000F#32 = 0x00000002#32 then (do let d ← operandAt w 18; let a ← operandAt w 11; let b ← operandAt w 4; return (.xor (w.getLsbD 25) d a b))
  else if w &&& 0x0000000F#32 = 0x00000003#32 then (do let d ← operandAt w 18; let a ← operandAt w 11; let b ← operandAt w 4; return (.andn (w.getLsbD 25) d a b))
  else if w &&& 0x0000000F#32 = 0x00000004#32 then (do let d ← operandAt w 18; let a ← operandAt w 11; let b ← operandAt w 4; return (.orn (w.getLsbD 25) d a b))
  else if w &&& 0x0000000F#32 = 0x00000005#32 then (do let d ← operandAt w 18; let a ← operandAt w 11; let b ← operandAt w 4; return (.xnor (w.getLsbD 25) d a b))
  else if w &&& 0x0000000F#32 = 0x00000006#32 then (do let d ← operandAt w 18; let a ← operandAt w 11; let b ← operandAt w 4; return (.shl (w.getLsbD 25) d a b))
  else if w &&& 0x0000000F#32 = 0x00000007#32 then (do let d ← operandAt w 18; let a ← operandAt w 11; let b ← operandAt w 4; return (.shr (w.getLsbD 25) d a b))
  else if w &&& 0x0000000F#32 = 0x00000008#32 then (do let d ← operandAt w 18; let a ← operandAt w 11; let b ← operandAt w 4; return (.sar (w.getLsbD 25) d a b))
  else if w &&& 0x0000000F#32 = 0x00000009#32 then (do let d ← operandAt w 18; let a ← operandAt w 11; let b ← operandAt w 4; return (.rol (w.getLsbD 25) d a b))
  else if w &&& 0x0000000F#32 = 0x0000000A#32 then (do let d ← operandAt w 18; let a ← operandAt w 11; let b ← operandAt w 4; return (.ror (w.getLsbD 25) d a b))
  else .error .unassigned

/-- The words of major 0x0A (R42). -/
def decodeMajor0A (w : Word) : Except DecodeError Instr :=
  if w &&& 0x0000000F#32 = 0x00000000#32 then (do let d ← operandAt w 18; let a ← operandAt w 11; let b ← operandAt w 4; return (.mul (w.getLsbD 25) d a b))
  else if w &&& 0x0000000F#32 = 0x00000001#32 then (do let d ← operandAt w 18; let a ← operandAt w 11; let b ← operandAt w 4; return (.mulh (w.getLsbD 25) d a b))
  else if w &&& 0x0000000F#32 = 0x00000002#32 then (do let d ← operandAt w 18; let a ← operandAt w 11; let b ← operandAt w 4; return (.mulhn (w.getLsbD 25) d a b))
  else if w &&& 0x0000000F#32 = 0x00000003#32 then (do let d ← operandAt w 18; let a ← operandAt w 11; let b ← operandAt w 4; return (.mad (w.getLsbD 25) d a b))
  else if w &&& 0x0000000F#32 = 0x00000004#32 then (do let d ← operandAt w 18; let a ← operandAt w 11; let b ← operandAt w 4; return (.div (w.getLsbD 25) d a b))
  else if w &&& 0x0000000F#32 = 0x00000005#32 then (do let d ← operandAt w 18; let a ← operandAt w 11; let b ← operandAt w 4; return (.divn (w.getLsbD 25) d a b))
  else if w &&& 0x0000000F#32 = 0x00000006#32 then (do let d ← operandAt w 18; let a ← operandAt w 11; let b ← operandAt w 4; return (.rem (w.getLsbD 25) d a b))
  else if w &&& 0x0000000F#32 = 0x00000007#32 then (do let d ← operandAt w 18; let a ← operandAt w 11; let b ← operandAt w 4; return (.remn (w.getLsbD 25) d a b))
  else .error .unassigned

/-- The words of major 0x0B (R42). -/
def decodeMajor0B (w : Word) : Except DecodeError Instr :=
  if w &&& 0x000007FF#32 = 0x00000700#32 then (do let d ← operandAt w 18; let a ← operandAt w 11; return (.clz (w.getLsbD 25) d a))
  else if w &&& 0x000007FF#32 = 0x00000701#32 then (do let d ← operandAt w 18; let a ← operandAt w 11; return (.ctz (w.getLsbD 25) d a))
  else if w &&& 0x000007FF#32 = 0x00000702#32 then (do let d ← operandAt w 18; let a ← operandAt w 11; return (.popc (w.getLsbD 25) d a))
  else if w &&& 0x000007FF#32 = 0x00000703#32 then (do let d ← operandAt w 18; let a ← operandAt w 11; return (.brev (w.getLsbD 25) d a))
  else if w &&& 0x0000000F#32 = 0x00000004#32 then (do let d ← operandAt w 18; let a ← operandAt w 11; let b ← operandAt w 4; return (.bfe (w.getLsbD 25) d a b))
  else if w &&& 0x0000000F#32 = 0x00000005#32 then (do let d ← operandAt w 18; let a ← operandAt w 11; let b ← operandAt w 4; return (.bfes (w.getLsbD 25) d a b))
  else if w &&& 0x0000000F#32 = 0x00000006#32 then (do let d ← operandAt w 18; let a ← operandAt w 11; let b ← operandAt w 4; return (.bfi (w.getLsbD 25) d a b))
  else if w &&& 0x0000000F#32 = 0x00000007#32 then (do let d ← operandAt w 18; let a ← operandAt w 11; let b ← operandAt w 4; return (.bmix (w.getLsbD 25) d a b))
  else .error .unassigned

/-- The words of major 0x0C (R42). -/
def decodeMajor0C (w : Word) : Except DecodeError Instr :=
  if w &&& 0x0200000F#32 = 0x00000000#32 then (do let d ← operandAt w 18; let a ← operandAt w 11; let b ← operandAt w 4; return (.add64 d a b))
  else if w &&& 0x0200000F#32 = 0x00000001#32 then (do let d ← operandAt w 18; let a ← operandAt w 11; let b ← operandAt w 4; return (.sub64 d a b))
  else if w &&& 0x0200000F#32 = 0x00000002#32 then (do let d ← operandAt w 18; let a ← operandAt w 11; let b ← operandAt w 4; return (.shl64 d a b))
  else if w &&& 0x0200000F#32 = 0x00000003#32 then (do let d ← operandAt w 18; let a ← operandAt w 11; let b ← operandAt w 4; return (.shr64 d a b))
  else if w &&& 0x0200000F#32 = 0x00000004#32 then (do let d ← operandAt w 18; let a ← operandAt w 11; let b ← operandAt w 4; return (.sar64 d a b))
  else if w &&& 0x0200000F#32 = 0x00000005#32 then (do let d ← operandAt w 18; let a ← operandAt w 11; let b ← operandAt w 4; return (.mul64 d a b))
  else if w &&& 0x0200000F#32 = 0x00000006#32 then (do let d ← operandAt w 18; let a ← operandAt w 11; let b ← operandAt w 4; return (.mul64n d a b))
  else if w &&& 0x0200000F#32 = 0x00000007#32 then (do let d ← operandAt w 18; let a ← operandAt w 11; let b ← operandAt w 4; return (.lea64 d a b))
  else .error .unassigned

/-- The words of major 0x0D (R42). -/
def decodeMajor0D (w : Word) : Except DecodeError Instr :=
  if w &&& 0x03C00000#32 = 0x00000000#32 then (do let a ← operandAt w 11; let b ← operandAt w 4; return (.cmp (w.extractLsb' 18 4) a b (w.extractLsb' 0 4)))
  else if w &&& 0x03C00000#32 = 0x00400000#32 then (do let a ← operandAt w 11; let b ← operandAt w 4; return (.cmp64 (w.extractLsb' 18 4) a b (w.extractLsb' 0 4)))
  else .error .unassigned

/-- The words of major 0x0E (R42). -/
def decodeMajor0E (w : Word) : Except DecodeError Instr :=
  if w &&& 0x0003FFFF#32 = 0x0003870C#32 then (do let d ← operandAt w 18; return (.elect (w.getLsbD 25) d))
  else if w &&& 0x03C007FF#32 = 0x00000701#32 then (do let a ← operandAt w 11; return (.pfrom (w.extractLsb' 18 4) a))
  else if w &&& 0x000387FF#32 = 0x00000700#32 then (do let d ← operandAt w 18; return (.ballot (w.getLsbD 25) d (w.extractLsb' 11 4)))
  else if w &&& 0x000007FF#32 = 0x00000702#32 then (do let d ← operandAt w 18; let a ← operandAt w 11; return (.matchLanes (w.getLsbD 25) d a))
  else if w &&& 0x000007FF#32 = 0x00000703#32 then (do let d ← operandAt w 18; let a ← operandAt w 11; return (.psum (w.getLsbD 25) d a))
  else if w &&& 0x000007FF#32 = 0x00000704#32 then (do let d ← operandAt w 18; let a ← operandAt w 11; return (.psumi (w.getLsbD 25) d a))
  else if w &&& 0x0000078F#32 = 0x00000005#32 then (do let d ← operandAt w 18; let a ← operandAt w 11; return (.lred (w.getLsbD 25) d a (w.extractLsb' 4 3)))
  else if w &&& 0x0000000F#32 = 0x00000006#32 then (do let d ← operandAt w 18; let a ← operandAt w 11; let b ← operandAt w 4; return (.shfl (w.getLsbD 25) d a b))
  else if w &&& 0x0000000F#32 = 0x00000007#32 then (do let d ← operandAt w 18; let a ← operandAt w 11; let b ← operandAt w 4; return (.shflup (w.getLsbD 25) d a b))
  else if w &&& 0x0000000F#32 = 0x00000008#32 then (do let d ← operandAt w 18; let a ← operandAt w 11; let b ← operandAt w 4; return (.shfldn (w.getLsbD 25) d a b))
  else if w &&& 0x0000000F#32 = 0x00000009#32 then (do let d ← operandAt w 18; let a ← operandAt w 11; let b ← operandAt w 4; return (.shflx (w.getLsbD 25) d a b))
  else if w &&& 0x0000000F#32 = 0x0000000A#32 then (do let d ← operandAt w 18; let a ← operandAt w 11; let b ← operandAt w 4; return (.rdlane (w.getLsbD 25) d a b))
  else if w &&& 0x0000000F#32 = 0x0000000B#32 then (do let d ← operandAt w 18; let a ← operandAt w 11; let b ← operandAt w 4; return (.wrlane (w.getLsbD 25) d a b))
  else .error .unassigned

/-- The words of major 0x0F (R42). -/
def decodeMajor0F (w : Word) : Except DecodeError Instr :=
  if w &&& 0x0003FFFF#32 = 0x00038702#32 then (do let d ← operandAt w 18; return (.active (w.getLsbD 25) d))
  else if w &&& 0x020007FF#32 = 0x00000701#32 then (do let d ← operandAt w 18; let a ← operandAt w 11; return (.mov64 d a))
  else if w &&& 0x000007FF#32 = 0x00000700#32 then (do let d ← operandAt w 18; let a ← operandAt w 11; return (.mov (w.getLsbD 25) d a))
  else .error .unassigned

/-- The words of major 0x10 (R42). -/
def decodeMajor10 (w : Word) : Except DecodeError Instr :=
  (do let d ← operandAt w 18; let a ← operandAt w 11; return (.addi (w.getLsbD 25) d a (w.extractLsb' 0 11)))

/-- The words of major 0x11 (R42). -/
def decodeMajor11 (w : Word) : Except DecodeError Instr :=
  (do let d ← operandAt w 18; let a ← operandAt w 11; return (.andi (w.getLsbD 25) d a (w.extractLsb' 0 11)))

/-- The words of major 0x12 (R42). -/
def decodeMajor12 (w : Word) : Except DecodeError Instr :=
  (do let d ← operandAt w 18; let a ← operandAt w 11; return (.ori (w.getLsbD 25) d a (w.extractLsb' 0 11)))

/-- The words of major 0x13 (R42). -/
def decodeMajor13 (w : Word) : Except DecodeError Instr :=
  (do let d ← operandAt w 18; let a ← operandAt w 11; return (.xori (w.getLsbD 25) d a (w.extractLsb' 0 11)))

/-- The words of major 0x14 (R42). -/
def decodeMajor14 (w : Word) : Except DecodeError Instr :=
  if w &&& 0x000007E0#32 = 0x00000000#32 then (do let d ← operandAt w 18; let a ← operandAt w 11; return (.shli (w.getLsbD 25) d a (w.extractLsb' 0 5)))
  else if w &&& 0x000007E0#32 = 0x00000200#32 then (do let d ← operandAt w 18; let a ← operandAt w 11; return (.shri (w.getLsbD 25) d a (w.extractLsb' 0 5)))
  else if w &&& 0x000007E0#32 = 0x00000400#32 then (do let d ← operandAt w 18; let a ← operandAt w 11; return (.sari (w.getLsbD 25) d a (w.extractLsb' 0 5)))
  else .error .unassigned

/-- The words of major 0x15 (R42). -/
def decodeMajor15 (w : Word) : Except DecodeError Instr :=
  if w &&& 0x0003F800#32 = 0x00038000#32 then (do let d ← operandAt w 18; return (.movi (w.getLsbD 25) d (w.extractLsb' 0 11)))
  else .error .unassigned

/-- The words of major 0x16 (R42). -/
def decodeMajor16 (w : Word) : Except DecodeError Instr :=
  if w &&& 0x02000000#32 = 0x00000000#32 then (do let a ← operandAt w 11; return (.cmpi (w.extractLsb' 22 3) (w.extractLsb' 18 4) a (w.extractLsb' 0 11)))
  else .error .unassigned

/-- The words of major 0x17 (R42). -/
def decodeMajor17 (w : Word) : Except DecodeError Instr :=
  (do let d ← operandAt w 18; let a ← operandAt w 11; return (.muli (w.getLsbD 25) d a (w.extractLsb' 0 11)))

/-- The words of major 0x18 (R42). -/
def decodeMajor18 (w : Word) : Except DecodeError Instr :=
  (do let d ← operandAt w 18; let a ← operandAt w 11; let b ← operandAt w 4; return (.fadd (w.getLsbD 25) d a b (w.extractLsb' 2 2) (w.extractLsb' 0 2)))

/-- The words of major 0x19 (R42). -/
def decodeMajor19 (w : Word) : Except DecodeError Instr :=
  (do let d ← operandAt w 18; let a ← operandAt w 11; let b ← operandAt w 4; return (.fsub (w.getLsbD 25) d a b (w.extractLsb' 2 2) (w.extractLsb' 0 2)))

/-- The words of major 0x1A (R42). -/
def decodeMajor1A (w : Word) : Except DecodeError Instr :=
  (do let d ← operandAt w 18; let a ← operandAt w 11; let b ← operandAt w 4; return (.fmul (w.getLsbD 25) d a b (w.extractLsb' 2 2) (w.extractLsb' 0 2)))

/-- The words of major 0x1B (R42). -/
def decodeMajor1B (w : Word) : Except DecodeError Instr :=
  (do let d ← operandAt w 18; let a ← operandAt w 11; let b ← operandAt w 4; return (.ffma (w.getLsbD 25) d a b (w.extractLsb' 2 2) (w.extractLsb' 0 2)))

/-- The words of major 0x1C (R42). -/
def decodeMajor1C (w : Word) : Except DecodeError Instr :=
  if w &&& 0x03FC07FF#32 = 0x01C0070D#32 then (do let a ← operandAt w 11; return (.srseed a))
  else if w &&& 0x000007FF#32 = 0x00000702#32 then (do let d ← operandAt w 18; let a ← operandAt w 11; return (.fabs (w.getLsbD 25) d a))
  else if w &&& 0x000007FF#32 = 0x00000703#32 then (do let d ← operandAt w 18; let a ← operandAt w 11; return (.fneg (w.getLsbD 25) d a))
  else if w &&& 0x000007FF#32 = 0x00000705#32 then (do let d ← operandAt w 18; let a ← operandAt w 11; return (.fclass (w.getLsbD 25) d a))
  else if w &&& 0x000007FF#32 = 0x00000708#32 then (do let d ← operandAt w 18; let a ← operandAt w 11; return (.frcp (w.getLsbD 25) d a))
  else if w &&& 0x000007FF#32 = 0x00000709#32 then (do let d ← operandAt w 18; let a ← operandAt w 11; return (.frsq (w.getLsbD 25) d a))
  else if w &&& 0x000007FF#32 = 0x0000070A#32 then (do let d ← operandAt w 18; let a ← operandAt w 11; return (.fsqrt (w.getLsbD 25) d a))
  else if w &&& 0x000007FF#32 = 0x0000070B#32 then (do let d ← operandAt w 18; let a ← operandAt w 11; return (.fex2 (w.getLsbD 25) d a))
  else if w &&& 0x000007FF#32 = 0x0000070C#32 then (do let d ← operandAt w 18; let a ← operandAt w 11; return (.flg2 (w.getLsbD 25) d a))
  else if w &&& 0x000007CF#32 = 0x00000006#32 then (do let d ← operandAt w 18; let a ← operandAt w 11; return (.frint (w.getLsbD 25) d a (w.extractLsb' 4 2)))
  else if w &&& 0x0000000F#32 = 0x00000000#32 then (do let d ← operandAt w 18; let a ← operandAt w 11; let b ← operandAt w 4; return (.fmin (w.getLsbD 25) d a b))
  else if w &&& 0x0000000F#32 = 0x00000001#32 then (do let d ← operandAt w 18; let a ← operandAt w 11; let b ← operandAt w 4; return (.fmax (w.getLsbD 25) d a b))
  else if w &&& 0x0000000F#32 = 0x00000004#32 then (do let d ← operandAt w 18; let a ← operandAt w 11; let b ← operandAt w 4; return (.fcopysign (w.getLsbD 25) d a b))
  else if w &&& 0x0000000F#32 = 0x00000007#32 then (do let d ← operandAt w 18; let a ← operandAt w 11; let b ← operandAt w 4; return (.fscale (w.getLsbD 25) d a b))
  else .error .unassigned

/-- The words of major 0x1D (R42). -/
def decodeMajor1D (w : Word) : Except DecodeError Instr :=
  if w &&& 0x03000000#32 = 0x00000000#32 then (do let a ← operandAt w 11; let b ← operandAt w 4; return (.fcmp (w.extractLsb' 22 2) (w.extractLsb' 18 4) a b (w.extractLsb' 0 4)))
  else .error .unassigned

/-- The words of major 0x1E (R42). -/
def decodeMajor1E (w : Word) : Except DecodeError Instr :=
  (do let d ← operandAt w 18; let a ← operandAt w 11; return (.fcvt (w.getLsbD 25) d a (w.extractLsb' 8 3) (w.extractLsb' 4 4) (w.extractLsb' 0 4)))

/-- The words of major 0x20 (R42). -/
def decodeMajor20 (w : Word) : Except DecodeError Instr :=
  if w &&& 0x0383FFFF#32 = 0x00038704#32 then .ok (.tscaleRemove (w.extractLsb' 18 5))
  else if w &&& 0x03FC07EF#32 = 0x01C00001#32 then (do let a ← operandAt w 11; return (.trel a (w.getLsbD 4)))
  else if w &&& 0x03FC07EF#32 = 0x01C00002#32 then (do let a ← operandAt w 11; return (.tzero a (w.getLsbD 4)))
  else if w &&& 0x0203FFCF#32 = 0x00038003#32 then (do let d ← operandAt w 18; return (.tstat d (w.extractLsb' 4 2)))
  else if w &&& 0x0383070F#32 = 0x00000004#32 then .ok (.tscale (w.extractLsb' 18 5) (w.extractLsb' 11 5) (w.extractLsb' 4 4))
  else if w &&& 0x020007EF#32 = 0x00000000#32 then (do let d ← operandAt w 18; let a ← operandAt w 11; return (.tclaim d a (w.getLsbD 4)))
  else .error .unassigned

/-- The words of major 0x21 (R42). -/
def decodeMajor21 (w : Word) : Except DecodeError Instr :=
  if w &&& 0x0380070F#32 = 0x00000002#32 then (do let a ← operandAt w 11; return (.tlds (w.extractLsb' 18 5) a (w.extractLsb' 4 4)))
  else if w &&& 0x0200078F#32 = 0x00000004#32 then (do let d ← operandAt w 18; let a ← operandAt w 11; return (.tmv d a (w.extractLsb' 4 3)))
  else if w &&& 0x03E0000F#32 = 0x00000005#32 then (do let a ← operandAt w 11; let b ← operandAt w 4; return (.tmvi (w.extractLsb' 18 3) a b))
  else if w &&& 0x0380000F#32 = 0x00000000#32 then (do let a ← operandAt w 11; let b ← operandAt w 4; return (.tld (w.extractLsb' 18 5) a b))
  else if w &&& 0x0200000F#32 = 0x00000001#32 then (do let a ← operandAt w 11; let b ← operandAt w 4; return (.tldx (w.extractLsb' 23 2) (w.extractLsb' 18 5) a b))
  else if w &&& 0x0200000F#32 = 0x00000003#32 then (do let a ← operandAt w 11; return (.tst (w.extractLsb' 21 4) (w.extractLsb' 18 3) a (w.extractLsb' 8 3) (w.extractLsb' 4 4)))
  else .error .unassigned

/-- The words of major 0x22 (R42). -/
def decodeMajor22 (w : Word) : Except DecodeError Instr :=
  if w &&& 0x03820400#32 = 0x00000000#32 then .ok (.mma (w.getLsbD 22) (w.getLsbD 21) (w.extractLsb' 18 3) (w.getLsbD 16) (w.extractLsb' 11 5) (w.getLsbD 9) (w.extractLsb' 4 5) (w.extractLsb' 0 4))
  else .error .unassigned

/-- The words of major 0x23 (R42). -/
def decodeMajor23 (w : Word) : Except DecodeError Instr :=
  if w &&& 0x02420400#32 = 0x00000000#32 then .ok (.mms (w.extractLsb' 23 2) (w.getLsbD 21) (w.extractLsb' 18 3) (w.getLsbD 16) (w.extractLsb' 11 5) (w.getLsbD 9) (w.extractLsb' 4 5) (w.extractLsb' 0 4))
  else .error .unassigned

/-- The words of major 0x24 (R42). -/
def decodeMajor24 (w : Word) : Except DecodeError Instr :=
  (do let d ← operandAt w 15; let a ← operandAt w 8; return (.atom64 (w.extractLsb' 22 4) d a (w.extractLsb' 4 4) (w.extractLsb' 2 2) (w.extractLsb' 0 2)))

/-- The words of major 0x25 (R42). -/
def decodeMajor25 (w : Word) : Except DecodeError Instr :=
  if w &&& 0x000000F8#32 = 0x000000F0#32 then (do let d ← operandAt w 15; let a ← operandAt w 8; return (.casl (w.extractLsb' 22 4) d a (w.extractLsb' 2 1) (w.extractLsb' 0 2)))
  else if w &&& 0x00000008#32 = 0x00000000#32 then (do let d ← operandAt w 15; let a ← operandAt w 8; return (.atoml (w.extractLsb' 22 4) d a (w.extractLsb' 4 4) (w.extractLsb' 2 1) (w.extractLsb' 0 2)))
  else .error .unassigned

/-- The words of major 0x26 (R42). -/
def decodeMajor26 (w : Word) : Except DecodeError Instr :=
  if w &&& 0x020007CF#32 = 0x00000003#32 then (do let d ← operandAt w 18; let a ← operandAt w 11; return (.trstat d a (w.extractLsb' 4 2)))
  else if w &&& 0x0200000F#32 = 0x00000000#32 then (do let d ← operandAt w 18; let a ← operandAt w 11; let b ← operandAt w 4; return (.tred d a b))
  else if w &&& 0x0200000F#32 = 0x00000001#32 then (do let d ← operandAt w 18; let a ← operandAt w 11; let b ← operandAt w 4; return (.trwait d a b))
  else if w &&& 0x0200000F#32 = 0x00000002#32 then (do let d ← operandAt w 18; let a ← operandAt w 11; let b ← operandAt w 4; return (.trdef d a b))
  else .error .unassigned

/-- The words of major 0x28 (R42). -/
def decodeMajor28 (w : Word) : Except DecodeError Instr :=
  (do let d ← operandAt w 15; let a ← operandAt w 8; return (.ldv (w.extractLsb' 22 4) d a (w.extractLsb' 5 3) (w.extractLsb' 3 2) (w.getLsbD 2) (w.getLsbD 1) (w.getLsbD 0)))

/-- The words of major 0x29 (R42). -/
def decodeMajor29 (w : Word) : Except DecodeError Instr :=
  (do let d ← operandAt w 15; let a ← operandAt w 8; return (.stv (w.extractLsb' 22 4) d a (w.extractLsb' 5 3) (w.extractLsb' 3 2) (w.getLsbD 2) (w.getLsbD 1) (w.getLsbD 0)))

/-- The words of major 0x2A (R42). -/
def decodeMajor2A (w : Word) : Except DecodeError Instr :=
  (do let d ← operandAt w 15; let a ← operandAt w 8; return (.lds (w.extractLsb' 22 4) d a (w.extractLsb' 5 3) (w.extractLsb' 3 2) (w.getLsbD 2) (w.getLsbD 1) (w.getLsbD 0)))

/-- The words of major 0x2B (R42). -/
def decodeMajor2B (w : Word) : Except DecodeError Instr :=
  (do let d ← operandAt w 15; let a ← operandAt w 8; return (.sts (w.extractLsb' 22 4) d a (w.extractLsb' 5 3) (w.extractLsb' 3 2) (w.getLsbD 2) (w.getLsbD 1) (w.getLsbD 0)))

/-- The words of major 0x2C (R42). -/
def decodeMajor2C (w : Word) : Except DecodeError Instr :=
  (do let d ← operandAt w 15; let a ← operandAt w 8; return (.ldl (w.extractLsb' 22 4) d a (w.extractLsb' 5 3) (w.extractLsb' 3 2) (w.getLsbD 2) (w.getLsbD 1) (w.getLsbD 0)))

/-- The words of major 0x2D (R42). -/
def decodeMajor2D (w : Word) : Except DecodeError Instr :=
  (do let d ← operandAt w 15; let a ← operandAt w 8; return (.stl (w.extractLsb' 22 4) d a (w.extractLsb' 5 3) (w.extractLsb' 3 2) (w.getLsbD 2) (w.getLsbD 1) (w.getLsbD 0)))

/-- The words of major 0x2E (R42). -/
def decodeMajor2E (w : Word) : Except DecodeError Instr :=
  if w &&& 0x03FFFFFF#32 = 0x01C38011#32 then .ok (.invlAll)
  else if w &&& 0x03FFFFFF#32 = 0x01C38703#32 then .ok (.sdrain)
  else if w &&& 0x03FC07FF#32 = 0x01C00001#32 then (do let a ← operandAt w 11; return (.invl a))
  else if w &&& 0x03FC07FF#32 = 0x01C00704#32 then (do let a ← operandAt w 11; return (.sete a))
  else if w &&& 0x03FC07FF#32 = 0x01C00705#32 then (do let a ← operandAt w 11; return (.setf a))
  else if w &&& 0x03FC078F#32 = 0x01C00000#32 then (do let a ← operandAt w 11; return (.pref a (w.extractLsb' 5 2) (w.getLsbD 4)))
  else if w &&& 0x020007FF#32 = 0x00000707#32 then (do let d ← operandAt w 18; let a ← operandAt w 11; return (.probe d a))
  else if w &&& 0x01FC000F#32 = 0x01C00002#32 then (do let a ← operandAt w 11; let b ← operandAt w 4; return (.wbl (w.getLsbD 25) a b))
  else if w &&& 0x0200000F#32 = 0x00000006#32 then (do let d ← operandAt w 18; let a ← operandAt w 11; let b ← operandAt w 4; return (.bankcfg d a b))
  else .error .unassigned

/-- The words of major 0x30 (R42). -/
def decodeMajor30 (w : Word) : Except DecodeError Instr :=
  if w &&& 0x03FFFFCF#32 = 0x01C38002#32 then .ok (.acqa (w.extractLsb' 4 2))
  else if w &&& 0x03FFFFCF#32 = 0x01C38003#32 then .ok (.rela (w.extractLsb' 4 2))
  else if w &&& 0x03FC07CF#32 = 0x01C00000#32 then (do let a ← operandAt w 11; return (.acq a (w.extractLsb' 4 2)))
  else if w &&& 0x03FC07CF#32 = 0x01C00001#32 then (do let a ← operandAt w 11; return (.rel a (w.extractLsb' 4 2)))
  else if w &&& 0x0203FFCF#32 = 0x00038006#32 then (do let d ← operandAt w 18; return (.fence d (w.extractLsb' 4 2)))
  else if w &&& 0x03FFC00F#32 = 0x01C00007#32 then .ok (.waitcnt (w.extractLsb' 11 3) (w.extractLsb' 4 7))
  else if w &&& 0x020007FF#32 = 0x00000705#32 then (do let d ← operandAt w 18; let a ← operandAt w 11; return (.unbind d a))
  else if w &&& 0x0200000F#32 = 0x00000004#32 then (do let d ← operandAt w 18; let a ← operandAt w 11; let b ← operandAt w 4; return (.bind d a b))
  else .error .unassigned

/-- The words of major 0x31 (R42). -/
def decodeMajor31 (w : Word) : Except DecodeError Instr :=
  if w &&& 0x00000006#32 = 0x00000000#32 then (do let d ← operandAt w 15; let a ← operandAt w 8; return (.ldacq (w.extractLsb' 22 4) d a (w.extractLsb' 5 3) (w.extractLsb' 3 2) (w.getLsbD 0)))
  else .error .unassigned

/-- The words of major 0x32 (R42). -/
def decodeMajor32 (w : Word) : Except DecodeError Instr :=
  if w &&& 0x00000006#32 = 0x00000000#32 then (do let d ← operandAt w 15; let a ← operandAt w 8; return (.strel (w.extractLsb' 22 4) d a (w.extractLsb' 5 3) (w.extractLsb' 3 2) (w.getLsbD 0)))
  else .error .unassigned

/-- The words of major 0x33 (R42). -/
def decodeMajor33 (w : Word) : Except DecodeError Instr :=
  if w &&& 0x03FC07FF#32 = 0x01C00704#32 then (do let a ← operandAt w 11; return (.cbar a))
  else if w &&& 0x03FC078F#32 = 0x01C00005#32 then (do let a ← operandAt w 11; return (.srput a (w.extractLsb' 4 3)))
  else if w &&& 0x03FC078F#32 = 0x01C00006#32 then (do let a ← operandAt w 11; return (.srtake a (w.extractLsb' 4 3)))
  else if w &&& 0x03FC078F#32 = 0x01C00007#32 then (do let a ← operandAt w 11; return (.srwaitFull a (w.extractLsb' 4 3)))
  else if w &&& 0x03FC078F#32 = 0x01C00087#32 then (do let a ← operandAt w 11; return (.srwaitFree a (w.extractLsb' 4 3)))
  else if w &&& 0x03FC070F#32 = 0x01C00000#32 then (do let a ← operandAt w 11; return (.binit a (w.extractLsb' 4 4)))
  else if w &&& 0x03FC070F#32 = 0x01C00002#32 then (do let a ← operandAt w 11; return (.bwait a (w.extractLsb' 4 4)))
  else if w &&& 0x03FC070F#32 = 0x01C00003#32 then (do let a ← operandAt w 11; return (.bsync a (w.extractLsb' 4 4)))
  else if w &&& 0x0200070F#32 = 0x00000001#32 then (do let d ← operandAt w 18; let a ← operandAt w 11; return (.barv d a (w.extractLsb' 4 4)))
  else .error .unassigned

/-- The words of major 0x34 (R42). -/
def decodeMajor34 (w : Word) : Except DecodeError Instr :=
  (do let d ← operandAt w 15; let a ← operandAt w 8; return (.atom (w.extractLsb' 22 4) d a (w.extractLsb' 4 4) (w.extractLsb' 2 2) (w.extractLsb' 0 2)))

/-- The words of major 0x35 (R42). -/
def decodeMajor35 (w : Word) : Except DecodeError Instr :=
  if w &&& 0x00000001#32 = 0x00000000#32 then (do let d ← operandAt w 15; let a ← operandAt w 8; return (.red (w.extractLsb' 22 4) d a (w.extractLsb' 4 4) (w.extractLsb' 2 2) (w.getLsbD 1)))
  else .error .unassigned

/-- The words of major 0x36 (R42). -/
def decodeMajor36 (w : Word) : Except DecodeError Instr :=
  if w &&& 0x000000C0#32 = 0x00000000#32 then (do let d ← operandAt w 15; let a ← operandAt w 8; return (.cas (w.extractLsb' 22 4) d a (w.extractLsb' 4 2) (w.extractLsb' 2 2) (w.extractLsb' 0 2)))
  else .error .unassigned

/-- The words of major 0x38 (R42). -/
def decodeMajor38 (w : Word) : Except DecodeError Instr :=
  if w &&& 0x03FFFFFF#32 = 0x01C38701#32 then .ok (.xserial)
  else if w &&& 0x03FFFFFF#32 = 0x01C38702#32 then .ok (.xclose)
  else if w &&& 0x0203FFFF#32 = 0x00038700#32 then (do let d ← operandAt w 18; return (.xopen d))
  else if w &&& 0x03FC07FF#32 = 0x01C00703#32 then (do let a ← operandAt w 11; return (.xquit a))
  else if w &&& 0x0203FFFF#32 = 0x00038704#32 then (do let d ← operandAt w 18; return (.xstat d))
  else if w &&& 0x0203FF8F#32 = 0x00038005#32 then (do let d ← operandAt w 18; return (.xdeps d (w.extractLsb' 4 3)))
  else .error .unassigned

/-- The words of major 0x39 (R42). -/
def decodeMajor39 (w : Word) : Except DecodeError Instr :=
  if w &&& 0x03FC07FF#32 = 0x01C00701#32 then (do let a ← operandAt w 11; return (.lfree a))
  else if w &&& 0x0200000F#32 = 0x00000000#32 then (do let d ← operandAt w 18; let a ← operandAt w 11; let b ← operandAt w 4; return (.lrec d a b))
  else if w &&& 0x0200000F#32 = 0x00000002#32 then (do let d ← operandAt w 18; let a ← operandAt w 11; let b ← operandAt w 4; return (.cpy d a b))
  else if w &&& 0x0200000F#32 = 0x00000003#32 then (do let d ← operandAt w 18; let a ← operandAt w 11; let b ← operandAt w 4; return (.cpyg d a b))
  else if w &&& 0x0200000F#32 = 0x00000004#32 then (do let d ← operandAt w 18; let a ← operandAt w 11; let b ← operandAt w 4; return (.cpys d a b))
  else if w &&& 0x0200000F#32 = 0x00000005#32 then (do let d ← operandAt w 18; let a ← operandAt w 11; let b ← operandAt w 4; return (.cpyc d a b))
  else if w &&& 0x0200000F#32 = 0x00000006#32 then (do let d ← operandAt w 18; let a ← operandAt w 11; let b ← operandAt w 4; return (.cpym d a b))
  else if w &&& 0x0200000F#32 = 0x00000007#32 then (do let d ← operandAt w 18; let a ← operandAt w 11; let b ← operandAt w 4; return (.cpye d a b))
  else if w &&& 0x0200000F#32 = 0x00000008#32 then (do let d ← operandAt w 18; let a ← operandAt w 11; let b ← operandAt w 4; return (.cpyf d a b))
  else .error .unassigned

/-- The words of major 0x3A (R42). -/
def decodeMajor3A (w : Word) : Except DecodeError Instr :=
  if w &&& 0x03FFFF0F#32 = 0x01C38001#32 then .ok (.chfree (w.getLsbD 7) (w.extractLsb' 4 3))
  else if w &&& 0x0203FF8F#32 = 0x00038002#32 then (do let d ← operandAt w 18; return (.chstat d (w.extractLsb' 4 3)))
  else if w &&& 0x03FC060F#32 = 0x01C00003#32 then (do let a ← operandAt w 11; return (.send a (w.extractLsb' 7 2) (w.extractLsb' 4 3)))
  else if w &&& 0x020007FF#32 = 0x00000704#32 then (do let d ← operandAt w 18; let a ← operandAt w 11; return (.lstat d a))
  else if w &&& 0x0200000F#32 = 0x00000000#32 then (do let d ← operandAt w 18; let a ← operandAt w 11; let b ← operandAt w 4; return (.chbind d a b))
  else .error .unassigned

/-- The words of major 0x3B (R42). -/
def decodeMajor3B (w : Word) : Except DecodeError Instr :=
  if w &&& 0x03FFFFFF#32 = 0x01C38706#32 then .ok (.nopre)
  else if w &&& 0x03FFFFFF#32 = 0x01C38707#32 then .ok (.okpre)
  else if w &&& 0x03FFF80F#32 = 0x01C38004#32 then (do let b ← operandAt w 4; return (.itemclose b))
  else if w &&& 0x020007FF#32 = 0x00000700#32 then (do let d ← operandAt w 18; let a ← operandAt w 11; return (.launch d a))
  else if w &&& 0x020007FF#32 = 0x00000701#32 then (do let d ← operandAt w 18; let a ← operandAt w 11; return (.lwait d a))
  else if w &&& 0x020007FF#32 = 0x00000702#32 then (do let d ← operandAt w 18; let a ← operandAt w 11; return (.lquery d a))
  else if w &&& 0x03FC000F#32 = 0x01C00003#32 then (do let a ← operandAt w 11; let b ← operandAt w 4; return (.itemput a b))
  else if w &&& 0x0200000F#32 = 0x00000005#32 then (do let d ← operandAt w 18; let a ← operandAt w 11; let b ← operandAt w 4; return (.prio d a b))
  else if w &&& 0x0200000F#32 = 0x00000008#32 then (do let d ← operandAt w 18; let a ← operandAt w 11; let b ← operandAt w 4; return (.gkill d a b))
  else .error .unassigned

/-- The words of major 0x3C (R42). -/
def decodeMajor3C (w : Word) : Except DecodeError Instr :=
  if w &&& 0x03FFFFFF#32 = 0x01C38704#32 then .ok (.brk)
  else if w &&& 0x03FC07FF#32 = 0x01C00700#32 then (do let a ← operandAt w 11; return (.trap a))
  else if w &&& 0x03FC07FF#32 = 0x01C00701#32 then (do let a ← operandAt w 11; return (.rett a))
  else if w &&& 0x020007FF#32 = 0x00000702#32 then (do let d ← operandAt w 18; let a ← operandAt w 11; return (.mfsr d a))
  else if w &&& 0x03FC000F#32 = 0x01C00003#32 then (do let a ← operandAt w 11; let b ← operandAt w 4; return (.mtsr a b))
  else if w &&& 0x0200000F#32 = 0x00000005#32 then (do let d ← operandAt w 18; let a ← operandAt w 11; let b ← operandAt w 4; return (.fpop d a b))
  else if w &&& 0x0200000F#32 = 0x00000006#32 then (do let d ← operandAt w 18; let a ← operandAt w 11; let b ← operandAt w 4; return (.fresume d a b))
  else .error .unassigned

/-- The words of major 0x3D (R42). -/
def decodeMajor3D (w : Word) : Except DecodeError Instr :=
  if w &&& 0x020007FF#32 = 0x00000704#32 then (do let d ← operandAt w 18; let a ← operandAt w 11; return (.mdrop d a))
  else if w &&& 0x020007CF#32 = 0x00000007#32 then (do let d ← operandAt w 18; let a ← operandAt w 11; return (.mstat d a (w.extractLsb' 4 2)))
  else if w &&& 0x0200000F#32 = 0x00000000#32 then (do let d ← operandAt w 18; let a ← operandAt w 11; let b ← operandAt w 4; return (.mscrub d a b))
  else if w &&& 0x0200000F#32 = 0x00000001#32 then (do let d ← operandAt w 18; let a ← operandAt w 11; let b ← operandAt w 4; return (.mretire d a b))
  else if w &&& 0x0200000F#32 = 0x00000002#32 then (do let d ← operandAt w 18; let a ← operandAt w 11; let b ← operandAt w 4; return (.mrepair d a b))
  else if w &&& 0x0200000F#32 = 0x00000003#32 then (do let d ← operandAt w 18; let a ← operandAt w 11; let b ← operandAt w 4; return (.mrebuild d a b))
  else if w &&& 0x0200000F#32 = 0x00000005#32 then (do let d ← operandAt w 18; let a ← operandAt w 11; let b ← operandAt w 4; return (.mplace d a b))
  else if w &&& 0x0200000F#32 = 0x00000006#32 then (do let d ← operandAt w 18; let a ← operandAt w 11; let b ← operandAt w 4; return (.minject d a b))
  else .error .unassigned

/-- The words of major 0x3E (R42). -/
def decodeMajor3E (w : Word) : Except DecodeError Instr :=
  .ok (.imx (w.extractLsb' 0 26))

/-- The row of a word by its major (R42), before the field rules of the row. -/
def decodeRow (w : Word) : Except DecodeError Instr :=
  match (w.extractLsb' 26 6).toNat with
  | 0x01 => decodeMajor01 w
  | 0x02 => decodeMajor02 w
  | 0x03 => decodeMajor03 w
  | 0x04 => decodeMajor04 w
  | 0x05 => decodeMajor05 w
  | 0x06 => decodeMajor06 w
  | 0x07 => decodeMajor07 w
  | 0x08 => decodeMajor08 w
  | 0x09 => decodeMajor09 w
  | 0x0A => decodeMajor0A w
  | 0x0B => decodeMajor0B w
  | 0x0C => decodeMajor0C w
  | 0x0D => decodeMajor0D w
  | 0x0E => decodeMajor0E w
  | 0x0F => decodeMajor0F w
  | 0x10 => decodeMajor10 w
  | 0x11 => decodeMajor11 w
  | 0x12 => decodeMajor12 w
  | 0x13 => decodeMajor13 w
  | 0x14 => decodeMajor14 w
  | 0x15 => decodeMajor15 w
  | 0x16 => decodeMajor16 w
  | 0x17 => decodeMajor17 w
  | 0x18 => decodeMajor18 w
  | 0x19 => decodeMajor19 w
  | 0x1A => decodeMajor1A w
  | 0x1B => decodeMajor1B w
  | 0x1C => decodeMajor1C w
  | 0x1D => decodeMajor1D w
  | 0x1E => decodeMajor1E w
  | 0x20 => decodeMajor20 w
  | 0x21 => decodeMajor21 w
  | 0x22 => decodeMajor22 w
  | 0x23 => decodeMajor23 w
  | 0x24 => decodeMajor24 w
  | 0x25 => decodeMajor25 w
  | 0x26 => decodeMajor26 w
  | 0x28 => decodeMajor28 w
  | 0x29 => decodeMajor29 w
  | 0x2A => decodeMajor2A w
  | 0x2B => decodeMajor2B w
  | 0x2C => decodeMajor2C w
  | 0x2D => decodeMajor2D w
  | 0x2E => decodeMajor2E w
  | 0x30 => decodeMajor30 w
  | 0x31 => decodeMajor31 w
  | 0x32 => decodeMajor32 w
  | 0x33 => decodeMajor33 w
  | 0x34 => decodeMajor34 w
  | 0x35 => decodeMajor35 w
  | 0x36 => decodeMajor36 w
  | 0x38 => decodeMajor38 w
  | 0x39 => decodeMajor39 w
  | 0x3A => decodeMajor3A w
  | 0x3B => decodeMajor3B w
  | 0x3C => decodeMajor3C w
  | 0x3D => decodeMajor3D w
  | 0x3E => decodeMajor3E w
  | _ => .error .unassigned

/-- Decoding a word: every word is an instruction or is refused by name. -/
def decode (w : Word) : Except DecodeError Instr :=
  match decodeRow w with
  | .ok i => if i.wf then .ok i else .error .malformed
  | .error e => .error e

/-- The word of four bytes stored least significant first (R28); none for fewer bytes. -/
def wordOfBytes : Bytes → Option Word
  | b0 :: b1 :: b2 :: b3 :: _ => some (b3 ++ b2 ++ b1 ++ b0)
  | _ => none

/-- The four bytes of a word, least significant first (R28). -/
def bytesOfWord (w : Word) : Bytes :=
  [w.extractLsb' 0 8, w.extractLsb' 8 8, w.extractLsb' 16 8, w.extractLsb' 24 8]

/-- What the decoder reads from instruction words laid out in memory order: the first word's instruction. -/
def decodeBytes (bs : Bytes) : Except DecodeError Instr :=
  match wordOfBytes bs with
  | some w => decode w
  | none => .error .unassigned

/-- The instruction of a row of spec/opcode_table.json whose bits are `w`. Every row is one word of 32 bits; an IMX
row is the word by itself. -/
def decodeTableWord (nbits w : Nat) : Option Instr :=
  match decodeBytes (bytesOfWord (BitVec.ofNat 32 (w % 2 ^ nbits))) with
  | .ok i => some i
  | .error _ => none

/-- The word of an instruction (R30 to R42 and the class chapters); an event has none. -/
def encode : Instr → List Word
  | .brt p disp => [1#6 ++ p ++ disp]
  | .brf p disp => [2#6 ++ p ++ disp]
  | .call disp => [3#6 ++ disp]
  | .brx a => [4#6 ++ 0#1 ++ 112#7 ++ encodeOperand a ++ 112#7 ++ 0#4]
  | .callx a => [4#6 ++ 0#1 ++ 112#7 ++ encodeOperand a ++ 112#7 ++ 1#4]
  | .ret => [4#6 ++ 0#1 ++ 112#7 ++ 112#7 ++ 112#7 ++ 2#4]
  | .retTargetPair a => [4#6 ++ 0#1 ++ 112#7 ++ encodeOperand a ++ 112#7 ++ 2#4]
  | .retLowWord b => [4#6 ++ 0#1 ++ 112#7 ++ 112#7 ++ encodeOperand b ++ 2#4]
  | .exit => [4#6 ++ 0#1 ++ 112#7 ++ 112#7 ++ 112#7 ++ 3#4]
  | .yield => [4#6 ++ 0#1 ++ 112#7 ++ 112#7 ++ 112#7 ++ 4#4]
  | .sleep a => [4#6 ++ 0#1 ++ 112#7 ++ encodeOperand a ++ 112#7 ++ 5#4]
  | .nop => [4#6 ++ 0#1 ++ 112#7 ++ 112#7 ++ 112#7 ++ 6#4]
  | .itemhead d => [4#6 ++ 0#1 ++ encodeOperand d ++ 112#7 ++ 112#7 ++ 7#4]
  | .itemnext d => [4#6 ++ 0#1 ++ encodeOperand d ++ 112#7 ++ 112#7 ++ 8#4]
  | .wbase d a => [4#6 ++ 0#1 ++ encodeOperand d ++ encodeOperand a ++ 112#7 ++ 9#4]
  | .wbadd d a => [4#6 ++ 0#1 ++ encodeOperand d ++ encodeOperand a ++ 112#7 ++ 10#4]
  | .hjoin h => [5#6 ++ 0#1 ++ 112#7 ++ 112#7 ++ 0#3 ++ h ++ 0#4]
  | .hleave h => [5#6 ++ 0#1 ++ 112#7 ++ 112#7 ++ 0#3 ++ h ++ 1#4]
  | .hwait h => [5#6 ++ 0#1 ++ 112#7 ++ 112#7 ++ 0#3 ++ h ++ 2#4]
  | .hset a h => [5#6 ++ 0#1 ++ 112#7 ++ encodeOperand a ++ 0#3 ++ h ++ 3#4]
  | .hget d h => [5#6 ++ 0#1 ++ encodeOperand d ++ 112#7 ++ 0#3 ++ h ++ 4#4]
  | .hcount d h => [5#6 ++ 0#1 ++ encodeOperand d ++ 112#7 ++ 0#3 ++ h ++ 5#4]
  | .hclr h => [5#6 ++ 0#1 ++ 112#7 ++ 112#7 ++ 0#3 ++ h ++ 6#4]
  | .sel nw d a b p => [6#6 ++ BitVec.ofBool nw ++ encodeOperand d ++ encodeOperand a ++ encodeOperand b ++ p]
  | .pand d a b => [7#6 ++ 0#1 ++ 0#3 ++ d ++ 0#3 ++ a ++ 0#3 ++ b ++ 0#4]
  | .por d a b => [7#6 ++ 0#1 ++ 0#3 ++ d ++ 0#3 ++ a ++ 0#3 ++ b ++ 1#4]
  | .pxor d a b => [7#6 ++ 0#1 ++ 0#3 ++ d ++ 0#3 ++ a ++ 0#3 ++ b ++ 2#4]
  | .pandn d a b => [7#6 ++ 0#1 ++ 0#3 ++ d ++ 0#3 ++ a ++ 0#3 ++ b ++ 3#4]
  | .pnot d a => [7#6 ++ 0#1 ++ 0#3 ++ d ++ 0#3 ++ a ++ 112#7 ++ 4#4]
  | .pmov d a => [7#6 ++ 0#1 ++ 0#3 ++ d ++ 0#3 ++ a ++ 112#7 ++ 5#4]
  | .pclr d => [7#6 ++ 0#1 ++ 0#3 ++ d ++ 112#7 ++ 112#7 ++ 6#4]
  | .add nw d a b => [8#6 ++ BitVec.ofBool nw ++ encodeOperand d ++ encodeOperand a ++ encodeOperand b ++ 0#4]
  | .sub nw d a b => [8#6 ++ BitVec.ofBool nw ++ encodeOperand d ++ encodeOperand a ++ encodeOperand b ++ 1#4]
  | .min nw d a b => [8#6 ++ BitVec.ofBool nw ++ encodeOperand d ++ encodeOperand a ++ encodeOperand b ++ 2#4]
  | .max nw d a b => [8#6 ++ BitVec.ofBool nw ++ encodeOperand d ++ encodeOperand a ++ encodeOperand b ++ 3#4]
  | .minn nw d a b => [8#6 ++ BitVec.ofBool nw ++ encodeOperand d ++ encodeOperand a ++ encodeOperand b ++ 4#4]
  | .maxn nw d a b => [8#6 ++ BitVec.ofBool nw ++ encodeOperand d ++ encodeOperand a ++ encodeOperand b ++ 5#4]
  | .abs nw d a => [8#6 ++ BitVec.ofBool nw ++ encodeOperand d ++ encodeOperand a ++ 112#7 ++ 6#4]
  | .absdiff nw d a b => [8#6 ++ BitVec.ofBool nw ++ encodeOperand d ++ encodeOperand a ++ encodeOperand b ++ 7#4]
  | .addsat nw d a b => [8#6 ++ BitVec.ofBool nw ++ encodeOperand d ++ encodeOperand a ++ encodeOperand b ++ 8#4]
  | .subsat nw d a b => [8#6 ++ BitVec.ofBool nw ++ encodeOperand d ++ encodeOperand a ++ encodeOperand b ++ 9#4]
  | .addsatn nw d a b => [8#6 ++ BitVec.ofBool nw ++ encodeOperand d ++ encodeOperand a ++ encodeOperand b ++ 10#4]
  | .subsatn nw d a b => [8#6 ++ BitVec.ofBool nw ++ encodeOperand d ++ encodeOperand a ++ encodeOperand b ++ 11#4]
  | .sad nw d a b => [8#6 ++ BitVec.ofBool nw ++ encodeOperand d ++ encodeOperand a ++ encodeOperand b ++ 12#4]
  | .and nw d a b => [9#6 ++ BitVec.ofBool nw ++ encodeOperand d ++ encodeOperand a ++ encodeOperand b ++ 0#4]
  | .or nw d a b => [9#6 ++ BitVec.ofBool nw ++ encodeOperand d ++ encodeOperand a ++ encodeOperand b ++ 1#4]
  | .xor nw d a b => [9#6 ++ BitVec.ofBool nw ++ encodeOperand d ++ encodeOperand a ++ encodeOperand b ++ 2#4]
  | .andn nw d a b => [9#6 ++ BitVec.ofBool nw ++ encodeOperand d ++ encodeOperand a ++ encodeOperand b ++ 3#4]
  | .orn nw d a b => [9#6 ++ BitVec.ofBool nw ++ encodeOperand d ++ encodeOperand a ++ encodeOperand b ++ 4#4]
  | .xnor nw d a b => [9#6 ++ BitVec.ofBool nw ++ encodeOperand d ++ encodeOperand a ++ encodeOperand b ++ 5#4]
  | .shl nw d a b => [9#6 ++ BitVec.ofBool nw ++ encodeOperand d ++ encodeOperand a ++ encodeOperand b ++ 6#4]
  | .shr nw d a b => [9#6 ++ BitVec.ofBool nw ++ encodeOperand d ++ encodeOperand a ++ encodeOperand b ++ 7#4]
  | .sar nw d a b => [9#6 ++ BitVec.ofBool nw ++ encodeOperand d ++ encodeOperand a ++ encodeOperand b ++ 8#4]
  | .rol nw d a b => [9#6 ++ BitVec.ofBool nw ++ encodeOperand d ++ encodeOperand a ++ encodeOperand b ++ 9#4]
  | .ror nw d a b => [9#6 ++ BitVec.ofBool nw ++ encodeOperand d ++ encodeOperand a ++ encodeOperand b ++ 10#4]
  | .mul nw d a b => [10#6 ++ BitVec.ofBool nw ++ encodeOperand d ++ encodeOperand a ++ encodeOperand b ++ 0#4]
  | .mulh nw d a b => [10#6 ++ BitVec.ofBool nw ++ encodeOperand d ++ encodeOperand a ++ encodeOperand b ++ 1#4]
  | .mulhn nw d a b => [10#6 ++ BitVec.ofBool nw ++ encodeOperand d ++ encodeOperand a ++ encodeOperand b ++ 2#4]
  | .mad nw d a b => [10#6 ++ BitVec.ofBool nw ++ encodeOperand d ++ encodeOperand a ++ encodeOperand b ++ 3#4]
  | .div nw d a b => [10#6 ++ BitVec.ofBool nw ++ encodeOperand d ++ encodeOperand a ++ encodeOperand b ++ 4#4]
  | .divn nw d a b => [10#6 ++ BitVec.ofBool nw ++ encodeOperand d ++ encodeOperand a ++ encodeOperand b ++ 5#4]
  | .rem nw d a b => [10#6 ++ BitVec.ofBool nw ++ encodeOperand d ++ encodeOperand a ++ encodeOperand b ++ 6#4]
  | .remn nw d a b => [10#6 ++ BitVec.ofBool nw ++ encodeOperand d ++ encodeOperand a ++ encodeOperand b ++ 7#4]
  | .clz nw d a => [11#6 ++ BitVec.ofBool nw ++ encodeOperand d ++ encodeOperand a ++ 112#7 ++ 0#4]
  | .ctz nw d a => [11#6 ++ BitVec.ofBool nw ++ encodeOperand d ++ encodeOperand a ++ 112#7 ++ 1#4]
  | .popc nw d a => [11#6 ++ BitVec.ofBool nw ++ encodeOperand d ++ encodeOperand a ++ 112#7 ++ 2#4]
  | .brev nw d a => [11#6 ++ BitVec.ofBool nw ++ encodeOperand d ++ encodeOperand a ++ 112#7 ++ 3#4]
  | .bfe nw d a b => [11#6 ++ BitVec.ofBool nw ++ encodeOperand d ++ encodeOperand a ++ encodeOperand b ++ 4#4]
  | .bfes nw d a b => [11#6 ++ BitVec.ofBool nw ++ encodeOperand d ++ encodeOperand a ++ encodeOperand b ++ 5#4]
  | .bfi nw d a b => [11#6 ++ BitVec.ofBool nw ++ encodeOperand d ++ encodeOperand a ++ encodeOperand b ++ 6#4]
  | .bmix nw d a b => [11#6 ++ BitVec.ofBool nw ++ encodeOperand d ++ encodeOperand a ++ encodeOperand b ++ 7#4]
  | .add64 d a b => [12#6 ++ 0#1 ++ encodeOperand d ++ encodeOperand a ++ encodeOperand b ++ 0#4]
  | .sub64 d a b => [12#6 ++ 0#1 ++ encodeOperand d ++ encodeOperand a ++ encodeOperand b ++ 1#4]
  | .shl64 d a b => [12#6 ++ 0#1 ++ encodeOperand d ++ encodeOperand a ++ encodeOperand b ++ 2#4]
  | .shr64 d a b => [12#6 ++ 0#1 ++ encodeOperand d ++ encodeOperand a ++ encodeOperand b ++ 3#4]
  | .sar64 d a b => [12#6 ++ 0#1 ++ encodeOperand d ++ encodeOperand a ++ encodeOperand b ++ 4#4]
  | .mul64 d a b => [12#6 ++ 0#1 ++ encodeOperand d ++ encodeOperand a ++ encodeOperand b ++ 5#4]
  | .mul64n d a b => [12#6 ++ 0#1 ++ encodeOperand d ++ encodeOperand a ++ encodeOperand b ++ 6#4]
  | .lea64 d a b => [12#6 ++ 0#1 ++ encodeOperand d ++ encodeOperand a ++ encodeOperand b ++ 7#4]
  | .cmp p a b c => [13#6 ++ 0#1 ++ 0#3 ++ p ++ encodeOperand a ++ encodeOperand b ++ c]
  | .cmp64 p a b c => [13#6 ++ 0#1 ++ 1#3 ++ p ++ encodeOperand a ++ encodeOperand b ++ c]
  | .ballot nw d p => [14#6 ++ BitVec.ofBool nw ++ encodeOperand d ++ 0#3 ++ p ++ 112#7 ++ 0#4]
  | .pfrom p a => [14#6 ++ 0#1 ++ 0#3 ++ p ++ encodeOperand a ++ 112#7 ++ 1#4]
  | .matchLanes nw d a => [14#6 ++ BitVec.ofBool nw ++ encodeOperand d ++ encodeOperand a ++ 112#7 ++ 2#4]
  | .psum nw d a => [14#6 ++ BitVec.ofBool nw ++ encodeOperand d ++ encodeOperand a ++ 112#7 ++ 3#4]
  | .psumi nw d a => [14#6 ++ BitVec.ofBool nw ++ encodeOperand d ++ encodeOperand a ++ 112#7 ++ 4#4]
  | .lred nw d a o => [14#6 ++ BitVec.ofBool nw ++ encodeOperand d ++ encodeOperand a ++ 0#4 ++ o ++ 5#4]
  | .shfl nw d a b => [14#6 ++ BitVec.ofBool nw ++ encodeOperand d ++ encodeOperand a ++ encodeOperand b ++ 6#4]
  | .shflup nw d a b => [14#6 ++ BitVec.ofBool nw ++ encodeOperand d ++ encodeOperand a ++ encodeOperand b ++ 7#4]
  | .shfldn nw d a b => [14#6 ++ BitVec.ofBool nw ++ encodeOperand d ++ encodeOperand a ++ encodeOperand b ++ 8#4]
  | .shflx nw d a b => [14#6 ++ BitVec.ofBool nw ++ encodeOperand d ++ encodeOperand a ++ encodeOperand b ++ 9#4]
  | .rdlane nw d a b => [14#6 ++ BitVec.ofBool nw ++ encodeOperand d ++ encodeOperand a ++ encodeOperand b ++ 10#4]
  | .wrlane nw d a b => [14#6 ++ BitVec.ofBool nw ++ encodeOperand d ++ encodeOperand a ++ encodeOperand b ++ 11#4]
  | .elect nw d => [14#6 ++ BitVec.ofBool nw ++ encodeOperand d ++ 112#7 ++ 112#7 ++ 12#4]
  | .mov nw d a => [15#6 ++ BitVec.ofBool nw ++ encodeOperand d ++ encodeOperand a ++ 112#7 ++ 0#4]
  | .mov64 d a => [15#6 ++ 0#1 ++ encodeOperand d ++ encodeOperand a ++ 112#7 ++ 1#4]
  | .active nw d => [15#6 ++ BitVec.ofBool nw ++ encodeOperand d ++ 112#7 ++ 112#7 ++ 2#4]
  | .addi nw d a i => [16#6 ++ BitVec.ofBool nw ++ encodeOperand d ++ encodeOperand a ++ i]
  | .andi nw d a i => [17#6 ++ BitVec.ofBool nw ++ encodeOperand d ++ encodeOperand a ++ i]
  | .ori nw d a i => [18#6 ++ BitVec.ofBool nw ++ encodeOperand d ++ encodeOperand a ++ i]
  | .xori nw d a i => [19#6 ++ BitVec.ofBool nw ++ encodeOperand d ++ encodeOperand a ++ i]
  | .shli nw d a c => [20#6 ++ BitVec.ofBool nw ++ encodeOperand d ++ encodeOperand a ++ 0#2 ++ 0#4 ++ c]
  | .shri nw d a c => [20#6 ++ BitVec.ofBool nw ++ encodeOperand d ++ encodeOperand a ++ 1#2 ++ 0#4 ++ c]
  | .sari nw d a c => [20#6 ++ BitVec.ofBool nw ++ encodeOperand d ++ encodeOperand a ++ 2#2 ++ 0#4 ++ c]
  | .movi nw d i => [21#6 ++ BitVec.ofBool nw ++ encodeOperand d ++ 112#7 ++ i]
  | .cmpi c p a i => [22#6 ++ 0#1 ++ c ++ p ++ encodeOperand a ++ i]
  | .muli nw d a i => [23#6 ++ BitVec.ofBool nw ++ encodeOperand d ++ encodeOperand a ++ i]
  | .imx i => [62#6 ++ i]
  | .fadd nw d a b f r => [24#6 ++ BitVec.ofBool nw ++ encodeOperand d ++ encodeOperand a ++ encodeOperand b ++ f ++ r]
  | .fsub nw d a b f r => [25#6 ++ BitVec.ofBool nw ++ encodeOperand d ++ encodeOperand a ++ encodeOperand b ++ f ++ r]
  | .fmul nw d a b f r => [26#6 ++ BitVec.ofBool nw ++ encodeOperand d ++ encodeOperand a ++ encodeOperand b ++ f ++ r]
  | .ffma nw d a b f r => [27#6 ++ BitVec.ofBool nw ++ encodeOperand d ++ encodeOperand a ++ encodeOperand b ++ f ++ r]
  | .fmin nw d a b => [28#6 ++ BitVec.ofBool nw ++ encodeOperand d ++ encodeOperand a ++ encodeOperand b ++ 0#4]
  | .fmax nw d a b => [28#6 ++ BitVec.ofBool nw ++ encodeOperand d ++ encodeOperand a ++ encodeOperand b ++ 1#4]
  | .fabs nw d a => [28#6 ++ BitVec.ofBool nw ++ encodeOperand d ++ encodeOperand a ++ 112#7 ++ 2#4]
  | .fneg nw d a => [28#6 ++ BitVec.ofBool nw ++ encodeOperand d ++ encodeOperand a ++ 112#7 ++ 3#4]
  | .fcopysign nw d a b => [28#6 ++ BitVec.ofBool nw ++ encodeOperand d ++ encodeOperand a ++ encodeOperand b ++ 4#4]
  | .fclass nw d a => [28#6 ++ BitVec.ofBool nw ++ encodeOperand d ++ encodeOperand a ++ 112#7 ++ 5#4]
  | .frint nw d a r => [28#6 ++ BitVec.ofBool nw ++ encodeOperand d ++ encodeOperand a ++ 0#5 ++ r ++ 6#4]
  | .fscale nw d a b => [28#6 ++ BitVec.ofBool nw ++ encodeOperand d ++ encodeOperand a ++ encodeOperand b ++ 7#4]
  | .frcp nw d a => [28#6 ++ BitVec.ofBool nw ++ encodeOperand d ++ encodeOperand a ++ 112#7 ++ 8#4]
  | .frsq nw d a => [28#6 ++ BitVec.ofBool nw ++ encodeOperand d ++ encodeOperand a ++ 112#7 ++ 9#4]
  | .fsqrt nw d a => [28#6 ++ BitVec.ofBool nw ++ encodeOperand d ++ encodeOperand a ++ 112#7 ++ 10#4]
  | .fex2 nw d a => [28#6 ++ BitVec.ofBool nw ++ encodeOperand d ++ encodeOperand a ++ 112#7 ++ 11#4]
  | .flg2 nw d a => [28#6 ++ BitVec.ofBool nw ++ encodeOperand d ++ encodeOperand a ++ 112#7 ++ 12#4]
  | .srseed a => [28#6 ++ 0#1 ++ 112#7 ++ encodeOperand a ++ 112#7 ++ 13#4]
  | .fcmp t p a b c => [29#6 ++ 0#1 ++ 0#1 ++ t ++ p ++ encodeOperand a ++ encodeOperand b ++ c]
  | .fcvt nw d a m s t => [30#6 ++ BitVec.ofBool nw ++ encodeOperand d ++ encodeOperand a ++ m ++ s ++ t]
  | .tclaim d a k => [32#6 ++ 0#1 ++ encodeOperand d ++ encodeOperand a ++ 0#6 ++ BitVec.ofBool k ++ 0#4]
  | .trel a k => [32#6 ++ 0#1 ++ 112#7 ++ encodeOperand a ++ 0#6 ++ BitVec.ofBool k ++ 1#4]
  | .tzero a k => [32#6 ++ 0#1 ++ 112#7 ++ encodeOperand a ++ 0#6 ++ BitVec.ofBool k ++ 2#4]
  | .tstat d n => [32#6 ++ 0#1 ++ encodeOperand d ++ 112#7 ++ 0#5 ++ n ++ 3#4]
  | .tscale d a n => [32#6 ++ 0#1 ++ 0#2 ++ d ++ 0#2 ++ a ++ 0#3 ++ n ++ 4#4]
  | .tscaleRemove d => [32#6 ++ 0#1 ++ 0#2 ++ d ++ 112#7 ++ 112#7 ++ 4#4]
  | .tld s a b => [33#6 ++ 0#1 ++ 0#2 ++ s ++ encodeOperand a ++ encodeOperand b ++ 0#4]
  | .tldx w s a b => [33#6 ++ 0#1 ++ w ++ s ++ encodeOperand a ++ encodeOperand b ++ 1#4]
  | .tlds s a n => [33#6 ++ 0#1 ++ 0#2 ++ s ++ encodeOperand a ++ 0#3 ++ n ++ 2#4]
  | .tst y t a m r => [33#6 ++ 0#1 ++ y ++ t ++ encodeOperand a ++ m ++ r ++ 3#4]
  | .tmv d a t => [33#6 ++ 0#1 ++ encodeOperand d ++ encodeOperand a ++ 0#4 ++ t ++ 4#4]
  | .tmvi t a b => [33#6 ++ 0#1 ++ 0#4 ++ t ++ encodeOperand a ++ encodeOperand b ++ 5#4]
  | .mma sat z t va a vb b f => [34#6 ++ 0#1 ++ 0#2 ++ BitVec.ofBool sat ++ BitVec.ofBool z ++ t ++ 0#1 ++ BitVec.ofBool va ++ a ++ 0#1 ++ BitVec.ofBool vb ++ b ++ f]
  | .mms e z t va a vb b f => [35#6 ++ 0#1 ++ e ++ 0#1 ++ BitVec.ofBool z ++ t ++ 0#1 ++ BitVec.ofBool va ++ a ++ 0#1 ++ BitVec.ofBool vb ++ b ++ f]
  | .atom64 g d a o s r => [36#6 ++ g ++ encodeOperand d ++ encodeOperand a ++ o ++ s ++ r]
  | .atoml g d a o s r => [37#6 ++ g ++ encodeOperand d ++ encodeOperand a ++ o ++ 0#1 ++ s ++ r]
  | .casl g d a s r => [37#6 ++ g ++ encodeOperand d ++ encodeOperand a ++ 15#4 ++ 0#1 ++ s ++ r]
  | .tred d a b => [38#6 ++ 0#1 ++ encodeOperand d ++ encodeOperand a ++ encodeOperand b ++ 0#4]
  | .trwait d a b => [38#6 ++ 0#1 ++ encodeOperand d ++ encodeOperand a ++ encodeOperand b ++ 1#4]
  | .trdef d a b => [38#6 ++ 0#1 ++ encodeOperand d ++ encodeOperand a ++ encodeOperand b ++ 2#4]
  | .trstat d a n => [38#6 ++ 0#1 ++ encodeOperand d ++ encodeOperand a ++ 0#5 ++ n ++ 3#4]
  | .ldv g d a z r fresh lin w => [40#6 ++ g ++ encodeOperand d ++ encodeOperand a ++ z ++ r ++ BitVec.ofBool fresh ++ BitVec.ofBool lin ++ BitVec.ofBool w]
  | .stv g d a z r fresh lin w => [41#6 ++ g ++ encodeOperand d ++ encodeOperand a ++ z ++ r ++ BitVec.ofBool fresh ++ BitVec.ofBool lin ++ BitVec.ofBool w]
  | .lds g d a z r fresh lin w => [42#6 ++ g ++ encodeOperand d ++ encodeOperand a ++ z ++ r ++ BitVec.ofBool fresh ++ BitVec.ofBool lin ++ BitVec.ofBool w]
  | .sts g d a z r fresh lin w => [43#6 ++ g ++ encodeOperand d ++ encodeOperand a ++ z ++ r ++ BitVec.ofBool fresh ++ BitVec.ofBool lin ++ BitVec.ofBool w]
  | .ldl g d a z r fresh lin w => [44#6 ++ g ++ encodeOperand d ++ encodeOperand a ++ z ++ r ++ BitVec.ofBool fresh ++ BitVec.ofBool lin ++ BitVec.ofBool w]
  | .stl g d a z r fresh lin w => [45#6 ++ g ++ encodeOperand d ++ encodeOperand a ++ z ++ r ++ BitVec.ofBool fresh ++ BitVec.ofBool lin ++ BitVec.ofBool w]
  | .pref a r v => [46#6 ++ 0#1 ++ 112#7 ++ encodeOperand a ++ 0#4 ++ r ++ BitVec.ofBool v ++ 0#4]
  | .invl a => [46#6 ++ 0#1 ++ 112#7 ++ encodeOperand a ++ 0#7 ++ 1#4]
  | .invlAll => [46#6 ++ 0#1 ++ 112#7 ++ 112#7 ++ 1#7 ++ 1#4]
  | .wbl inv a b => [46#6 ++ BitVec.ofBool inv ++ 112#7 ++ encodeOperand a ++ encodeOperand b ++ 2#4]
  | .sdrain => [46#6 ++ 0#1 ++ 112#7 ++ 112#7 ++ 112#7 ++ 3#4]
  | .sete a => [46#6 ++ 0#1 ++ 112#7 ++ encodeOperand a ++ 112#7 ++ 4#4]
  | .setf a => [46#6 ++ 0#1 ++ 112#7 ++ encodeOperand a ++ 112#7 ++ 5#4]
  | .bankcfg d a b => [46#6 ++ 0#1 ++ encodeOperand d ++ encodeOperand a ++ encodeOperand b ++ 6#4]
  | .probe d a => [46#6 ++ 0#1 ++ encodeOperand d ++ encodeOperand a ++ 112#7 ++ 7#4]
  | .acq a s => [48#6 ++ 0#1 ++ 112#7 ++ encodeOperand a ++ 0#5 ++ s ++ 0#4]
  | .rel a s => [48#6 ++ 0#1 ++ 112#7 ++ encodeOperand a ++ 0#5 ++ s ++ 1#4]
  | .acqa s => [48#6 ++ 0#1 ++ 112#7 ++ 112#7 ++ 0#5 ++ s ++ 2#4]
  | .rela s => [48#6 ++ 0#1 ++ 112#7 ++ 112#7 ++ 0#5 ++ s ++ 3#4]
  | .bind d a b => [48#6 ++ 0#1 ++ encodeOperand d ++ encodeOperand a ++ encodeOperand b ++ 4#4]
  | .unbind d a => [48#6 ++ 0#1 ++ encodeOperand d ++ encodeOperand a ++ 112#7 ++ 5#4]
  | .fence d s => [48#6 ++ 0#1 ++ encodeOperand d ++ 112#7 ++ 0#5 ++ s ++ 6#4]
  | .waitcnt c n => [48#6 ++ 0#1 ++ 112#7 ++ 0#4 ++ c ++ n ++ 7#4]
  | .ldacq g d a z s w => [49#6 ++ g ++ encodeOperand d ++ encodeOperand a ++ z ++ s ++ 0#2 ++ BitVec.ofBool w]
  | .strel g d a z s w => [50#6 ++ g ++ encodeOperand d ++ encodeOperand a ++ z ++ s ++ 0#2 ++ BitVec.ofBool w]
  | .binit a n => [51#6 ++ 0#1 ++ 112#7 ++ encodeOperand a ++ 0#3 ++ n ++ 0#4]
  | .barv d a n => [51#6 ++ 0#1 ++ encodeOperand d ++ encodeOperand a ++ 0#3 ++ n ++ 1#4]
  | .bwait a n => [51#6 ++ 0#1 ++ 112#7 ++ encodeOperand a ++ 0#3 ++ n ++ 2#4]
  | .bsync a n => [51#6 ++ 0#1 ++ 112#7 ++ encodeOperand a ++ 0#3 ++ n ++ 3#4]
  | .cbar a => [51#6 ++ 0#1 ++ 112#7 ++ encodeOperand a ++ 112#7 ++ 4#4]
  | .srput a r => [51#6 ++ 0#1 ++ 112#7 ++ encodeOperand a ++ 0#4 ++ r ++ 5#4]
  | .srtake a r => [51#6 ++ 0#1 ++ 112#7 ++ encodeOperand a ++ 0#4 ++ r ++ 6#4]
  | .srwaitFull a r => [51#6 ++ 0#1 ++ 112#7 ++ encodeOperand a ++ 0#4 ++ r ++ 7#4]
  | .srwaitFree a r => [51#6 ++ 0#1 ++ 112#7 ++ encodeOperand a ++ 1#4 ++ r ++ 7#4]
  | .atom g d a o s r => [52#6 ++ g ++ encodeOperand d ++ encodeOperand a ++ o ++ s ++ r]
  | .red g d a o s rl => [53#6 ++ g ++ encodeOperand d ++ encodeOperand a ++ o ++ s ++ BitVec.ofBool rl ++ 0#1]
  | .cas g d a w s r => [54#6 ++ g ++ encodeOperand d ++ encodeOperand a ++ 0#2 ++ w ++ s ++ r]
  | .xopen d => [56#6 ++ 0#1 ++ encodeOperand d ++ 112#7 ++ 112#7 ++ 0#4]
  | .xserial => [56#6 ++ 0#1 ++ 112#7 ++ 112#7 ++ 112#7 ++ 1#4]
  | .xclose => [56#6 ++ 0#1 ++ 112#7 ++ 112#7 ++ 112#7 ++ 2#4]
  | .xquit a => [56#6 ++ 0#1 ++ 112#7 ++ encodeOperand a ++ 112#7 ++ 3#4]
  | .xstat d => [56#6 ++ 0#1 ++ encodeOperand d ++ 112#7 ++ 112#7 ++ 4#4]
  | .xdeps d n => [56#6 ++ 0#1 ++ encodeOperand d ++ 112#7 ++ 0#4 ++ n ++ 5#4]
  | .lrec d a b => [57#6 ++ 0#1 ++ encodeOperand d ++ encodeOperand a ++ encodeOperand b ++ 0#4]
  | .lfree a => [57#6 ++ 0#1 ++ 112#7 ++ encodeOperand a ++ 112#7 ++ 1#4]
  | .cpy d a b => [57#6 ++ 0#1 ++ encodeOperand d ++ encodeOperand a ++ encodeOperand b ++ 2#4]
  | .cpyg d a b => [57#6 ++ 0#1 ++ encodeOperand d ++ encodeOperand a ++ encodeOperand b ++ 3#4]
  | .cpys d a b => [57#6 ++ 0#1 ++ encodeOperand d ++ encodeOperand a ++ encodeOperand b ++ 4#4]
  | .cpyc d a b => [57#6 ++ 0#1 ++ encodeOperand d ++ encodeOperand a ++ encodeOperand b ++ 5#4]
  | .cpym d a b => [57#6 ++ 0#1 ++ encodeOperand d ++ encodeOperand a ++ encodeOperand b ++ 6#4]
  | .cpye d a b => [57#6 ++ 0#1 ++ encodeOperand d ++ encodeOperand a ++ encodeOperand b ++ 7#4]
  | .cpyf d a b => [57#6 ++ 0#1 ++ encodeOperand d ++ encodeOperand a ++ encodeOperand b ++ 8#4]
  | .chbind d a b => [58#6 ++ 0#1 ++ encodeOperand d ++ encodeOperand a ++ encodeOperand b ++ 0#4]
  | .chfree q c => [58#6 ++ 0#1 ++ 112#7 ++ 112#7 ++ 0#3 ++ BitVec.ofBool q ++ c ++ 1#4]
  | .chstat d c => [58#6 ++ 0#1 ++ encodeOperand d ++ 112#7 ++ 0#4 ++ c ++ 2#4]
  | .send a k c => [58#6 ++ 0#1 ++ 112#7 ++ encodeOperand a ++ 0#2 ++ k ++ c ++ 3#4]
  | .lstat d a => [58#6 ++ 0#1 ++ encodeOperand d ++ encodeOperand a ++ 112#7 ++ 4#4]
  | .launch d a => [59#6 ++ 0#1 ++ encodeOperand d ++ encodeOperand a ++ 112#7 ++ 0#4]
  | .lwait d a => [59#6 ++ 0#1 ++ encodeOperand d ++ encodeOperand a ++ 112#7 ++ 1#4]
  | .lquery d a => [59#6 ++ 0#1 ++ encodeOperand d ++ encodeOperand a ++ 112#7 ++ 2#4]
  | .itemput a b => [59#6 ++ 0#1 ++ 112#7 ++ encodeOperand a ++ encodeOperand b ++ 3#4]
  | .itemclose b => [59#6 ++ 0#1 ++ 112#7 ++ 112#7 ++ encodeOperand b ++ 4#4]
  | .prio d a b => [59#6 ++ 0#1 ++ encodeOperand d ++ encodeOperand a ++ encodeOperand b ++ 5#4]
  | .nopre => [59#6 ++ 0#1 ++ 112#7 ++ 112#7 ++ 112#7 ++ 6#4]
  | .okpre => [59#6 ++ 0#1 ++ 112#7 ++ 112#7 ++ 112#7 ++ 7#4]
  | .gkill d a b => [59#6 ++ 0#1 ++ encodeOperand d ++ encodeOperand a ++ encodeOperand b ++ 8#4]
  | .trap a => [60#6 ++ 0#1 ++ 112#7 ++ encodeOperand a ++ 112#7 ++ 0#4]
  | .rett a => [60#6 ++ 0#1 ++ 112#7 ++ encodeOperand a ++ 112#7 ++ 1#4]
  | .mfsr d a => [60#6 ++ 0#1 ++ encodeOperand d ++ encodeOperand a ++ 112#7 ++ 2#4]
  | .mtsr a b => [60#6 ++ 0#1 ++ 112#7 ++ encodeOperand a ++ encodeOperand b ++ 3#4]
  | .brk => [60#6 ++ 0#1 ++ 112#7 ++ 112#7 ++ 112#7 ++ 4#4]
  | .fpop d a b => [60#6 ++ 0#1 ++ encodeOperand d ++ encodeOperand a ++ encodeOperand b ++ 5#4]
  | .fresume d a b => [60#6 ++ 0#1 ++ encodeOperand d ++ encodeOperand a ++ encodeOperand b ++ 6#4]
  | .mscrub d a b => [61#6 ++ 0#1 ++ encodeOperand d ++ encodeOperand a ++ encodeOperand b ++ 0#4]
  | .mretire d a b => [61#6 ++ 0#1 ++ encodeOperand d ++ encodeOperand a ++ encodeOperand b ++ 1#4]
  | .mrepair d a b => [61#6 ++ 0#1 ++ encodeOperand d ++ encodeOperand a ++ encodeOperand b ++ 2#4]
  | .mrebuild d a b => [61#6 ++ 0#1 ++ encodeOperand d ++ encodeOperand a ++ encodeOperand b ++ 3#4]
  | .mdrop d a => [61#6 ++ 0#1 ++ encodeOperand d ++ encodeOperand a ++ 112#7 ++ 4#4]
  | .mplace d a b => [61#6 ++ 0#1 ++ encodeOperand d ++ encodeOperand a ++ encodeOperand b ++ 5#4]
  | .minject d a b => [61#6 ++ 0#1 ++ encodeOperand d ++ encodeOperand a ++ encodeOperand b ++ 6#4]
  | .mstat d a n => [61#6 ++ 0#1 ++ encodeOperand d ++ encodeOperand a ++ 0#5 ++ n ++ 7#4]
  | .arrayQueueEntryComplete _ _ => []
  | .treeNodeFold _ _ => []
  | .treeTimeout _ => []
  | .loadCompletion _ _ => []
  | .homeSliceRequest _ _ _ _ => []
  | .translationWalk _ _ _ => []
  | .deferredLoadFault _ => []
  | .scratchWaitEnd _ => []
  | .wcbLineDrain _ _ => []
  | .storeWriteAtHome _ _ => []
  | .storeFaultRecordArrival _ => []
  | .storeFault _ => []
  | .waitEnd _ => []
  | .atomicPerform _ _ _ => []
  | .redCombine _ _ _ _ => []
  | .redHoldExpiry _ _ => []
  | .regionAccessAtBatten _ _ _ => []
  | .regionStoreMerge _ _ _ => []
  | .depthWaitEnd _ _ _ => []
  | .regionCommit _ => []
  | .regionAbort _ _ => []
  | .regionAbortDelivery _ => []
  | .heldWriteRelease _ _ => []
  | .transferStart _ _ _ => []
  | .transferComplete _ _ => []
  | .transferFaultHold _ _ => []
  | .multicastDelivery _ _ _ => []
  | .crcReply _ _ _ => []
  | .channelPopUnblock _ => []
  | .remotePushArrival _ _ => []
  | .pushResend _ _ => []
  | .nopreOverrun _ => []
  | .taskActivation _ => []
  | .clusterPlacement _ => []
  | .groupActivation _ => []
  | .priorityWriteBack _ => []
  | .groupQuantum _ => []
  | .blockedGroupWriteBack _ => []
  | .priorityWriteOut _ => []
  | .teamQuantum _ => []
  | .sleepExpiry _ => []
  | .agingIssue _ => []
  | .groupCompletion _ => []
  | .taskCompletionWord _ => []
  | .registerMissFill _ _ => []
  | .frameFault _ _ _ => []
  | .localTrap _ _ _ => []
  | .supervisorTrap _ _ _ => []
  | .faultRecordAppend => []
  | .degradedRead _ _ _ => []
  | .stripeWrite _ => []
  | .channelNoResponseDrop _ => []
  | .channelUncorrectableDrop _ => []
  | .rebuildStripeCopy => []
  | .rebuildPageCommit => []
  | .patrolScrubVisit _ => []
  | .repairEnd _ _ => []
  | .prepareReceipt _ => []
  | .sliceHandoff => []
  | .rehashReply _ _ _ => []
  | .flitArrival _ _ => []
  | .outputArbitration _ => []
  | .linkFlit _ _ => []
  | .replayTimeout _ => []
  | .laneLoss _ _ => []
  | .retrainComplete _ _ => []
  | .meshLinkRetirement _ => []
  | .linkDeath _ => []
  | .lostNotice _ _ => []
  | .replyAcknowledgement _ => []
  | .peerRequestAdmission _ => []
  | .linkTraining _ _ _ _ => []
  | .tlbInvalPage _ _ => []
  | .tlbInvalRegion _ _ => []
  | .tlbInvalAsid _ => []
  | .tlbInvalAll => []
  | .pwinCtlWrite _ _ => []
  | .hovCtlWrite _ _ => []
  | .mirmarRtWrite _ => []
  | .mlinkEnWrite _ _ => []
  | .featWrite _ => []
  | .drainSet => []
  | .drainClear => []
  | .drained => []
  | .evackWrite _ => []
  | .dbgCmdResume _ _ => []
  | .dbgCmdStep _ _ => []
  | .dbgCmdStop _ _ => []
  | .breakpointHit _ => []
  | .iftCoreTest _ => []
  | .iftChannelTest _ => []
  | .iftTestEnd _ => []
  | .bar0Write _ _ _ => []
  | .bar0Read _ _ => []
  | .bar2Access _ _ _ => []
  | .spdmRequest _ => []
  | .coldReset => []
  | .warmReset => []
  | .functionReset => []
  | .startUp _ => []
  | .healthTableUpdate => []
  | .resetneeded => []
  | .supplySag => []
  | .clockStep _ _ _ => []
  | .thermalTrip => []
  | .systemRegisterWrite _ _ _ => []
  | .illegalEncoding _ => []
  | .instructionFetchFault _ _ => []
  | .externalAcknowledgement _ _ _ _ => []
  | .persistentStateSave => []

end Sys2Proof
end

