-- ==== Sys2Proof/Machine/Tab.lean ====
section
/-! DEFINITION. Sparse maps, and the bit, byte and list helpers of the meanings (R5, R8). -/
namespace Sys2Proof

/-- The value at `k`, or `d` where `k` is not listed. -/
def Tab.read {α : Type} (d : α) : Tab α → Nat → α
  | [], _ => d
  | (j, v) :: t, k => if j = k then v else Tab.read d t k

/-- The map without an entry at `k`. -/
def Tab.erase {α : Type} : Tab α → Nat → Tab α
  | [], _ => []
  | (j, v) :: t, k => if j = k then Tab.erase t k else (j, v) :: Tab.erase t k

/-- The map with a new entry before the first greater key. -/
def Tab.insert {α : Type} : Tab α → Nat → α → Tab α
  | [], k, v => [(k, v)]
  | (j, w) :: t, k, v => if k < j then (k, v) :: (j, w) :: t else (j, w) :: Tab.insert t k v

/-- The map with `v` at `k`, listed whatever it is. -/
def Tab.put {α : Type} (t : Tab α) (k : Nat) (v : α) : Tab α := (t.erase k).insert k v

/-- The map with `v` at `k`; an unlisted key reads as `d`, so writing `d` removes the entry. -/
def Tab.write {α : Type} [DecidableEq α] (d : α) (t : Tab α) (k : Nat) (v : α) : Tab α :=
  if v = d then t.erase k else t.put k v

/-- Writes several values. -/
def Tab.writeAll {α : Type} [DecidableEq α] (d : α) (t : Tab α) : List (Nat × α) → Tab α
  | [] => t
  | (k, v) :: r => Tab.writeAll d (Tab.write d t k v) r

/-- Rising keys, and no entry equal to what its unlisted key reads as. -/
def Tab.wf {α : Type} [DecidableEq α] (d : Nat → α) : Tab α → Bool
  | [] => true
  | [(k, v)] => v ≠ d k
  | (k, v) :: (j, w) :: t => decide (v ≠ d k) && decide (k < j) && Tab.wf d ((j, w) :: t)

/-- The listed keys. -/
def Tab.keys {α : Type} (t : Tab α) : List Nat := t.map (·.1)

/-- The entries whose key and value satisfy `p`. -/
def Tab.keep {α : Type} (t : Tab α) (p : Nat → α → Bool) : Tab α := t.filter fun e => p e.1 e.2

/-- The `n` entries from key `a` on. -/
def Tab.slice {α : Type} (d : α) (t : Tab α) (a n : Nat) : List α := (List.range n).map fun i => t.read d (a + i)

/-- Writes consecutive values from key `a` on. -/
def Tab.writeFrom {α : Type} [DecidableEq α] (d : α) (t : Tab α) (a : Nat) : List α → Tab α
  | [] => t
  | v :: r => Tab.writeFrom d (Tab.write d t a v) (a + 1) r

/-- The value of bytes, lowest address first (R5). -/
def leNat : Bytes → Nat
  | [] => 0
  | b :: r => b.toNat + 256 * leNat r

/-- `n` bytes of a value, lowest address first. -/
def leBytes : Nat → Nat → Bytes
  | 0, _ => []
  | n + 1, x => BitVec.ofNat 8 x :: leBytes n (x / 256)

/-- Bits [lo + n − 1 : lo] of a number (R5). -/
def bitsOf (x lo n : Nat) : Nat := x / 2 ^ lo % 2 ^ n

/-- Bit i of a number. -/
def bitOf (x i : Nat) : Bool := x.testBit i

/-- 1 or 0. -/
def b2n (b : Bool) : Nat := if b then 1 else 0

/-- Whether bit l of a lane mask is set. -/
def Word.has (m : Word) (l : Nat) : Bool := m.toNat.testBit l

/-- The mask of lanes for which `p` holds. -/
def maskOf (p : Nat → Bool) : Word :=
  BitVec.ofNat 32 ((List.range 32).foldr (fun l m => if p l then m + 2 ^ l else m) 0)

/-- The lanes of a mask, ascending. -/
def lanesOf (m : Word) : List Nat := (List.range 32).filter fun l => Word.has m l

/-- The mask of a list of lanes. -/
def maskOfLanes (ls : List Nat) : Word := maskOf fun l => ls.contains l

/-- Sign extension of the low `n` bits of a number. -/
def sext (n x : Nat) : Int :=
  let y := x % 2 ^ n
  if 2 * y < 2 ^ n then (y : Int) else (y : Int) - (2 : Int) ^ n

/-- Trunc(x, 32) of an integer (R8). -/
def trunc32 (x : Int) : Word := BitVec.ofInt 32 x

/-- Clamps an integer (saturation of R102 and R143). -/
def clamp (lo hi x : Int) : Int := if x < lo then lo else if hi < x then hi else x

/-- Fold of R177 and R268: the exclusive or of the n-bit pieces of x, over `k` pieces. -/
def foldBits (n : Nat) : Nat → Nat → Nat
  | 0, _ => 0
  | k + 1, x => (x % 2 ^ n) ^^^ foldBits n k (x / 2 ^ n)

/-- Replaces element `i` of a list. -/
def setAt {α : Type} : List α → Nat → α → List α
  | [], _, _ => []
  | _ :: t, 0, v => v :: t
  | x :: t, i + 1, v => x :: setAt t i v

/-- Rounds up to a multiple of m. -/
def roundUp (m x : Nat) : Nat := (x + m - 1) / m * m

/-- ceil(a / b). -/
def ceilDiv (a b : Nat) : Nat := (a + b - 1) / b

/-- The element of least key, the first among equals. -/
def minBy {α : Type} (key : α → Nat) : List α → Option α
  | [] => none
  | x :: t =>
    match minBy key t with
    | none => some x
    | some y => if key y < key x then some y else some x

/-- Replaces the first element that satisfies `p`. -/
def replaceFirst {α : Type} (p : α → Bool) (f : α → α) : List α → List α
  | [] => []
  | x :: t => if p x then f x :: t else x :: replaceFirst p f t

/-- Removes the first element that satisfies `p`. -/
def dropFirst {α : Type} (p : α → Bool) : List α → List α
  | [] => []
  | x :: t => if p x then t else x :: dropFirst p t

/-- Maps with a check that may stop. -/
def eachM {ε α β : Type} (f : α → Except ε β) : List α → Except ε (List β)
  | [] => .ok []
  | x :: t =>
    match f x with
    | .error e => .error e
    | .ok y =>
      match eachM f t with
      | .error e => .error e
      | .ok r => .ok (y :: r)

/-- Folds with a step that may stop. -/
def foldM {ε α σ : Type} (f : σ → α → Except ε σ) (s : σ) : List α → Except ε σ
  | [] => .ok s
  | x :: t =>
    match f s x with
    | .error e => .error e
    | .ok s' => foldM f s' t

/-- Doubling in GF(2^8) over 0x11D (R95, R405). -/
def gfDouble (a : Byte) : Byte := if a.toNat < 128 then a <<< 1 else (a <<< 1) ^^^ 0x1D#8

/-- g^i · a, with g = 0x02. -/
def gfShift : Nat → Byte → Byte
  | 0, a => a
  | i + 1, a => gfDouble (gfShift i a)

/-- Product in GF(2^8). -/
def gfMul (a b : Byte) : Byte :=
  (List.range 8).foldl (fun r i => if b.toNat.testBit i then r ^^^ gfShift i a else r) 0#8

/-- Inverse in GF(2^8): a^254; 0 for 0. -/
def gfInv (a : Byte) : Byte :=
  let a2 := gfMul a a
  let a4 := gfMul a2 a2
  let a8 := gfMul a4 a4
  let a16 := gfMul a8 a8
  let a32 := gfMul a16 a16
  let a64 := gfMul a32 a32
  let a128 := gfMul a64 a64
  gfMul a128 (gfMul a64 (gfMul a32 (gfMul a16 (gfMul a8 (gfMul a4 a2)))))

end Sys2Proof
end

