-- ==== Sys2Proof/Machine/Fp.lean ====
section
/-! DEFINITION. Number formats, exact values and rounding (05_numbers.md, R113 to R130, R133 to R141). -/
namespace Sys2Proof.Machine

/-- An exact value: a NaN, an infinity, or (−1)^neg × m × 2^e (R8, R114). -/
inductive Val where
  | nan
  | inf (neg : Bool)
  | fin (neg : Bool) (m : Nat) (e : Int)
  deriving DecidableEq, Repr

/-- The conversion types of R43. -/
inductive Ty where
  | f32 | f16 | bf16 | e4m3 | e5m2 | e2m1 | tw8 | i32 | n32 | i16 | n16 | i8 | n8 | i64 | n64
  deriving DecidableEq, Repr

/-- The type of a code of R43; code 15 is reserved and never decodes. -/
def Ty.ofCode : Nat → Ty
  | 0 => .f32 | 1 => .f16 | 2 => .bf16 | 3 => .e4m3 | 4 => .e5m2 | 5 => .e2m1 | 6 => .tw8 | 7 => .i32
  | 8 => .n32 | 9 => .i16 | 10 => .n16 | 11 => .i8 | 12 => .n8 | 13 => .i64 | _ => .n64

/-- The width in bits (R113, R114). -/
def Ty.width : Ty → Nat
  | .f32 => 32 | .f16 => 16 | .bf16 => 16 | .e4m3 => 8 | .e5m2 => 8 | .e2m1 => 4 | .tw8 => 8 | .i32 => 32
  | .n32 => 32 | .i16 => 16 | .n16 => 16 | .i8 => 8 | .n8 => 8 | .i64 => 64 | .n64 => 64

/-- Whether the type is an integer type, and whether it is signed (R113). -/
def Ty.int? : Ty → Option Bool
  | .i32 => some true | .i16 => some true | .i8 => some true | .i64 => some true
  | .n32 => some false | .n16 => some false | .n8 => some false | .n64 => some false
  | .f32 => none | .f16 => none | .bf16 => none | .e4m3 => none | .e5m2 => none | .e2m1 => none | .tw8 => none

/-- A floating format with exponent and fraction fields (R114, R115): fraction width, bias, the code of the largest
finite value, the sign bit's place, the code that an infinite result takes, and the canonical NaN. -/
structure Fmt where
  frac : Nat
  bias : Nat
  top : Nat
  sign : Nat
  infinite : Nat
  nan : Nat
  deriving DecidableEq, Repr

/-- f32 (R114, R115). -/
def Fmt.f32 : Fmt := ⟨23, 127, 0x7F7FFFFF, 31, 0x7F800000, 0x7FC00000⟩
/-- f16. -/
def Fmt.f16 : Fmt := ⟨10, 15, 0x7BFF, 15, 0x7C00, 0x7E00⟩
/-- bf16. -/
def Fmt.bf16 : Fmt := ⟨7, 127, 0x7F7F, 15, 0x7F80, 0x7FC0⟩
/-- e4m3: no infinity; an infinite result is NaN by sign (R123). -/
def Fmt.e4m3 : Fmt := ⟨3, 7, 0x7E, 7, 0x7F, 0x7F⟩
/-- e5m2. -/
def Fmt.e5m2 : Fmt := ⟨2, 15, 0x7B, 7, 0x7C, 0x7E⟩
/-- e2m1: neither infinity nor NaN; overflow gives 6 and NaN gives +0 (R123). -/
def Fmt.e2m1 : Fmt := ⟨1, 1, 0x7, 3, 0x7, 0x0⟩

/-- The value of a code of a floating format other than tw8 (R114, R115). -/
def Fmt.decode (f : Fmt) (c : Nat) : Val :=
  let neg := c.testBit f.sign
  let mag := c % 2 ^ f.sign
  let x := mag / 2 ^ f.frac
  let fr := mag % 2 ^ f.frac
  if f.top < mag then (if mag = f.infinite ∧ f.infinite ≠ f.nan then .inf neg else .nan)
  else if x = 0 then .fin neg fr (1 - (f.bias : Int) - f.frac)
  else .fin neg (2 ^ f.frac + fr) ((x : Int) - f.bias - f.frac)

/-- The magnitude of a TW8 code other than 0x00 and 0x80, as m × 2^e (R119). -/
def tw8Mag (c : Nat) : Nat × Int :=
  let t := c % 64
  let sg := c.testBit 6
  if t = 0 then (if sg then (1, -12) else (0, 0))
  else
    let k := 5 - t.log2
    let n := 5 - k
    let e0 := if n = 0 then 0 else b2n (t.testBit (n - 1))
    let w := n - 1
    let fr := t % 2 ^ w
    let e : Int := (2 * k + e0 : Nat)
    let ex := if sg then -(e + 1) else e
    (2 ^ w + fr, ex - w)

/-- The value of a TW8 code (R119). -/
def tw8Decode (c : Nat) : Val :=
  if c % 256 = 0x80 then .nan
  else
    let r := tw8Mag (c % 128)
    .fin (c.testBit 7 && decide (r.1 ≠ 0)) r.1 r.2

/-- m × 2^e over 2^q, as quotient, remainder and divisor. A value so far below 2^q that 2^16 times the fraction is below 1
(R124) has a remainder of 1 in 2^20, which every mode rounds alike. -/
def scaleTo (m : Nat) (e q : Int) : Nat × Nat × Nat :=
  if q ≤ e then (m * 2 ^ (e - q).toNat, 0, 1)
  else
    let sh := (q - e).toNat
    if m = 0 then (0, 0, 1)
    else if m.log2 + 20 < sh then (0, 1, 2 ^ 20)
    else (m / 2 ^ sh, m % 2 ^ sh, 2 ^ sh)

/-- Whether the magnitude between k and k + 1 goes up (R121, R124): `odd` says whether the lower code is odd. -/
def roundsUp (mode : Nat) (neg odd : Bool) (r rem div : Nat) : Bool :=
  if rem = 0 then false
  else
    match mode with
    | 1 => false
    | 2 => neg
    | 3 => !neg
    | 5 => decide (r < 65536 * rem / div)
    | 6 => decide (r < 65536 * rem / div)
    | _ => decide (div < 2 * rem) || (decide (2 * rem = div) && odd)

/-- RoundTo of a finite value into a floating format other than tw8 (R121, R123, R124). `r` is the draw. -/
def Fmt.roundFin (f : Fmt) (mode r : Nat) (neg : Bool) (m : Nat) (e : Int) : Nat :=
  let sgn := if neg then 2 ^ f.sign else 0
  if m = 0 then sgn
  else
    let qmin : Int := 1 - (f.bias : Int) - f.frac
    let q0 : Int := (m.log2 : Int) + e - f.frac
    let q := if q0 < qmin then qmin else q0
    let (k, rem, div) := scaleTo m e q
    let base := (q - qmin).toNat * 2 ^ f.frac
    let lo := base + k
    if f.top < lo ∨ (lo = f.top ∧ rem ≠ 0) then
      let infinite := match mode with
        | 0 => decide (f.top < lo) || decide (div ≤ 2 * rem)
        | 2 => neg
        | 3 => !neg
        | 5 => true
        | _ => false
      sgn + (if infinite then f.infinite else f.top)
    else sgn + lo + b2n (roundsUp mode neg (lo % 2 = 1) r rem div)

/-- RoundTo into a floating format other than tw8. -/
def Fmt.round (f : Fmt) (mode r : Nat) : Val → Nat
  | .nan => f.nan
  | .inf neg => (if neg then 2 ^ f.sign else 0) + (if mode = 4 ∨ mode = 6 then f.top else f.infinite)
  | .fin neg m e => f.roundFin mode r neg m e

/-- A TW8 code's magnitude in units of 2^-12. -/
def tw8Units (c : Nat) : Nat :=
  let r := tw8Mag c
  r.1 * 2 ^ (r.2 + 12).toNat

/-- RoundTo into TW8 (R122, R127). -/
def tw8Round (mode r : Nat) : Val → Nat
  | .nan => 0x80
  | .inf neg => if mode = 4 ∨ mode = 6 then (if neg then 0x81 else 0x01) else 0x80
  | .fin neg m e =>
    let sgn := if neg then 128 else 0
    -- the magnitude as num / den in units of 2^-12
    let num := if -12 ≤ e then m * 2 ^ (e + 12).toNat else m
    let den := if -12 ≤ e then 1 else 2 ^ (-12 - e).toNat
    if m = 0 then 0
    else if 1024 * 4096 * den < num then sgn + 1
    else
      let low := (List.range 128).foldl (fun b c =>
        if c ≠ 0 ∧ tw8Units c * den ≤ num ∧ tw8Units b ≤ tw8Units c then c else b) 0
      let high := (List.range 128).foldl (fun b c =>
        if num < tw8Units c * den ∧ tw8Units c < tw8Units b then c else b) 1
      let a := tw8Units low
      let b := tw8Units high
      if a * den = num then sgn + low
      else
        let rem := num - a * den
        let div := (b - a) * den
        let up := match mode with
          | 1 => false
          | 2 => neg
          | 3 => !neg
          | 5 => decide (r < 65536 * rem / div)
          | 6 => decide (r < 65536 * rem / div)
          | _ => decide (div < 2 * rem) ||
              (decide (2 * rem = div) && decide (low % 2 = 1) && decide (high % 2 = 0))
        if up then sgn + high else if low = 0 then 0 else sgn + low

/-- An exact value rounded to an integer by a mode (R121, R124). -/
def roundInt (mode r : Nat) : Val → Option Int
  | .nan => none
  | .inf _ => none
  | .fin neg m e =>
    let (k, rem, div) := scaleTo m e 0
    let a : Int := (k + b2n (roundsUp mode neg (k % 2 = 1) r rem div) : Nat)
    some (if neg then -a else a)

/-- The range of an integer type. -/
def intRange (signed : Bool) (w : Nat) : Int × Int :=
  if signed then (-(2 : Int) ^ (w - 1), (2 : Int) ^ (w - 1) - 1) else (0, (2 : Int) ^ w - 1)

/-- RoundTo into an integer type: rounded by the mode, clamped in every mode, NaN gives 0 (R123, R141). -/
def roundToInt (signed : Bool) (w mode r : Nat) (v : Val) : Int :=
  let (lo, hi) := intRange signed w
  match v with
  | .nan => 0
  | .inf neg => if neg then lo else hi
  | x =>
    match roundInt mode r x with
    | some i => clamp lo hi i
    | none => 0

/-- The value of an integer. -/
def Val.ofInt (i : Int) : Val := .fin (decide (i < 0)) i.natAbs 0

/-- The exact value of the low bits of a source (R140). -/
def Ty.value (t : Ty) (c : Nat) : Val :=
  match t with
  | .f32 => Fmt.f32.decode (c % 2 ^ 32)
  | .f16 => Fmt.f16.decode (c % 2 ^ 16)
  | .bf16 => Fmt.bf16.decode (c % 2 ^ 16)
  | .e4m3 => Fmt.e4m3.decode (c % 2 ^ 8)
  | .e5m2 => Fmt.e5m2.decode (c % 2 ^ 8)
  | .e2m1 => Fmt.e2m1.decode (c % 2 ^ 4)
  | .tw8 => tw8Decode (c % 2 ^ 8)
  | .i32 => .ofInt (sext 32 c)
  | .n32 => .ofInt (c % 2 ^ 32 : Nat)
  | .i16 => .ofInt (sext 16 c)
  | .n16 => .ofInt (c % 2 ^ 16 : Nat)
  | .i8 => .ofInt (sext 8 c)
  | .n8 => .ofInt (c % 2 ^ 8 : Nat)
  | .i64 => .ofInt (sext 64 c)
  | .n64 => .ofInt (c % 2 ^ 64 : Nat)

/-- RoundTo(x, T, mode) as the bits of T (R121). -/
def roundTo (t : Ty) (mode r : Nat) (v : Val) : Nat :=
  match t with
  | .f32 => Fmt.f32.round mode r v
  | .f16 => Fmt.f16.round mode r v
  | .bf16 => Fmt.bf16.round mode r v
  | .e4m3 => Fmt.e4m3.round mode r v
  | .e5m2 => Fmt.e5m2.round mode r v
  | .e2m1 => Fmt.e2m1.round mode r v
  | .tw8 => tw8Round mode r v
  | t =>
    match t.int? with
    | some sg => (roundToInt sg t.width mode r v % (2 : Int) ^ t.width).toNat
    | none => 0

/-- The exact sum; `rdn` gives −0 for an exact zero sum of operands of opposite sign (R133). -/
def Val.add (rdn : Bool) : Val → Val → Val
  | .nan, _ => .nan
  | _, .nan => .nan
  | .inf a, .inf b => if a = b then .inf a else .nan
  | .inf a, .fin _ _ _ => .inf a
  | .fin _ _ _, .inf b => .inf b
  | .fin na ma ea, .fin nb mb eb =>
    let e := if ea ≤ eb then ea else eb
    let x : Int := (ma * 2 ^ (ea - e).toNat : Nat)
    let y : Int := (mb * 2 ^ (eb - e).toNat : Nat)
    let s := (if na then -x else x) + (if nb then -y else y)
    if s = 0 then .fin (if na = nb then na else rdn) 0 e
    else .fin (decide (s < 0)) s.natAbs e

/-- The value with its sign inverted. -/
def Val.neg : Val → Val
  | .nan => .nan
  | .inf a => .inf (!a)
  | .fin n m e => .fin (!n) m e

/-- The exact product (R133). -/
def Val.mul : Val → Val → Val
  | .nan, _ => .nan
  | _, .nan => .nan
  | .inf a, .inf b => .inf (a != b)
  | .inf a, .fin n m _ => if m = 0 then .nan else .inf (a != n)
  | .fin n m _, .inf b => if m = 0 then .nan else .inf (n != b)
  | .fin na ma ea, .fin nb mb eb => .fin (na != nb) (ma * mb) (ea + eb)

/-- The value times 2^k (R129, R135). -/
def Val.scale (k : Int) : Val → Val
  | .nan => .nan
  | .inf a => .inf a
  | .fin n m e => .fin n m (e + k)

/-- Exact comparison: a signed integer whose sign is that of a − b; none when unordered. Zeros are equal (R138). -/
def Val.cmp : Val → Val → Option Int
  | .nan, _ => none
  | _, .nan => none
  | .inf a, .inf b => some (if a = b then 0 else if a then -1 else 1)
  | .inf a, .fin _ _ _ => some (if a then -1 else 1)
  | .fin _ _ _, .inf b => some (if b then 1 else -1)
  | .fin na ma ea, .fin nb mb eb =>
    let e := if ea ≤ eb then ea else eb
    let x : Int := (ma * 2 ^ (ea - e).toNat : Nat)
    let y : Int := (mb * 2 ^ (eb - e).toNat : Nat)
    some ((if na then -x else x) - (if nb then -y else y))

/-- Whether a value is NaN. -/
def Val.isNan : Val → Bool
  | .nan => true
  | .inf _ => false
  | .fin _ _ _ => false

/-- floor of the square root, over the bits below `n`. -/
def isqrt : Nat → Nat → Nat → Nat
  | 0, _, r => r
  | n + 1, x, r => if (r + 2 ^ n) * (r + 2 ^ n) ≤ x then isqrt n x (r + 2 ^ n) else isqrt n x r

/-- A value strictly between m and m + 1 units of 2^e, or m exactly, for one rounding. -/
def sticky (neg : Bool) (m : Nat) (exact : Bool) (e : Int) : Val :=
  if exact then .fin neg m e else .fin neg (2 * m + 1) (e - 1)

/-- 1/a for one rounding (R135). -/
def Val.recip : Val → Val
  | .nan => .nan
  | .inf n => .fin n 0 0
  | .fin n m e =>
    if m = 0 then .inf n
    else
      let k := m.log2 + 64
      sticky n (2 ^ k / m) (2 ^ k % m = 0) (-(k : Int) - e)

/-- √a for one rounding (R135). -/
def Val.sqrt : Val → Val
  | .nan => .nan
  | .inf n => if n then .nan else .inf false
  | .fin n m e =>
    if m = 0 then .fin n 0 0
    else if n then .nan
    else
      let e1 := e - 64
      let (x, e2) := if e1 % 2 = 0 then (m * 2 ^ 64, e1) else (m * 2 ^ 65, e1 - 1)
      let r := isqrt (x.log2 / 2 + 1) x 0
      sticky false r (r * r = x) (e2 / 2)

/-- 1/√a for one rounding (R135). -/
def Val.rsqrt : Val → Val
  | .nan => .nan
  | .inf n => if n then .nan else .fin false 0 0
  | .fin n m e =>
    if m = 0 then .inf n
    else if n then .nan
    else
      let (x, e2) := if e % 2 = 0 then (m, e) else (2 * m, e - 1)
      let k := x.log2 + 64
      let r := isqrt (k + 1) (2 ^ (2 * k) / x) 0
      sticky false r (r * r * x = 2 ^ (2 * k)) (-(k : Int) - e2 / 2)

/-- Fraction bits of the series below. -/
def seriesBits : Nat := 192

/-- ln 2 in units of 2^-192: the sum of 1/(k · 2^k), `n` terms left. -/
def ln2Series : Nat → Nat → Nat
  | 0, _ => 0
  | n + 1, k => 2 ^ seriesBits / (k * 2 ^ k) + ln2Series n (k + 1)

/-- ln 2 in units of 2^-192, from below. -/
def ln2Units : Nat := ln2Series seriesBits 1

/-- Σ x^k / k! from the term `t` of index `k`, x and t in units of 2^-192. -/
def expSeries : Nat → Nat → Nat → Nat → Nat
  | 0, _, _, _ => 0
  | n + 1, x, k, t => t + expSeries n x (k + 1) (t * x / 2 ^ seriesBits / (k + 1))

/-- Σ z^(2k+1)/(2k+1) from the power `t` of z, `z2` the square, in units of 2^-192. -/
def atanhSeries : Nat → Nat → Nat → Nat → Nat
  | 0, _, _, _ => 0
  | n + 1, z2, k, t => t / k + atanhSeries n z2 (k + 2) (t * z2 / 2 ^ seriesBits)

/-- 2^a for one rounding into f32 (R135). -/
def Val.exp2 : Val → Val
  | .nan => .nan
  | .inf n => if n then .fin false 0 0 else .inf false
  | .fin n m e =>
    if m = 0 then .fin false 1 0
    else if 9 ≤ (m.log2 : Int) + e then (if n then .fin false 1 (-400) else .fin false 1 400)
    else if (m.log2 : Int) + e < -40 then
      -- 1 plus or minus less than 2^-39
      if n then .fin false (2 ^ 100 - 1) (-100) else .fin false (2 ^ 100 + 1) (-100)
    else
      let x : Int := if 0 ≤ e then ((m * 2 ^ e.toNat : Nat) : Int) * 2 ^ seriesBits
        else ((m * 2 ^ seriesBits / 2 ^ (-e).toNat : Nat) : Int)
      let x := if n then -x else x
      let i := x / 2 ^ seriesBits
      let f := (x % 2 ^ seriesBits).toNat
      if f = 0 then .fin false 1 i
      else
        let y := f * ln2Units / 2 ^ seriesBits
        let r := expSeries 60 y 0 (2 ^ seriesBits)
        sticky false (r / 2 ^ 16) false (i - (seriesBits - 16 : Nat))

/-- log2 a for one rounding into f32 (R135). -/
def Val.log2 : Val → Val
  | .nan => .nan
  | .inf n => if n then .nan else .inf false
  | .fin n m e =>
    if m = 0 then .inf true
    else if n then .nan
    else
      let k := m.log2
      let i := (k : Int) + e
      if m = 2 ^ k then .ofInt i
      else
        -- y = m / 2^k in [1, 2); z = (y − 1) / (y + 1)
        let z := (m - 2 ^ k) * 2 ^ seriesBits / (m + 2 ^ k)
        let z2 := z * z / 2 ^ seriesBits
        let l := 2 * atanhSeries 70 z2 1 z * 2 ^ seriesBits / ln2Units
        let x := i * 2 ^ seriesBits + (l : Int)
        sticky (decide (x < 0)) (x.natAbs / 2 ^ 16) false (-(seriesBits - 16 : Nat))

/-- One draw of a generator: the next state, whose upper half is the value (R125). -/
def srNext (z : Word) : Word :=
  let z := z ^^^ (z <<< 13)
  let z := z ^^^ (z >>> 17)
  z ^^^ (z <<< 5)

/-- The state that SRSEED gives lane l for a seed (R137). -/
def srSeed (a : Word) (l : Nat) : Word :=
  let z := a ^^^ BitVec.ofNat 32 (l * 0x9E3779B9)
  if z = 0#32 then 1#32 else z

/-- The value of an f32 word. -/
def f32Val (w : Word) : Val := Fmt.f32.decode w.toNat

/-- An f32 word of a value. -/
def f32Word (mode : Nat) (v : Val) : Word := BitVec.ofNat 32 (Fmt.f32.round mode 0 v)

/-- The three arithmetic formats of R133. -/
def fpFormat : Nat → Fmt
  | 0 => .f32
  | 1 => .f16
  | _ => .bf16

/-- Applies an operation on values to each element of the operands (R133, R134): `fmt` 0 f32, 1 f16x2, 2 bf16x2. -/
def packedOp (fmt mode : Nat) (op : List Val → Val) (xs : List Word) : Word :=
  let f := fpFormat fmt
  if fmt = 0 then BitVec.ofNat 32 (f.round mode 0 (op (xs.map fun x => f.decode x.toNat)))
  else
    let lo := f.round mode 0 (op (xs.map fun x => f.decode (x.toNat % 65536)))
    let hi := f.round mode 0 (op (xs.map fun x => f.decode (x.toNat / 65536)))
    BitVec.ofNat 32 (lo + 65536 * hi)

/-- FADD, FSUB, FMUL and FFMA on values (R133): code 0, 1, 2, 3; FFMA takes its addend third. -/
def fpArith (code mode : Nat) : List Val → Val
  | [a, b] =>
    match code with
    | 0 => Val.add (mode = 2) a b
    | 1 => Val.add (mode = 2) a b.neg
    | _ => Val.mul a b
  | [a, b, d] => Val.add (mode = 2) (Val.mul a b) d
  | _ => .nan

/-- minimumNumber and maximumNumber on f32 words (R135). -/
def fpMinMax (max : Bool) (a b : Word) : Word :=
  let va := f32Val a
  let vb := f32Val b
  match va.cmp vb with
  | none => if !va.isNan then a else if !vb.isNan then b else 0x7FC00000#32
  | some c =>
    if c = 0 then (if a.msb = b.msb then a else if max = a.msb then b else a)
    else if max then (if 0 < c then a else b) else (if c < 0 then a else b)

/-- The class mask of an f32 word (R136). -/
def fpClass (a : Word) : Word :=
  let x := a.toNat / 2 ^ 23 % 256
  let f := a.toNat % 2 ^ 23
  let bit := if x = 255 then (if f = 0 then (if a.msb then 0 else 7) else if f.testBit 22 then 9 else 8)
    else if x = 0 then (if f = 0 then (if a.msb then 3 else 4) else if a.msb then 2 else 5)
    else if a.msb then 1 else 6
  BitVec.ofNat 32 (2 ^ bit)

/-- FRINT (R135). -/
def fpRint (mode : Nat) (a : Word) : Word :=
  match f32Val a with
  | .nan => 0x7FC00000#32
  | .inf _ => a
  | .fin n m e =>
    if m = 0 then a
    else
      match roundInt mode 0 (.fin n m e) with
      | some i => f32Word 0 (.fin n i.natAbs 0)
      | none => a

/-- FSCALE (R135). -/
def fpScale (a b : Word) : Word :=
  match f32Val a with
  | .inf _ => a
  | v => f32Word 0 (v.scale b.toInt)

/-- The condition of FCMP (R138). -/
def fpCond (cond : Nat) (a b : Val) : Bool :=
  match a.cmp b with
  | none => decide (cond = 1) || decide (cond = 6)
  | some c =>
    match cond with
    | 0 => decide (c = 0)
    | 1 => decide (c ≠ 0)
    | 2 => decide (c < 0)
    | 3 => decide (c ≤ 0)
    | 4 => decide (0 < c)
    | 5 => decide (0 ≤ c)
    | 6 => false
    | _ => true

/-- FCVT on bits (R140, R141): the bits of the destination type, without extension. -/
def convert (dst src : Ty) (mode r x : Nat) : Nat :=
  match src.int?, dst.int? with
  | some _, some sd =>
    let i := match src.value x with
      | .fin n m _ => if n then -(m : Int) else (m : Int)
      | _ => 0
    let (lo, hi) := intRange sd dst.width
    let j := if mode = 4 ∨ mode = 6 then clamp lo hi i else i
    (j % (2 : Int) ^ dst.width).toNat
  | _, _ => roundTo dst mode r (src.value x)

/-- The result placed in 32 bits: signed destinations carry copies of the sign above, others 0 (R140). -/
def placeResult (dst : Ty) (x : Nat) : Word :=
  match dst.int? with
  | some true => trunc32 (sext dst.width x)
  | _ => BitVec.ofNat 32 (x % 2 ^ dst.width)

/-- The E8M0 scale of a block of magnitudes (R130). -/
def blockScale (emax : Nat) (vs : List Val) : Nat :=
  if vs.any (fun v => match v with
      | .fin _ _ _ => false
      | _ => true) then 255
  else
    let top := vs.foldl (fun (b : Option Int) v => match v with
      | .fin _ m e => if m = 0 then b else
          let l := (m.log2 : Int) + e
          match b with
          | none => some l
          | some y => some (if y < l then l else y)
      | _ => b) none
    match top with
    | none => 127
    | some l => (clamp 0 254 (l - emax + 127)).toNat

/-- The value of a block element under its scale (R129). -/
def scaledVal (s : Nat) (v : Val) : Val := if s = 255 then .nan else v.scale ((s : Int) - 127)

end Sys2Proof.Machine
end

