-- ==== Sys2Proof/Config.lean ====
section
/-! DEFINITION. What the spec leaves open, as free values without a body, and the device's fixed numbers. A free value
applied to a number that the state counts is a fresh value at every draw (notes/assumptions/1.md). -/
namespace Sys2Proof

/-- A 32-bit value that the spec does not state. -/
opaque Config.freeWord : Nat → Word
/-- A 64-bit value that the spec does not state. -/
opaque Config.freeDword : Nat → Dword
/-- A choice between two outcomes that the spec allows. -/
opaque Config.freeBit : Nat → Bool
/-- A number or an order that the spec does not state. -/
opaque Config.freeNat : Nat → Nat
/-- Which of the steps that may come next comes first, by the count of steps. -/
opaque Config.order : Nat → Nat
/-- Whether the issue units go before the engines, by the count of steps. -/
opaque Config.issueFirst : Nat → Bool
/-- The seal of a record handle: team, entry and generation to a nonzero handle word (R297). -/
opaque Config.seal : Nat → Nat → Nat → Word
/-- The set of its slice in which a stripe block lies: implementation-defined (R267). -/
opaque Config.l2Set : Nat → Nat
/-- A byte of a signature that the SPDM responder produces (R441). -/
opaque Config.digest : Nat → Nat → Byte
/-- The digest of some bytes, SHA-384 (R440, R441): a byte of it. -/
opaque Config.sha384 : Bytes → Nat → Byte
/-- The Isaby firmware in the part (R440, R441). -/
opaque Config.isabyImage : Bytes
/-- The device firmware in the module flash (R440). -/
opaque Config.firmwareImage : Bytes

/-- Cores of the device (R14). -/
def Config.cores : Nat := 288
/-- Device channels, and slices (R19). -/
def Config.channels : Nat := 384
/-- The last placed page (R407). -/
def Config.lastPage : Nat := 0x9C713F
/-- The first page of the reserved region (R407). -/
def Config.reservedPage : Nat := 0x980000
/-- The physical address of the reserved region (R410). -/
def Config.reservedBase : Nat := 0x9800000000
/-- The physical address of the firmware area (R410). -/
def Config.firmwareBase : Nat := 0x9805130000
/-- Bytes of the firmware area: to the end of the placed pages (R407, R410). -/
def Config.firmwareSize : Nat := 65536 * (Config.lastPage + 1) - Config.firmwareBase
/-- Lines of a core's register cache (01_machine.md, R380). -/
def Config.registerLines : Nat := 8192
/-- Cycles of a NOPRE section (R363). -/
def Config.noprelimit : Nat := 34000

end Sys2Proof
end

