-- ==== Sys2Proof/Machine/State.lean ====
section
/-! DEFINITION. The state of the Y7 as plain data: every lane, group, team, cluster, task and core, the memory and its
caches, the resilient memory, the networks, the management plane; and the state right after reset. -/
namespace Sys2Proof.Machine

/-- What a lane is doing (R58). -/
inductive LaneState where
  | live
  /-- waits at an HWAIT on this heddle -/
  | parked (h : Nat)
  | exited
  deriving DecidableEq, Repr

/-- One lane of a group (R58). -/
structure Lane where
  pc : Dword
  link : Dword
  st : LaneState
  deriving DecidableEq, Repr

/-- A latch: its class, the value of each lane, and the mark of the nw = 1 result it holds within an open run, or 0
(R80 to R82). -/
structure Latch where
  vec : Bool
  vals : List Word
  tag : Nat
  deriving DecidableEq, Repr

/-- An open latch run (R82, R85): restart point, lanes, instructions issued, instructions since the latest nw = 1
producer, results not yet read, and the generator states kept at the restart point (R126). -/
structure LatchRun where
  restart : Dword
  mask : Word
  count : Nat
  since : Nat
  unread : List Nat
  sr : List Word
  /-- a control or heddle instruction has issued and ended the run (R84); its lanes are still in hand while it issues -/
  closed : Bool
  deriving DecidableEq, Repr

/-- A fault record (R387). `grade` is 0 while pending. -/
structure FaultRec where
  cause : Nat
  grade : Nat
  cls : Nat
  lane : Nat
  nested : Bool
  ext : Bool
  word : Nat
  group : Nat
  task : Nat
  pc : Nat
  va : Nat
  deriving DecidableEq, Repr

/-- Where one access of an operation stands on the path of R25. -/
inductive AccSt where
  /-- the request has not been served at its home slice -/
  | wait
  /-- it waits at the translation home (R177) -/
  | walk
  /-- translated; the sector waits for a degraded read at this physical line (R414) -/
  | degraded (pa : Nat)
  /-- accepted by a Mirmar port, or by the host port; waits for the acknowledgement (R341, R442) -/
  | ext (host : Bool)
  /-- a region access that waits for the batten (R270, R272) -/
  | batten
  /-- a region load that waits for depth (R274) -/
  | depth
  /-- a region store whose edges are entered and whose bytes are not merged yet (R271) -/
  | merge
  /-- held at the home slice behind open regions (R287) -/
  | held
  /-- a RED that a reed router has merged into another request (R250) -/
  | merged
  /-- served -/
  | got
  /-- met a fault: cause code and cause-specific word -/
  | failed (cause word : Nat)
  deriving DecidableEq, Repr

/-- One lane's access of an operation: its address, its progress, the bytes read, the operands of a store or an atomic
(R193, R194, R245, R246), and the requests that were merged into it, as group, operation and lane (R250). For a merged
RED `op2` is the merged operand; for an acquire load it is the binding that the reply carried (R226). -/
structure Acc where
  lane : Nat
  addr : Nat
  st : AccSt
  data : Bytes
  op1 : Bytes
  op2 : Bytes
  origins : List (Nat × Nat × Nat)
  deriving DecidableEq, Repr

/-- Where a result is written: registers by their absolute number (the window is applied at issue), or a channel. -/
inductive Dst where
  | none
  | v (reg words : Nat)
  | s (reg words : Nat)
  /-- a channel, and the queue that it names at issue (R317) -/
  | chan (c qid : Nat)
  deriving DecidableEq, Repr

/-- The engine classes of R228. -/
inductive Cls where
  | mem | copy | mat | red | msg | region
  deriving DecidableEq, Repr

/-- What an outstanding operation is. -/
inductive OpKind where
  /-- a load of this width in bytes, sign-extended or not (R193) -/
  | load (width : Nat) (signed : Bool)
  /-- a store whose lines are in the write-combining buffer or in flight (R197) -/
  | store
  /-- ATOM, ATOM64, ATOML with this op and width (R244) -/
  | atom (op width : Nat)
  /-- CAS, CASL of this width (R246) -/
  | cas (width : Nat)
  /-- RED with this op and width (R244) -/
  | red (op width : Nat)
  /-- a matrix instruction in the array queue (R149), and whether it is a fill (R152) -/
  | matrix (fill : Bool)
  /-- a transfer of the shuttle (R303) -/
  | copy
  /-- a TRED on its way to its node's router, with its values (R260) -/
  | tred (tree node : Nat) (vals : List Word)
  /-- a push to a remote queue: queue id, entries, traffic class (R317); the `scope` of the operation of a load's push is
  one more than the load's place in issue order, else 0 (R318) -/
  | push (qid : Nat) (entries : List Word) (cls : Nat)
  /-- a region of the group that has not ended (R276) -/
  | region
  /-- a WBL over the stripe blocks from `base` to before `stop`, with invalidation or without (R205) -/
  | wbl (base stop : Nat) (inv : Bool)
  /-- an operation that is complete as it issues and only holds its place on its counter (R228) -/
  | instant
  deriving DecidableEq, Repr

/-- An outstanding operation of a group (R228): its place in issue order, class, kind, the word that issued it, its
accesses, its destination, the lines still to be written, and how it ended. -/
structure Op where
  seq : Nat
  cls : Cls
  kind : OpKind
  pc : Dword
  accs : List Acc
  dst : Dst
  /-- the destination's operand code at issue (R376) -/
  code : Nat
  /-- fresh = 1, or made fresh by its kind (R183) -/
  fresh : Bool
  lin : Bool
  ret : Nat
  /-- scope and order code of an ordering access (R211, R34) -/
  scope : Nat
  order : Nat
  /-- the region slot + 1 of a region access, or 0 (R270) -/
  slot : Nat
  done : Bool
  failed : Bool
  /-- the first deferred fault: cause, word, lane, address (R200) -/
  fault : Option (Nat × Nat × Nat × Nat)
  /-- the ready groups of the core at its issue, which its headers carry as SLACK (R329, R359) -/
  slack : Nat
  deriving DecidableEq, Repr

/-- A line of the write-combining buffer (R197): the line's address over 128, the bytes by offset, the stores merged
into it, and the word of the oldest. -/
structure WcbLine where
  line : Nat
  bytes : Tab (Option Byte)
  ops : List Nat
  pc : Dword
  /-- the retention of the latest store (R183) -/
  ret : Nat
  deriving DecidableEq, Repr

/-- What a write in flight is (R201, R219). -/
inductive PartKind where
  | store | strel | tst
  /-- of a transfer, and whether it carries bytes of a chain (R306) -/
  | copy (chain : Bool)
  | red (op width : Nat)
  deriving DecidableEq, Repr

/-- A write in flight from a group to a home slice or bank: the address class (0 virtual, 1 scratch of team `team`,
2 linear), the line, the bytes, the operations it completes, and the release it is held behind, if any (R219). -/
structure Part where
  id : Nat
  kind : PartKind
  cls : Nat
  team : Nat
  line : Nat
  bytes : Tab (Option Byte)
  /-- the lane operands of a RED, by address -/
  opnds : List (Nat × Bytes)
  ops : List Nat
  pc : Dword
  st : AccSt
  rel : Option Nat
  /-- a scratch store that also sets its lines full (R189) -/
  full : Bool
  /-- retention (R183) -/
  ret : Nat
  deriving DecidableEq, Repr

/-- An open REL or STREL (R219): its mark, the lines of its objects, the operations and writes it covers, its scope, and
the failed covered write that is earliest in issue order, with its underlying cause. -/
structure RelWait where
  id : Nat
  lines : List (Nat × Nat × Nat)
  ops : List Nat
  parts : List Nat
  scope : Nat
  bad : Option (Nat × Nat)
  /-- operations from this number on are later than it -/
  seq : Nat
  deriving DecidableEq, Repr

/-- An entry of the store-fault record queue with its held request (R201, R376). -/
structure SfEntry where
  word : Nat
  pc : Dword
  part : Part
  /-- the core that issued the write, in whose request table the record is kept (R376) -/
  core : Nat
  deriving DecidableEq, Repr

/-- A channel binding (R315, R325). -/
structure Binding where
  qid : Nat
  pop : Bool
  failed : Nat
  /-- L of its queue (R325) -/
  logcap : Nat
  deriving DecidableEq, Repr

/-- The recorded wait of a barrier instruction (R234): kind 1 BSYNC, 2 CBAR, its barrier, its token; and the word and the
lanes that wait. -/
structure BarWait where
  kind : Nat
  idx : Nat
  token : Nat
  pc : Dword
  mask : Word
  /-- the marks of the latches that its operand reads (R82) -/
  reads : List Nat
  deriving DecidableEq, Repr

/-- The checkpoint of a region (R284). -/
structure Ckpt where
  lanes : List Lane
  v : Tab Word
  s : Tab Word
  p : Tab Word
  h : Tab Word
  wb : Nat
  sr : List Word
  ihead : Option Dword
  /-- registers whose line has not been copied yet, because the register cache did not hold it -/
  absent : List Nat
  /-- poison marks and the errors of stored code words (R96) -/
  poison : List Nat
  regErr : Tab (List (Nat × Byte))
  deriving DecidableEq, Repr

/-- The region state of a group (R282, R283): nesting, serial, slot, the XOPEN's address and destination, its
checkpoint, the latest end, the count of aborts, and an abort not yet delivered. -/
structure RegionSt where
  nest : Nat
  serial : Bool
  slot : Nat
  xpc : Dword
  xd : Nat
  ckpt : Option Ckpt
  code : Nat
  qcode : Nat
  aborts : Nat
  abortPending : Option (Nat × Nat)
  deriving DecidableEq, Repr

/-- The scheduling states of R358. -/
inductive Sched where
  | unplaced | inactive | active | held | done | killed
  deriving DecidableEq, Repr

/-- A group: its context of R373, the state its core keeps while it is active, and the engine state the device holds
for it. -/
structure Group where
  -- identity, fixed by the launch (R346, R348, R394)
  task : Nat
  taskId : Nat
  gidx : Nat
  team : Nat
  groupid : Nat
  teamid : Nat
  clrank : Nat
  role : Nat
  asid : Nat
  nreg : Nat
  rgn : Bool
  -- scheduling (R358 to R363)
  sched : Sched
  core : Nat
  /-- never activated before: its state is that of R350 and not the frame's -/
  fresh : Bool
  /-- blocked inside an instruction since the last event -/
  blocked : Bool
  /-- its bundle has issued an instruction and waits inside it (R61) -/
  entered : Bool
  /-- remaining SLEEP cycles, and the count that the SLEEP asked for (R70) -/
  sleep : Nat
  sleepCount : Nat
  nopre : Bool
  /-- its NOPRE section was closed at 20 microseconds (R363) -/
  overrun : Bool
  /-- order of activation and of waiting -/
  since : Nat
  -- lanes and registers (R58, R373)
  lanes : List Lane
  v : Tab Word
  s : Tab Word
  p : Tab Word
  h : Tab Word
  wb : Nat
  ihead : Option Dword
  sr : List Word
  /-- registers marked poisoned (R96): vector register numbers -/
  poison : List Nat
  /-- what the stored code word of a register differs by from the code word of its value, as byte positions and patterns
  (R95, R96); the environment sets it -/
  regErr : Tab (List (Nat × Byte))
  /-- register lines that the register cache does not hold (R380, R381), and the one the group waits for -/
  absent : List Nat
  missing : Option Nat
  /-- vector registers whose line in the register cache differs from the frame's, and the step of each one's latest use
  (R380, R382) -/
  dirty : List Nat
  used : Tab Nat
  -- issue (R60, R80 to R85, R36)
  latches : List Latch
  stream : Word
  run : Option LatchRun
  /-- the last run closed at its eighth instruction with a result unread (R82) -/
  runFull : Bool
  nextTag : Nat
  stall : Tab Nat
  aged : Option Nat
  /-- lanes that wait inside an ITEMHEAD or ITEMNEXT that has served other lanes of their bundle (R60, R72) -/
  itemWait : Word
  imx : Option (BitVec 26)
  -- traps (R390 to R395)
  inTrap : Bool
  tvec : Dword
  tmask : Word
  tpc : Dword
  trec : FaultRec
  trapMask : Dword
  /-- the record that holds the group (R392), and the lanes it stopped -/
  hrec : Option FaultRec
  hlanes : Word
  /-- the record of a trap whose write-back met a FRAME_FAULT (R385) -/
  trapWait : Option FaultRec
  /-- a frame access that faulted and is retried (R385): 1 write-back, 2 line fetch, 3 header read, 4 append -/
  frameRetry : Nat
  /-- the FRAME_FAULT that waits for one of the core's four residents: word and address (R385) -/
  frameLate : Option (Nat × Nat)
  /-- the next restore takes the frame as system software left it (R375, R402) -/
  take : Bool
  /-- register lines that the frame still holds as system software left them (R375, R380) -/
  lines : List Nat
  /-- the next restore replays the store-fault entries (R383, R402) -/
  replayDue : Bool
  /-- an issued RETT that waits: whether it skips, and the operations and writes it waits for (R399) -/
  rett : Option (Bool × List Nat × List Nat)
  -- memory operations (R195 to R201, R219, R228, R230)
  seq : Nat
  ops : List Op
  wcb : List WcbLine
  parts : List Part
  rels : List RelWait
  sfq : List SfEntry
  sfwait : List SfEntry
  /-- the requests and replays of a restore or a RETT in their order, and whether the group waits for them (R383, R399) -/
  again : List (Nat × Bool)
  /-- the place in issue order of the writes that replays repeat (R383) -/
  places : Tab Nat
  /-- a store-fault record has arrived and not trapped yet (R201) -/
  sfnew : Bool
  fence : Nat
  /-- imprecise records of matrix and copy not delivered yet, with the counter they belong to (R152, R167, R310) -/
  imprec : List (Cls × FaultRec)
  /-- a barrier arrival that is counted (R224) -/
  wait : Option BarWait
  /-- the store that waits inside itself for a drain: its operation, and how many of its lines are done (R197) -/
  storing : Option (Nat × Nat)
  /-- the operations that an issued TSTAT waits for, as group and number (R150) -/
  tstat : Option (List (Nat × Nat))
  /-- the task that an issued LWAIT waits for, and its completion word once written (R366) -/
  twait : Option (Nat × Option Nat)
  chans : Tab (Option Binding)
  /-- a chain is open (R306); its running value, and where its bytes went: 0 nowhere yet, 1 this device, 2 a peer, 3 both -/
  chain : Bool
  crc : Word
  crcAt : Nat
  /-- the operation that opened the chain, and the status of a failed write of it: 2 refused, 3 dead (R459) -/
  chainSeq : Nat
  chainBad : Nat
  reg : RegionSt
  -- debug (R87, R88, R444)
  dbg : Bool
  /-- issue once over a marked word -/
  dbgOnce : Bool
  /-- 1 step the head bundle, 2 step all bundles, 3 an all-bundle step has begun, 4 the step has ended; the bundles
  that are still to issue -/
  dbgStep : Nat
  dbgLeft : List Word
  dbgStop : Bool
  /-- the debug status: a bundle that blocked has ended the all-bundle step (R88) -/
  stepBlocked : Bool
  deriving DecidableEq, Repr

/-- A barrier (R231). -/
structure Bar where
  count : Nat
  arrived : Nat
  phase : Nat
  deriving DecidableEq, Repr

/-- An entry of a team's record table (R297): whether its handle is valid, its generation, its body and base. -/
structure RecEntry where
  valid : Bool
  gen : Nat
  body : Bytes
  base : Nat
  deriving DecidableEq, Repr

/-- An operand slot of a core (R142 to R145): the team that holds it (key + 1, or 0), its bytes, and the scale slot and
section it is bound to. -/
structure Slot where
  owner : Nat
  data : Tab Byte
  scale : Option (Nat × Nat)
  deriving DecidableEq, Repr

/-- An accumulator tile of a core (R142, R146). -/
structure Tile where
  owner : Nat
  int : Bool
  data : Tab Word
  suspect : Bool
  poison : Bool
  deriving DecidableEq, Repr

/-- What an entry of the array queue does; slots and tiles are physical (R149). -/
inductive ArrKind where
  | tld (slot base stride : Nat)
  | tldx (w slot base stride : Nat)
  | tlds (slot sec base : Nat)
  | tst (ty tile base stride mode : Nat)
  | tmv (reg tile row : Nat)
  | tmvi (tile row : Nat) (vals : List Word)
  | trel (slots tiles : List Nat)
  | tzero (int : Bool) (tiles : List Nat)
  | tscale (slot : Nat) (scale : Option (Nat × Nat))
  | mma (fam : Nat) (va vb sat z : Bool) (tile a b : Nat)
  | mms (ring fam : Nat) (va vb z : Bool) (tile a b : Nat)
  /-- the place of a copy that writes an operand slot -/
  | copy (slot : Nat)
  deriving DecidableEq, Repr

/-- An entry of the array queue (R149, R152). -/
structure ArrEntry where
  g : Nat
  seq : Nat
  team : Nat
  kind : ArrKind
  pc : Dword
  deriving DecidableEq, Repr

/-- A transfer of the shuttle (R291, R301 to R310). -/
structure Transfer where
  g : Nat
  seq : Nat
  team : Nat
  pc : Dword
  /-- COPY fn: 2 CPY, 3 CPYG, 4 CPYS, 5 CPYC, 6 CPYM, 7 CPYE, 8 CPYF -/
  fn : Nat
  dstRec : RecEntry
  srcRec : RecEntry
  idxRec : RecEntry
  /-- the record-table entries that it names -/
  handles : List Nat
  word1 : Word
  word2 : Word
  mode : Nat
  /-- the physical operand slot of TOSLOT (R301) -/
  slot : Option Nat
  /-- stores that the source reads must observe (R303) -/
  after : List Nat
  started : Bool
  /-- a fault has held it and it has not gone on since (R309) -/
  paused : Bool
  /-- a line whose write has passed its check and waits behind open regions (R287) -/
  passed : Option Nat
  /-- how much of a multicast's data each team has taken (R305) -/
  given : Tab Nat
  /-- elements visited so far, in visiting order -/
  pos : Nat
  /-- every element has been visited, or an index has stopped the transfer (R304) -/
  moved : Bool
  /-- cause, word and address of the fault that holds it (R309) -/
  fault : Option (Nat × Nat × Nat)
  status : Nat
  refused : Nat
  oob : Nat
  poisonVa : Option Nat
  /-- the index entry in use and its value (R304) -/
  entry : Option (Nat × Int)
  /-- elements read for an operand slot or a multicast, by twice their position, and block scales by one more -/
  buf : Tab Nat
  /-- teams of a CPYM still to be delivered (R305) -/
  teams : List Nat
  /-- destination scratch lines written and not yet full, as team and line, for SETFULL -/
  lines : List (Nat × Nat)
  dst : Dst
  lanes : List Nat
  ring : Option (Nat × Nat)
  setFull : Bool
  first : Bool
  last : Bool
  /-- the chain's final value has come back from the peer (R306) -/
  reply : Option Word
  /-- the tag of the last packet of its chain (R459) -/
  tag : Option Nat
  deriving DecidableEq, Repr

/-- A team (R23, R349, R350). -/
structure Team where
  task : Nat
  tidx : Nat
  cluster : Nat
  teamid : Nat
  core : Nat
  resident : Bool
  done : Bool
  /-- scratch allocation in bytes (R185), its contents and full/empty bits (R189) -/
  scratchSize : Nat
  scratch : Tab Byte
  full : Tab Bool
  bars : Tab Bar
  nring : Nat
  ringSize : List Nat
  /-- fill and free phases by 32 × ring + slot (R236) -/
  ringF : Tab Bool
  ringE : Tab Bool
  recs : Tab RecEntry
  itemCap : Nat
  items : List Word
  /-- items put so far: the tail of the item ring (R357) -/
  itemTail : Nat
  itemClosed : Bool
  /-- physical slot + 1 or tile + 1 of each claimed name (R142), or 0 -/
  slotOf : Tab Nat
  tileOf : Tab Nat
  /-- matrix state in the save area while the team is out of its core (R153) -/
  savedSlots : List (Nat × Slot)
  savedTiles : List (Nat × Tile)
  savedArr : List ArrEntry
  /-- held transfers of a team that is out of its core (R311) -/
  savedCopies : List Transfer
  /-- first row of its allocation in the scratch pool: pool line over the number of scratch banks (R185) -/
  poolRow : Nat
  launch : Nat
  deriving DecidableEq, Repr

/-- A cluster of a task (R354, R361). -/
structure Cluster where
  task : Nat
  clrank : Nat
  placed : Bool
  ever : Bool
  dropped : Bool
  x0 : Nat
  y0 : Nat
  bar : Bar
  /-- its place behind the other clusters of its priority after a team quantum, or 0 -/
  turn : Nat
  /-- it is being written out (R361): 1 by the scheduler, 2 by BANKCFG (R207), 3 by the team quantum -/
  leaving : Nat
  deriving DecidableEq, Repr

/-- The states of a task entry (R345). -/
inductive TaskState where
  | free | waiting | active | completing
  deriving DecidableEq, Repr

/-- A launch record (R346). -/
structure LaunchRec where
  prio : Nat
  rgn : Bool
  splitok : Bool
  w : Nat
  h : Nat
  team : Nat
  nreg : Nat
  itemq : Nat
  asid : Nat
  kpc : Nat
  ncl : Nat
  scratch : Nat
  rolemap : Nat
  ctxb : Nat
  tsave : Nat
  items : Nat
  icount : Nat
  iclose : Bool
  done : Nat
  nring : Nat
  rings : List Nat
  args : List Word
  rd : List (Nat × Nat)
  wr : List (Nat × Nat)
  deriving DecidableEq, Repr

/-- An entry of the task table (R345, R353). -/
structure Task where
  state : TaskState
  gen : Nat
  record : LaunchRec
  order : Nat
  preds : List Nat
  prio : Nat
  nofit : Bool
  placedN : Nat
  doneN : Nat
  /-- groups ended, groups killed singly, killed as a whole -/
  ended : Nat
  killed : Nat
  whole : Bool
  grade : Nat
  ext : Bool
  result : Nat
  deriving DecidableEq, Repr

/-- A queue of a core's queue table (R314). -/
structure Queue where
  live : Bool
  gen : Nat
  team : Nat
  asid : Nat
  logcap : Nat
  bank : Nat
  base : Nat
  /-- entries with a mark for one the bank store cannot correct (R316) -/
  entries : List (Word × Bool)
  waiters : List Nat
  /-- entries at the head that the first waiter, which waits inside its instruction, has reserved (R316) -/
  taken : Nat
  deriving DecidableEq, Repr

/-- The permission marks of a cached line (R468). -/
structure Marks where
  w : Bool
  x : Bool
  sys : Bool
  view : Bool
  deriving DecidableEq, Repr

/-- A cached line of 128 bytes, tagged by ASID and virtual address in its key (R180, R182, R468). -/
structure Line where
  present : Bool
  bytes : Tab Byte
  dirty : Bool
  marks : Option Marks
  /-- the retention it was allocated with: 0 normal, 1 the next victim of its set, 2 sticky (R183) -/
  ret : Nat
  poison : Bool
  deriving DecidableEq, Repr

/-- A computation error in a pipe slot that the environment has caused: pipe 0 to 4, slot, pattern, passes (R91). -/
structure PipeErr where
  pipe : Nat
  slot : Nat
  pat : Word
  count : Nat
  deriving DecidableEq, Repr

/-- A core (R22). -/
structure Core where
  /-- per-core system registers by number: BANK_MODE, PICK_CTL, SLOT_CHARGE, MAT_CTL, MAT_CHARGE, REED_CTL -/
  sys : Tab Dword
  /-- retired slots, as 16 × pipe + slot, and pipes (R92) -/
  slotRetired : List Nat
  pipesOff : List Nat
  coreOff : Bool
  pipeErr : List PipeErr
  /-- the array: spare row in use, the row it replaces, retired (R169); block errors of the environment, by row -/
  spareUsed : Bool
  steered : Nat
  arrayOff : Bool
  arrErr : Tab Nat
  l1 : Tab Line
  queues : Tab Queue
  shuttle : List Transfer
  arr : List ArrEntry
  slots : Tab Slot
  tiles : Tab Tile
  /-- the group that issued last at each priority (R359), as key + 1 -/
  last : Tab Nat
  /-- out of service for placement (R445) -/
  out : Bool
  /-- the banks that BANKCFG is changing, as a mask, their new mode, and those of them that leave scratch mode (R207) -/
  change : Option (Nat × Nat × Nat)
  /-- the ready ACTIVE groups at its latest issue (R359) -/
  slack : Nat
  /-- the spare cell row has failed a test and is retired (R445) -/
  spareOut : Bool
  deriving DecidableEq, Repr

/-- A TLB entry of the slice that is the translation home (R177): the leaf found at this level for this page. -/
structure TlbEntry where
  slice : Nat
  asid : Nat
  level : Nat
  base : Nat
  leaf : Dword
  deriving DecidableEq, Repr

/-- A binding of a synchronisation object (R213). -/
structure ObjBinding where
  asid : Nat
  obj : Nat
  base : Nat
  log : Nat
  deriving DecidableEq, Repr

/-- A version of a line written by an open region (R267). -/
structure Version where
  slot : Nat
  key : Nat
  bytes : Tab (Option Byte)
  deriving DecidableEq, Repr

/-- The states of a region at the batten (R266). A region that is committing locks its lines (R276); an aborting one has no
version, edge or signature left, and holds its slot while a request of it is in flight (R265). -/
inductive RState where
  | opened | requesting | committing | aborting
  deriving DecidableEq, Repr

/-- An occupied region slot (R266). `sig` lists the set bits of the read signature, `flow` the regions of which this one
is a dependant (R272), `wset` the keys of its write-set lines. -/
structure RSlot where
  g : Nat
  asid : Nat
  st : RState
  begin : Nat
  sig : List Nat
  depth : Nat
  flow : List Nat
  wset : List Nat
  deriving DecidableEq, Repr

/-- The batten (R266, R286, R288). -/
structure Batten where
  slots : Tab (Option RSlot)
  edges : List (Nat × Nat)
  nextBegin : Nat
  versions : List Version
  /-- the serial token of each ASID and the group that holds it -/
  serial : List (Nat × Nat)
  aborts : Nat
  /-- an uncorrectable error in its state that has not been reported (R266) -/
  bad : Bool
  deriving DecidableEq, Repr

/-- A node of a reduction tree: router's core, parent, whether it has a contributor (R256). -/
structure TreeNode where
  core : Nat
  parent : Nat
  c : Bool
  deriving DecidableEq, Repr

/-- A tree record (R256, R257, R262). `st`: 0 undefined, 1 idle, 2 open, 3 halted. -/
structure Tree where
  st : Nat
  op : Nat
  e1 : Nat
  asid : Nat
  tmo : Nat
  nodes : List TreeNode
  round : Nat
  contrib : Tab (List Word)
  /-- values folded and sent to the parent -/
  folded : Tab (List Word)
  results : List (Nat × List Word)
  /-- the failed round of a halted tree and its missing contributors -/
  failed : Nat
  missing : Nat
  /-- wrong computations pending at a node's router, which the environment causes (R258) -/
  err : Tab Nat
  /-- contributions to the open round on their way: node, group, operation (R260) -/
  sent : List (Nat × Nat × Nat)
  deriving DecidableEq, Repr

/-- The states of a memory channel (R417). -/
inductive ChState where
  | up | watch | repair | dropped | retired
  deriving DecidableEq, Repr

/-- A memory channel (R417, R428, R433). -/
structure Chan where
  st : ChState
  prev : ChState
  /-- the row under repair -/
  row : Nat
  spares : List Nat
  slotsOut : List Nat
  corrections : Nat
  /-- distinct slots whose reads came back uncorrectable -/
  uncorr : List Nat
  /-- the group whose MREPAIR runs, as key + 1, and how the repair ended (R428, R432) -/
  owner : Nat
  ended : Option Bool
  deriving DecidableEq, Repr

/-- An entry of the charge table in use, with its number (R426). -/
structure Charge where
  entry : Nat
  channel : Nat
  slot : Nat
  count : Nat
  last : Nat
  deriving DecidableEq, Repr

/-- The rebuild engine of a die (R418, R420): its pass over the channel in hand (3 when both are over), the next data slot, the
page in hand (page, position, and the channel and number of its spare) and the next stripe of it. -/
structure Engine where
  pass : Nat
  cursor : Nat
  page : Option (Nat × Nat × Nat × Nat)
  t : Nat
  deriving DecidableEq, Repr

/-- A rebuild engine before the first slot of a channel. -/
def Engine.init : Engine := ⟨1, 0, none, 0⟩


/-- The rebuild (R418, R430): the channels that wait, the one in hand, and the three engines that share it. -/
structure Rebuild where
  queue : List Nat
  cur : Option Nat
  /-- the engines of the dies, each from the start of the channel in hand where it is not listed -/
  engines : Tab Engine
  paused : Bool
  /-- pages that were visited and left unrelocated (R419) -/
  skipped : List Nat
  deriving DecidableEq, Repr

/-- A write that a repair holds at its stripe controller (R428): the stripe, the sector of a sector write (none for a whole
block), its bytes, and whether they are undecodable data (R377). -/
structure HeldWrite where
  st : Nat
  sector : Option Nat
  bytes : List (Option Byte)
  bad : Bool
  deriving DecidableEq, Repr

/-- The resilient memory (R404 to R430). -/
structure Resil where
  chans : Tab Chan
  /-- syndromes S0 and S1 of a stripe's byte positions, by 32 × stripe + byte: what P and Q differ by from the stored
  data (R405, R425) -/
  s0 : Tab Byte
  s1 : Tab Byte
  /-- faults that MINJECT or the stack placed on a chunk, by 32 × stripe + position: 1 next read, 2 every read (R432) -/
  chunkFault : Tab Nat
  poison : List Nat
  /-- undecodable 128-byte lines written as poisoned data (R377) -/
  poisonLines : List Nat
  /-- stripes written in full since a page entered STATE 2 (R416) -/
  lost : Tab (List Nat)
  charges : List Charge
  rebuild : Rebuild
  /-- writes that a repair holds, in their order of arrival (R417, R428) -/
  heldW : List HeldWrite
  /-- stripes with a write that their controller has not acknowledged (R415) -/
  sent : List Nat
  /-- accesses sent again after a rehash reply: core, bucket, group, operation (R424) -/
  reissued : List (Nat × Nat × Nat × Nat)
  /-- the slice map where it differs from bucket's first owner, as owner + 1 (R422) -/
  map : Tab Nat
  gen : Nat
  retiring : Option Nat
  /-- requesters that have sent their markers (R423) -/
  markers : List Nat
  waiting : List Nat
  retiredSlices : List Nat
  /-- the stripe that the patrol scrubber visits next (R425) -/
  cursor : Nat
  passes : Nat
  deriving DecidableEq, Repr

/-- Where a packet goes from a router: to an output port, to a unit at the router, or nowhere (R17, R21, R338). -/
inductive Hop where
  | port (p : Nat)
  | unit (u : Nat)
  | lost
  deriving DecidableEq, Repr

/-- The reassembly slot of one class at an input port (R333): the open packet's header flit, which holds SRC and TAG, the
next IDX, and the packet's route. -/
structure Reasm where
  hdr : Bytes
  next : Nat
  hop : Hop
  deriving DecidableEq, Repr

/-- A packet at an output port (R331, R332): its header, its class, the flits still to send with whether each lies in the
input port's buffer and so returns a credit (R334), its SLACK, the flit slots it has waited, the input port it came by,
whether it has started, and whether its last flit has arrived. -/
structure Packet where
  hdr : Bytes
  cls : Nat
  flits : List (Bool × Flit)
  slack : Nat
  age : Nat
  input : Nat
  started : Bool
  closed : Bool
  deriving DecidableEq, Repr

/-- One end of a link: reassembly, arbitration, credits and replay (R330 to R336). -/
structure Port where
  reasm : Tab (Option Reasm)
  out : List Packet
  cnt : Nat
  /-- credits used at the far end, by class -/
  used : Tab Nat
  /-- credits to return, by class -/
  owed : Tab Nat
  /-- flits sent and not acknowledged, oldest first, each with the header of its packet -/
  replay : List (Bytes × Flit)
  /-- the number of the next flit: LSEQ is its low 8 bits, and a Mirmar frame's sequence its bits [18:3] (R340) -/
  nextSeq : Nat
  /-- the number of the next flit that is accepted -/
  expect : Nat
  /-- a NAK is to be sent -/
  nak : Bool
  /-- the link runs at half width, or retrains on the lanes it has left (R336) -/
  half : Bool
  training : Bool
  /-- flits to send again -/
  resend : List Flit
  /-- the input port that was served last -/
  rr : Nat
  /-- flits put on the wire -/
  sent : List Flit
  /-- packets for local units whose last flit has not arrived, by class -/
  arriving : Tab (List Flit)
  /-- whole packets given to a local unit, and whether their payload is undecodable (R328) -/
  delivered : List (Nat × Bool × List Flit)
  retries : Nat
  deriving DecidableEq, Repr

/-- A Mirmar link (R343). `st`: 0 down, 1 training, 2 full, 3 half, 4 dead. -/
structure Link where
  st : Nat
  en : Bool
  lanes : Nat
  retries : Nat
  peer : Nat
  peerLink : Nat
  slow : Bool
  weight : Nat
  deriving DecidableEq, Repr

/-- A packet that a unit of this device forms for another device (R328, R329): the fields of its header, its payload and its
class. `mask` holds the bits of each byte that a sub-byte merge writes, else 255 (R303). -/
structure OutPkt where
  typ : Nat
  dst : Nat
  src : Nat
  slack : Nat
  resend : Bool
  tag : Nat
  ddev : Nat
  sdev : Nat
  addr : Nat
  asid : Nat
  mapgen : Nat
  operand : Bytes
  data : Bytes
  cls : Nat
  mask : Nat
  /-- the payload is known bad (R328) -/
  psn : Bool
  deriving DecidableEq, Repr

/-- A request to the host's memory (R442): host bus address, kind, width in bytes, data, and the bits of each byte that a
sub-byte merge writes, else 255 (R303). -/
structure BusReq where
  kind : PeerKind
  addr : Nat
  n : Nat
  data : Bytes
  mask : Nat
  deriving DecidableEq, Repr

/-- The networks and links (R328 to R343, R459). -/
structure Net where
  links : Tab Link
  /-- live and half-width bridge ports of each interface, as differences from trained (R343) -/
  bridgeDown : Tab Nat
  bridgeHalf : Tab Nat
  meshOut : List Nat
  ports : Tab Port
  routes : Tab (Option Nat)
  /-- replies kept until they are acknowledged (R337) -/
  kept : List OutPkt
  /-- the Mirmar link that each flow to a peer is on, and the links that it was chosen from (R338) -/
  flows : Tab (Nat × List Nat)
  /-- requests of peers that wait at a home slice, each with the final value of the chain that it ends: writes that have passed
  their check and that open regions hold (R287), and requests for a line that a commit has locked (R276) -/
  held : List (PeerReq × Option Word)
  /-- running values of chains from peers, by port and device, and group (R459) -/
  chains : List (Nat × Nat × Word)
  /-- packets for peer devices that no output port has taken yet, in the order in which they were formed -/
  peerOut : List OutPkt
  /-- requests to host memory, in the order in which the host port took them -/
  busOut : List BusReq
  /-- requests to peers that have not been answered, with the group and the operation that wait (R329, R337) -/
  tags : List (OutPkt × Nat × Nat)
  nextTag : Nat
  /-- the Mirmar port by which a packet of a peer has come in, by tag + 2^32 × unit + 2^48 × device (R459) -/
  entered : Tab Nat
  deriving DecidableEq, Repr

/-- A unit record of the health table (R446), apart from its fixed kind and number. -/
structure UnitRec where
  st : Nat
  detail : Nat
  aEvents : Nat
  bEvents : Nat
  worst : Nat
  deriving DecidableEq, Repr

/-- What the module flash keeps of a core (R439): retired slots and pipes, and the array's row state. -/
structure CoreKeep where
  slotRetired : List Nat
  pipesOff : List Nat
  coreOff : Bool
  spareUsed : Bool
  steered : Nat
  arrayOff : Bool
  spareOut : Bool
  deriving DecidableEq, Repr

/-- Persistent state in the module flash (R439). -/
structure Flash where
  chans : Tab Chan
  cores : Tab CoreKeep
  meshOut : List Nat
  deriving DecidableEq, Repr

/-- The management plane and the host's side (R435 to R449). -/
structure Mgmt where
  log : List FaultRec
  acked : Nat
  units : Tab UnitRec
  table : Tab UnitRec
  tableGen : Nat
  tableHead : Nat
  tableWorst : Nat
  msix : List Nat
  /-- values returned to the host and to SPDM requesters, oldest first -/
  hostOut : List Bytes
  flash : Flash
  /-- an in-field test: kind, unit -/
  ift : Option (Nat × Nat)
  stopped : Bool
  /-- clock levels held by sag, power and temperature (R449) -/
  kSag : Nat
  kPwr : Nat
  kHot : Nat
  sags : Nat
  /-- DEVID and PHASE as the health table shows them -/
  tableDev : Nat
  tablePhase : Nat
  /-- the MSI-X table as the host wrote it, by quadword (R436) -/
  msixTable : Tab Dword
  /-- start-up has a cold reset to finish (R440) -/
  cold : Bool
  /-- start-up has recorded the firmware digests of measurement blocks 1 and 2 (R440, R441) -/
  measured : Option (Bytes × Bytes)
  deriving DecidableEq, Repr

/-- Which side takes the next step when no event is on the agenda: the issue units, or the engines. -/
inductive Turn where
  | issue | engine
  deriving DecidableEq, Repr

/-- The Y7. -/
structure State where
  groups : Tab Group
  teams : Tab Team
  clusters : Tab Cluster
  tasks : Tab Task
  cores : Tab Core
  /-- device physical memory: the bytes a stripe holds -/
  mem : List Host.Cell
  l2 : Tab Line
  tlb : List TlbEntry
  binds : List ObjBinding
  batten : Batten
  trees : Tab Tree
  res : Resil
  net : Net
  /-- device-wide system registers by number -/
  sys : Tab Dword
  /-- fault records that wait for the device fault queue (R392) -/
  fqWait : List FaultRec
  /-- indices of appended records that are still to be pushed to FQ_QUEUE (R393) -/
  fqPush : List Nat
  /-- the first of them has been sent to a queue of another device and waits for its answer (R318, R393) -/
  fqSent : Bool
  mgmt : Mgmt
  /-- the group whose instruction is issuing, as its key -/
  cur : Nat
  turn : Turn
  /-- the model's own field: the steps that engines, links, host and environment take next -/
  agenda : List Instr
  /-- the model's own field: the steps taken, which turns the engines' order -/
  tick : Nat
  /-- the model's own field: how many free values have been drawn -/
  free : Nat
  /-- the model's own field: the order of launches, activations and waits -/
  order : Nat
  deriving DecidableEq, Repr

/-- Why the machine stops. -/
inductive Fault where
  /-- Raised by an instruction for which no group is issuing (State.cur names no active group): nothing issues it.
  Safe: the hardware never issues an instruction without a group. -/
  | noIssuingGroup
  deriving DecidableEq, Repr

/-- Why an instruction has no outcome. -/
inductive Refusal where
  /-- Raised by the dispatcher for an instruction without a meaning yet. Safe: no claim follows from it. -/
  | notModelled (mnemonic : String)
  deriving DecidableEq, Repr

/-- A record of no fault. -/
def FaultRec.none : FaultRec :=
  ⟨0, 0, 0, 0, false, false, 0, 0, 0, 0, 0⟩

/-- No region open and none ended (R350). -/
def RegionSt.none : RegionSt :=
  ⟨0, false, 0, 0#64, 0, Option.none, 0, 0, 0, Option.none⟩

/-- A group that no task holds: the value of an unlisted key, and the base of R350's initial state. -/
def Group.init : Group where
  task := 0
  taskId := 0
  gidx := 0
  team := 0
  groupid := 0
  teamid := 0
  clrank := 0
  role := 0
  asid := 0
  nreg := 8
  rgn := false
  sched := .unplaced
  core := 0
  fresh := true
  blocked := false
  entered := false
  sleep := 0
  sleepCount := 0
  nopre := false
  overrun := false
  since := 0
  lanes := List.replicate 32 ⟨0#64, 0#64, .live⟩
  v := []
  s := []
  p := []
  h := []
  wb := 0
  ihead := none
  sr := List.replicate 32 1#32
  poison := []
  regErr := []
  absent := []
  missing := none
  dirty := []
  used := []
  latches := []
  stream := 0#32
  run := none
  runFull := false
  nextTag := 1
  stall := []
  aged := none
  itemWait := 0#32
  imx := none
  inTrap := false
  tvec := 0#64
  tmask := 0#32
  tpc := 0#64
  trec := .none
  trapMask := 0#64
  hrec := none
  hlanes := 0#32
  trapWait := none
  frameRetry := 0
  frameLate := none
  take := false
  lines := []
  replayDue := false
  rett := none
  seq := 1
  ops := []
  wcb := []
  parts := []
  rels := []
  sfq := []
  sfwait := []
  again := []
  places := []
  sfnew := false
  fence := 0
  imprec := []
  wait := none
  storing := none
  tstat := none
  twait := none
  chans := []
  chain := false
  crc := 0#32
  crcAt := 0
  chainSeq := 0
  chainBad := 0
  reg := .none
  dbg := false
  dbgOnce := false
  dbgStep := 0
  dbgLeft := []
  dbgStop := false
  stepBlocked := false

/-- A team that no task holds (R350). -/
def Team.init : Team :=
  ⟨0, 0, 0, 0, 0, false, false, 0, [], [], [], 0, [], [], [], [], 0, [], 0, false, [], [], [], [], [], [], 0, 0⟩

/-- A cluster that no task holds. -/
def Cluster.init : Cluster := ⟨0, 0, false, false, false, 0, 0, ⟨0, 0, 0⟩, 0, 0⟩

/-- A launch record of zeros. -/
def LaunchRec.init : LaunchRec :=
  ⟨0, false, false, 1, 1, 1, 8, 0, 0, 0, 0, 0, 0, 0, 0, 0, 0, false, 0, 0, [], [], [], []⟩

/-- A free entry of the task table (R345). -/
def Task.init : Task := ⟨.free, 0, .init, 0, [], 0, false, 0, 0, 0, 0, false, 0, false, 0⟩

/-- A core right after its first reset: no unit retired, nothing cached, no queue, no claim. -/
def Core.init : Core :=
  ⟨[], [], [], false, [], false, 0, false, [], [], [], [], [], [], [], [], false, none, 0, false⟩

/-- A line that is not cached. -/
def Line.absent : Line := ⟨false, [], false, none, 0, false⟩

/-- A queue-table entry never allocated (R314). -/
def Queue.init : Queue := ⟨false, 0, 0, 0, 5, 0, 0, [], [], 0⟩

/-- A record-table entry never used (R297). -/
def RecEntry.init : RecEntry := ⟨false, 0, [], 0⟩

/-- A free operand slot (R143). -/
def Slot.init : Slot := ⟨0, [], none⟩

/-- A free tile (R143). -/
def Tile.init : Tile := ⟨0, false, [], false, false⟩

/-- An undefined tree record (R257). -/
def Tree.init : Tree := ⟨0, 0, 0, 0, 0, [], 0, [], [], [], 0, 0, [], []⟩

/-- A channel in state UP (R417). -/
def Chan.init : Chan := ⟨.up, .up, 0, [], [], 0, [], 0, none⟩

/-- A Mirmar link right after reset (R343). -/
def Link.init : Link := ⟨0, true, 0, 0, 0xFFFF, 0, false, 8⟩

/-- A port with nothing in flight. -/
def Port.init : Port := ⟨[], [], 0, [], [], [], 0, 0, false, false, false, [], 0, [], [], [], 0⟩

/-- A unit in service with no events (R446). -/
def UnitRec.init : UnitRec := ⟨0, 0, 0, 0, 0⟩

/-- The state right after the first cold reset: PHASE is BOOTING and no task exists (R439, R440). Every system
register stands at its reset value, which the register tables of Machine/SysReg.lean give for unlisted numbers. -/
def State.reset : State where
  groups := []
  teams := []
  clusters := []
  tasks := []
  cores := []
  mem := []
  l2 := []
  tlb := []
  binds := []
  batten := ⟨[], [], 0, [], [], 0, false⟩
  trees := []
  res := ⟨[], [], [], [], [], [], [], [], ⟨[], none, [], false, []⟩, [], [], [], [], 0, none, [], [], [], 0, 0⟩
  net := ⟨[], [], [], [], [], [], [], [], [], [], [], [], [], 0, []⟩
  sys := []
  fqWait := []
  fqPush := []
  fqSent := false
  mgmt := ⟨[], 0, [], [], 0, 0, 0, [], [], ⟨[], [], []⟩, none, false, 16, 16, 16, 0, 0xFFFF, 0, [], true, none⟩
  cur := 0
  turn := .issue
  agenda := []
  tick := 0
  free := 0
  order := 0

end Sys2Proof.Machine
end

