-- ==== Sys2Proof/Machine/Store.lean ====
section
/-! DEFINITION. Device physical memory: bytes, stripes with their check chunks, placement, erasures and decoding
(15_resilience.md, R404 to R417). -/
namespace Sys2Proof.Machine

/-- What an unlisted byte of device memory reads as after the cold reset: every Page Placement Array entry has STATE 3
(R411, R440), the shadow of generation 0 holds the first slice map (R410, R422), and all else is 0 (R412). -/
def memReset (a : Nat) : Byte :=
  if Config.reservedBase ≤ a ∧ a < Config.reservedBase + 8 * (Config.lastPage + 1) then
    (if a % 8 = 7 then 0xC0#8 else 0#8)
  else if Config.reservedBase + 0x5000000 ≤ a ∧ a < Config.reservedBase + 0x5002000 then
    let o := a - (Config.reservedBase + 0x5000000)
    BitVec.ofNat 8 (3 * (o / 2) / 32 / (if o % 2 = 0 then 1 else 256))
  else 0#8

/-- The byte of device memory at a physical address. -/
def memByte (m : List Host.Cell) (a : Nat) : Byte := Tab.read (memReset a) m a

/-- Device memory with one byte replaced. -/
def memSet (m : List Host.Cell) (a : Nat) (v : Byte) : List Host.Cell := Tab.write (memReset a) m a v

/-- Bytes from address `a` on. -/
def memBytes (m : List Host.Cell) (a n : Nat) : Bytes := (List.range n).map fun i => memByte m (a + i)

/-- Writes bytes from address `a` on. -/
def memWrite (m : List Host.Cell) (a : Nat) : Bytes → List Host.Cell
  | [] => m
  | b :: r => memWrite (memSet m a b) (a + 1) r

/-- Writes the given bytes from address `a` on and skips the others. -/
def memPatch (m : List Host.Cell) (a : Nat) : List (Option Byte) → List Host.Cell
  | [] => m
  | none :: r => memPatch m (a + 1) r
  | some b :: r => memPatch (memSet m a b) (a + 1) r

/-- The canonical form of memory: rising addresses, and no entry equal to what an unlisted address reads as. -/
def Memory.wf (m : List Host.Cell) : Bool := Tab.wf memReset m

/-- The Page Placement Array entry of a page (R411). -/
def State.ppa (s : State) (n : Nat) : Nat := leNat (memBytes s.mem (Config.reservedBase + 8 * n) 8)

/-- Writes a Page Placement Array entry. -/
def State.setPpa (s : State) (n e : Nat) : State :=
  { s with mem := memWrite s.mem (Config.reservedBase + 8 * n) (leBytes 8 e) }

/-- STATE of an entry. -/
def ppaState (e : Nat) : Nat := bitsOf e 62 2

/-- An entry with another STATE. -/
def ppaWithState (e st : Nat) : Nat := e % 2 ^ 62 + st * 2 ^ 62

/-- The relocations of an entry: position, channel, spare slot (R411). -/
def ppaRelocs (e : Nat) : List (Nat × Nat × Nat) :=
  (if bitOf e 0 then [(bitsOf e 1 5, bitsOf e 6 9, bitsOf e 15 16)] else []) ++
    (if bitOf e 31 then [(bitsOf e 32 5, bitsOf e 37 9, bitsOf e 46 16)] else [])

/-- The placement of R408 and R409: device channel and physical slot of a position of a page. -/
def placeOf (n pos : Nat) : Nat × Nat :=
  let v := n % 192
  let row := n / 192
  let a := v % 3
  let b := (a + 1) % 3
  let c := (a + 2) % 3
  let w := v / 3
  let x := w % 32
  let pass := w / 32
  let y := x ^^^ 16
  let e := if pos < 8 then a else if pos < 12 ∨ pos = 16 then b else c
  let j := if pos < 16 then pos % 4 else if pos = 16 then (x + 2 * pass) % 4 else (x + 1 + 2 * pass) % 4
  let i := if pos / 4 = 0 ∨ pos / 4 = 2 ∨ pos = 17 then x else y
  let k := if 16 ≤ pos then 8 else 2 * (pos / 4) + pass
  let sl := 9 * row + k
  (128 * e + 32 * j + i, sl + sl / 11)

/-- Where a position of a page is read and written: its spare slot when relocated, else the placement (R411). -/
def State.home (s : State) (n pos : Nat) : Nat × Nat :=
  match (ppaRelocs (s.ppa n)).find? fun r => r.1 = pos with
  | some (_, ch, sp) => (ch, 12 * sp + 11)
  | none => placeOf n pos

/-- The record of a device channel. -/
def State.chan (s : State) (c : Nat) : Chan := s.res.chans.read Chan.init c

/-- Replaces the record of a device channel. -/
def State.setChan (s : State) (c : Nat) (x : Chan) : State :=
  { s with res := { s.res with chans := s.res.chans.put c x } }

/-- A channel in this state gives erasures (R413). -/
def ChState.erases : ChState → Bool
  | .up => false
  | .watch => false
  | .repair => true
  | .dropped => true
  | .retired => true

/-- Whether the chunk at a position of a stripe is an erasure (R413). `st` is the physical address over 512. -/
def State.erased (s : State) (st pos : Nat) : Bool :=
  let n := st / 128
  let c := s.chan (s.home n pos).1
  let rebuilt := s.res.rebuild.engines.any fun x => match x.2.page with
    | some (pn, pp, _, _) => decide (pn = n ∧ pp = pos) && decide (x.2.t ≤ st % 128)
    | none => false
  c.st.erases || rebuilt || s.res.chunkFault.read 0 (32 * st + pos) ≠ 0

/-- The erased positions of a stripe. -/
def State.erasures (s : State) (st : Nat) : List Nat := (List.range 18).filter fun p => s.erased st p

/-- The difference between a data byte as R406 decodes it and the byte stored, for erased positions `er` with
syndromes `s0` and `s1` (R405, R425). -/
def decodeDiff (er : List Nat) (s0 s1 : Byte) (i : Nat) : Byte :=
  if !er.contains i then 0#8
  else
    match er.filter fun p => decide (p < 16) with
    | [x] => if er.contains 16 then gfMul s1 (gfInv (gfShift x 1#8)) else s0
    | [x, y] =>
      let dx := gfMul (s1 ^^^ gfShift y s0) (gfInv (gfShift x 1#8 ^^^ gfShift y 1#8))
      if i = x then dx else s0 ^^^ dx
    | _ => 0#8

/-- The byte of a stripe as a read returns it: decoded where its chunk is erased. -/
def State.stripeByte (s : State) (er : List Nat) (st o : Nat) : Byte :=
  let b := o % 32
  memByte s.mem (512 * st + o) ^^^
    decodeDiff er (s.res.s0.read 0#8 (32 * st + b)) (s.res.s1.read 0#8 (32 * st + b)) (o / 32)

/-- The part of the reserved region that holds the device's own tables; its bytes are read as they are written
(R410). -/
def inTables (pa : Nat) : Bool := decide (Config.reservedBase ≤ pa) && decide (pa < Config.firmwareBase)

/-- The sector at physical address `128 × line` as its chunks give it: none when the data cannot be decoded
(R406, R412, R414, R416, R377). -/
def State.decodeSector (s : State) (line : Nat) : Option Bytes :=
  let pa := 128 * line
  let st := line / 4
  let e := s.ppa (st / 128)
  if inTables pa then some (memBytes s.mem pa 128)
  else if ppaState e = 3 then some (List.replicate 128 0#8)
  else if ppaState e = 2 then none
  else if s.res.poison.contains st || s.res.poisonLines.contains line then none
  else
    let er := s.erasures st
    let own := er.filter fun p => decide (p < 16) && decide (p / 4 = line % 4)
    if 2 < er.length then none
    else if own.isEmpty then some (memBytes s.mem pa 128)
    else some ((List.range 128).map fun o => s.stripeByte er st (128 * (line % 4) + o))

/-- The bytes that a held write gives the sector at offset `o` of its stripe: by the sector's own place, or the block's. -/
def HeldWrite.covers (w : HeldWrite) (k : Nat) : Option (List (Option Byte)) :=
  match w.sector with
  | some i => if i = k then some w.bytes else none
  | none => some ((w.bytes.drop (128 * k)).take 128)

/-- A sector as a read returns it behind a write that a repair holds at the stripe's controller (R428): with the bytes that the
write brings. One that could not be decoded stays so until the write brings all of it. -/
def HeldWrite.over (w : HeldWrite) (k : Nat) (r : Option Bytes) : Option Bytes :=
  match w.covers k with
  | none => r
  | some new =>
    if w.bad then none
    else if new.all (·.isSome) then some (new.map fun b => b.getD 0#8)
    else r.map fun bs => (bs.zipIdx).map fun e => ((new.getD e.2 none).getD e.1)

/-- A read of the 128-byte sector at physical address `128 × line`: none when the data cannot be decoded (R414, R416). Writes that
a repair holds come before the read. -/
def State.readSector (s : State) (line : Nat) : Option Bytes :=
  (s.res.heldW.filter fun w => w.st = line / 4).foldl (fun r w => w.over (line % 4) r) (s.decodeSector line)

/-- Whether the sector has an erasure of its own, so that its read is a degraded read (R414). -/
def State.degraded (s : State) (line : Nat) : Bool :=
  let e := s.ppa (line / 512)
  !inTables (128 * line) && ppaState e ≠ 3 &&
    (List.range 4).any fun k => s.erased (line / 4) (4 * (line % 4) + k)

/-- Stripes whose page has STATE 3 take STATE 0 at their first write; the page's bytes are zeros (R412). -/
def State.initPage (s : State) (n : Nat) : State :=
  let e := s.ppa n
  if ppaState e = 3 then s.setPpa n (ppaWithState e 0) else s

/-- One byte of a write at the stripe controller (R415): erased positions are not written, but the checks take the new
value, so `mem` holds what a later decode returns. -/
def State.stripeWriteByte (s : State) (er : List Nat) (st o : Nat) (v : Byte) : State :=
  let b := o % 32
  let i := o / 32
  let k := 32 * st + b
  let d := decodeDiff er (s.res.s0.read 0#8 k) (s.res.s1.read 0#8 k) i
  { s with
    mem := memSet s.mem (512 * st + o) v
    res := { s.res with
      s0 := s.res.s0.write 0#8 k (s.res.s0.read 0#8 k ^^^ d)
      s1 := s.res.s1.write 0#8 k (s.res.s1.read 0#8 k ^^^ gfShift i d) } }

/-- Writes bytes of one stripe from offset `o` on. -/
def State.stripeWriteBytes (s : State) (er : List Nat) (st o : Nat) : Bytes → State
  | [] => s
  | v :: r => State.stripeWriteBytes (s.stripeWriteByte er st o v) er st (o + 1) r

/-- A fault that MINJECT placed on a chunk ends when the chunk is written (R432). -/
def State.clearChunkFault (s : State) (st pos : Nat) : State :=
  { s with res := { s.res with chunkFault := s.res.chunkFault.erase (32 * st + pos) } }

/-- A write of a stripe is on its way until the controller acknowledges it (R415). -/
def State.send (s : State) (st : Nat) : State := { s with res := { s.res with sent := s.res.sent ++ [st] } }

/-- A sector write of 128 bytes at physical address `128 × line` as its controller makes it (R415, R412, R416): unwritten bytes of a
decodable sector keep their decoded value. `new` gives none for a byte that is not written; `bad` marks undecodable data
(R377). -/
def State.makeSector (s : State) (line : Nat) (new : List (Option Byte)) (bad : Bool) : State :=
  let pa := 128 * line
  if inTables pa then
    { s with mem := memPatch s.mem pa new }
  else
    let st := line / 4
    let s := s.initPage (st / 128)
    let er := s.erasures st
    let er := if 2 < er.length then [] else er
    let s := if er.isEmpty then { s with mem := memPatch s.mem pa new }
      else s.stripeWriteBytes er st (128 * (line % 4)) ((new.zipIdx).map fun e => match e.1 with
        | some v => v
        | none => s.stripeByte er st (128 * (line % 4) + e.2))
    let s := (List.range 4).foldl (fun s k => s.clearChunkFault st (4 * (line % 4) + k)) s
    let old := s.res.poisonLines.filter (· ≠ line)
    { s with res := { s.res with poisonLines := if bad then line :: old else old } }.send st

/-- The progress of a page in STATE 2 after one more full block (R416). -/
def State.lostProgress (s : State) (st : Nat) : State :=
  let n := st / 128
  let e := s.ppa n
  if ppaState e = 2 then
    let done := (st % 128) :: (s.res.lost.read [] n).filter (· ≠ st % 128)
    if done.length = 128 then
      let s := s.setPpa n (ppaWithState e 0)
      { s with res := { s.res with lost := s.res.lost.erase n } }
    else { s with res := { s.res with lost := s.res.lost.put n done } }
  else s

/-- A write of the whole 512-byte block as its controller makes it (R415): P and Q are computed anew, and the poison entry is
cleared (R416). -/
def State.makeBlock (s : State) (st : Nat) (data : Bytes) : State :=
  let s := s.initPage (st / 128)
  let s := { s with
    mem := memWrite s.mem (512 * st) data
    res := { s.res with
      s0 := s.res.s0.keep fun k _ => decide (k / 32 ≠ st)
      s1 := s.res.s1.keep fun k _ => decide (k / 32 ≠ st)
      chunkFault := s.res.chunkFault.keep fun k _ => decide (k / 32 ≠ st)
      poison := s.res.poison.filter (· ≠ st)
      poisonLines := s.res.poisonLines.filter fun l => decide (l / 4 ≠ st) } }
  (s.lostProgress st).send st

/-- Whether a write of some chunks of a stripe touches a channel under repair, or comes behind a write of the stripe that one
holds: it is held at the stripe controller until the repair ends (R417, R428). -/
def State.underRepair (s : State) (st : Nat) (chunks : List Nat) : Bool :=
  s.res.heldW.any (fun w => decide (w.st = st)) ||
    (s.res.chans.any (fun e => decide (e.2.st = .repair)) &&
      chunks.any fun p => decide ((s.chan (s.home (st / 128) p).1).st = .repair))

/-- The chunks that a write of a sector touches: its own four, P and Q (R415). -/
def sectorChunks (k : Nat) : List Nat := [4 * k, 4 * k + 1, 4 * k + 2, 4 * k + 3, 16, 17]

/-- Holds a write at its stripe controller (R428). -/
def State.holdWrite (s : State) (w : HeldWrite) : State := { s with res := { s.res with heldW := s.res.heldW ++ [w] } }

/-- A sector write arrives at its stripe controller (R415, R428). -/
def State.writeSector (s : State) (line : Nat) (new : List (Option Byte)) (bad : Bool) : State :=
  if !inTables (128 * line) && s.underRepair (line / 4) (sectorChunks (line % 4)) then
    s.holdWrite ⟨line / 4, some (line % 4), new, bad⟩
  else s.makeSector line new bad

/-- A write of a whole block arrives at its stripe controller (R415, R428). -/
def State.writeBlock (s : State) (st : Nat) (data : Bytes) : State :=
  if s.underRepair st (List.range 18) then s.holdWrite ⟨st, none, data.map some, false⟩ else s.makeBlock st data

/-- The writes that a repair has held, in their order of arrival (R428); another repair may hold some on. -/
def State.releaseWrites (s : State) : State :=
  s.res.heldW.foldl (fun s w => match w.sector with
    | some k => s.writeSector (4 * w.st + k) w.bytes w.bad
    | none => s.writeBlock w.st (w.bytes.map fun b => b.getD 0#8)) { s with res := { s.res with heldW := [] } }

/-- The channel whose controller is a stripe's controller (R413). -/
def State.controllerOf (s : State) (st : Nat) : Nat :=
  let er := s.erasures st
  (s.home (st / 128) (([16, 17] ++ List.range 16).find? (fun p => !er.contains p) |>.getD 16)).1

/-- A write that was on its way when its controller's channel was dropped is made again by the new controller: P and Q are
computed from all 16 data chunks, the erased ones decoded (R415). -/
def State.resendStripe (s : State) (st : Nat) : State :=
  let er := s.erasures st
  if 2 < er.length ∨ s.res.poison.contains st then s
  else
    (List.range 32).foldl (fun (s : State) b =>
      let k := 32 * st + b
      let s0 := s.res.s0.read 0#8 k
      let s1 := s.res.s1.read 0#8 k
      { s with
        mem := (List.range 16).foldl (fun m i =>
          let a := 512 * st + 32 * i + b
          memSet m a (memByte m a ^^^ decodeDiff er s0 s1 i)) s.mem
        res := { s.res with s0 := s.res.s0.write 0#8 k 0#8, s1 := s.res.s1.write 0#8 k 0#8 } }) s

/-- Enters a stripe in the poison table, or sets its page to STATE 2 when the table is full (R416). -/
def State.poisonStripe (s : State) (st : Nat) : State :=
  if s.res.poison.contains st then s
  else if s.res.poison.length < 4096 then { s with res := { s.res with poison := s.res.poison ++ [st] } }
  else
    let n := st / 128
    let s := s.setPpa n (ppaWithState (s.ppa n) 2)
    { s with res := { s.res with lost := s.res.lost.erase n } }

/-- The bucket of a virtual address: Fold12(VA[51:9]) (R180). -/
def bucketOf (va : Nat) : Nat := foldBits 12 4 (va / 512)

/-- The slice that owns a bucket (R422). -/
def State.sliceOfBucket (s : State) (b : Nat) : Nat :=
  match s.res.map.read 0 b with
  | 0 => 3 * b / 32
  | n + 1 => n

/-- The home slice of a virtual address (R180). -/
def State.homeSlice (s : State) (va : Nat) : Nat := s.sliceOfBucket (bucketOf va)

/-- The translation home of a virtual address: Fold12(VA[51:25]) (R177). -/
def State.transHome (s : State) (va : Nat) : Nat := s.sliceOfBucket (foldBits 12 3 (va / 2 ^ 25))

/-- The 16 bytes of an entry of the charge table (R426). -/
def Charge.bytes (c : Charge) : Bytes := leBytes 4 (c.channel + 2 ^ 9 * c.slot + 2 ^ 31) ++ leBytes 4 c.count ++ leBytes 8 c.last

/-- A byte of the charge table (R426). DESIGN CHOICE (unsafe, log 117): an entry that is not in use reads as 0. -/
def Resil.chargeByte (r : Resil) (o : Nat) : Byte :=
  match r.charges.find? fun c => c.entry = o / 16 with
  | some c => c.bytes.getD (o % 16) 0#8
  | none => 0#8

/-- The bytes that a linear load reads: none when they cannot be decoded (R173). Bytes of device tables whose layout
the spec does not give are free values (notes/assumptions/12.md). -/
def State.linearByte (s : State) (a : Nat) : Option Byte :=
  let o := a - Config.reservedBase
  if inTables a && (decide (0x5008000 ≤ o) && decide (o < 0x5020C00) || decide (0x502FFFF < o)) then
    some (BitVec.ofNat 8 (Config.freeNat a))
  else if inTables a && decide (0x5020C00 ≤ o) then some (s.res.chargeByte (o - 0x5020C00))
  else
    match s.readSector (a / 128) with
    | none => none
    | some bs => bs[a % 128]?

end Sys2Proof.Machine
end

