-- ==== Sys2Proof/Machine/SysReg.lean ====
section
/-! DEFINITION. The system registers by number: reset values, writable bits, and which exist once per core
(R6, R93, R94, R168, R181, R184, R210, R253, R288, R343, R394 to R396, R430, R437 to R449, R457). -/
namespace Sys2Proof.Machine

/-- The reset value of a stored register; 0 where its table gives 0 and for unassigned numbers. -/
def sysReset (n : Nat) : Dword :=
  if n = 0x100 then 0x0000555580000000#64        -- BANK_MODE: 15 FIFO, 16 to 23 scratch
  else if n = 0x120 then 0x13#64                 -- PICK_CTL
  else if n = 0x130 then 0x27#64                 -- MAT_CTL
  else if n = 0x400 then 0x83#64                 -- MAINT_CTL
  else if n = 0x401 then 0x831#64                -- SCRUB_CTL
  else if n = 0x403 then 0x20#64                 -- REBUILD_CTL
  else if n = 0x500 then 0x41008#64              -- NET_CTL
  else if n = 0x502 then 0xFFFF#64               -- DEVID
  else if n = 0x520 then 0x11#64                 -- REED_CTL
  else if n = 0x560 then 0x19#64                 -- REGION_CTL
  else if n = 0x700 then 0x00030003#64           -- FEAT
  else if n = 0x704 then 3200#64                 -- PWR_LIMIT
  else 0#64

/-- Bits [hi:lo] set. -/
def bitRange (hi lo : Nat) : Nat := 2 ^ (hi + 1) - 2 ^ lo

/-- The bits that a write sets (R6): RW fields only. -/
def sysWritable (n : Nat) : Nat :=
  if n = 0x120 then bitRange 5 0
  else if 0x126 ≤ n ∧ n ≤ 0x12A then bitRange 63 0
  else if n = 0x130 then bitRange 6 0
  else if 0x132 ≤ n ∧ n ≤ 0x139 then bitRange 63 0
  else if n = 0x210 then bitRange 51 2
  else if n = 0x211 then bitRange 27 1 - 2 ^ 25
  else if n = 0x220 ∨ n = 0x300 ∨ n = 0x501 then bitRange 40 12
  else if n = 0x221 then bitRange 6 0
  else if n = 0x224 then bitRange 63 0
  else if 0x340 ≤ n ∧ n < 0x380 then
    (if n % 4 = 2 then bitRange 35 0 else if n % 4 = 3 then 0 else bitRange 39 7)
  else if n = 0x400 then bitRange 10 0
  else if n = 0x401 then bitRange 16 0
  else if n = 0x403 then bitRange 7 0
  else if n = 0x500 then bitRange 23 0
  else if n = 0x502 then bitRange 15 0
  else if n = 0x520 then bitRange 7 0
  else if n = 0x560 then bitRange 4 0
  else if n = 0x561 then bitRange 63 33
  else if 0x580 ≤ n ∧ n ≤ 0x591 then 8 + bitRange 27 12
  else if 0x5C0 ≤ n ∧ n < 0x600 then (if n % 4 = 3 then 7 + bitRange 63 16 else bitRange 51 16)
  else if n = 0x600 then bitRange 3 0 + bitRange 63 16
  else if 0x610 ≤ n ∧ n ≤ 0x61F then 1 + bitRange 51 2
  else if n = 0x700 then bitRange 33 16
  else if n = 0x702 ∨ n = 0x704 then bitRange 11 0
  else if n = 0x703 then 8
  else if n = 0x706 then bitRange 10 1
  else if 0x7C0 ≤ n ∧ n < 0x800 then
    (if n % 4 = 2 then bitRange 63 16 else if n % 4 = 3 then 7 + bitRange 31 16 else bitRange 51 16)
  else 0

/-- Registers that every core has for itself (R94, R168, R184, R253). -/
def sysPerCore (n : Nat) : Bool := decide (0x100 ≤ n ∧ n < 0x140) || decide (n = 0x520)

/-- A core (R22). -/
def State.core (s : State) (c : Nat) : Core := s.cores.read Core.init c

/-- Replaces a core. -/
def State.setCore (s : State) (c : Nat) (x : Core) : State := { s with cores := s.cores.put c x }

/-- The stored value of a device-wide register. -/
def State.sysv (s : State) (n : Nat) : Nat := (s.sys.read (sysReset n) n).toNat

/-- The stored value of a register of a core. -/
def Core.sysv (c : Core) (n : Nat) : Nat := (c.sys.read (sysReset n) n).toNat

/-- The stored value with the writable bits replaced (R6). -/
def sysMerge (n old v : Nat) : Dword :=
  let m := sysWritable n
  BitVec.ofNat 64 ((old &&& (2 ^ 64 - 1 - m)) ||| (v &&& m))

/-- Stores a device-wide register, RW bits only. -/
def State.setSys (s : State) (n v : Nat) : State :=
  { s with sys := s.sys.write (sysReset n) n (sysMerge n (s.sysv n) v) }

/-- Stores a register of a core, RW bits only. -/
def Core.setSys (c : Core) (n v : Nat) : Core :=
  { c with sys := c.sys.write (sysReset n) n (sysMerge n (c.sysv n) v) }

/-- The mode of a bank (R184): 0 cache, 1 scratch, 2 FIFO. -/
def Core.bankMode (c : Core) (j : Nat) : Nat := bitsOf (c.sysv 0x100) (2 * j) 2

/-- The banks of a mode, ascending. -/
def Core.banksIn (c : Core) (m : Nat) : List Nat := (List.range 24).filter fun j => c.bankMode j = m

/-- Sets the mode of the banks of a mask (R184, R207). -/
def Core.setMode (c : Core) (mask m : Nat) : Core :=
  let v := (List.range 24).foldl (fun v j => if bitOf mask j then v - bitsOf v (2 * j) 2 * 4 ^ j + m * 4 ^ j else v)
    (c.sysv 0x100)
  { c with sys := c.sys.write (sysReset 0x100) 0x100 (BitVec.ofNat 64 v) }

/-- DEV_STAT.PHASE as stored (R447). -/
def State.phase (s : State) : Nat := bitsOf (s.sysv 0x703) 0 3

/-- Stores a whole register value, RO fields included: the device's own write. -/
def State.forceSys (s : State) (n v : Nat) : State :=
  { s with sys := s.sys.write (sysReset n) n (BitVec.ofNat 64 v) }

/-- Sets DEV_STAT.PHASE. -/
def State.setPhase (s : State) (p : Nat) : State := s.forceSys 0x703 (s.sysv 0x703 / 8 * 8 + p)

end Sys2Proof.Machine
end

