-- ==== Sys2Proof/Machine/Vm.lean ====
section
/-! DEFINITION. Translation, permissions, view apertures and the L2 as programs see it
(07_memory.md, R171 to R183, R209, R468; R442, R457). -/
namespace Sys2Proof.Machine

-- Events of the management plane ----------------------------------------------------------------------------------

/-- Raises an MSI-X vector (R437). -/
def State.msix (s : State) (v : Nat) : State := { s with mgmt := { s.mgmt with msix := s.mgmt.msix ++ [v] } }

/-- Unit numbers of the health table, in its order (R446). -/
def unitCore (c : Nat) : Nat := 3 + c
/-- The unit of a channel. -/
def unitChannel (c : Nat) : Nat := 303 + c
/-- The unit of a slice. -/
def unitSlice (c : Nat) : Nat := 687 + c
/-- The unit of a Mirmar link. -/
def unitLink (n : Nat) : Nat := 1071 + n
/-- The unit of a bridge port: 32 × interface + stop. -/
def unitBridge (n : Nat) : Nat := 1089 + n
/-- The unit of the batten. -/
def unitBatten : Nat := 1185
/-- The unit of the device scheduler. -/
def unitScheduler : Nat := 1186

/-- Counts an event at a unit and logs its record (R446, R455); grade B or worse raises vector 1 (R437). -/
def State.logEvent (s : State) (unit : Option Nat) (r : FaultRec) : State :=
  let m := s.mgmt
  let m := { m with log := m.log ++ [r] }
  let m := match unit with
    | none => m
    | some u =>
      let x := m.units.read UnitRec.init u
      { m with units := m.units.put u { x with
          aEvents := x.aEvents + b2n (decide (r.grade = 1))
          bEvents := x.bEvents + b2n (decide (r.grade = 2))
          worst := Nat.max x.worst r.grade } }
  let s := { s with mgmt := m }
  if 2 ≤ r.grade then s.msix 1 else s

/-- An event that arises in no group (R455). -/
def eventRec (grade word va : Nat) : FaultRec := ⟨0, grade, 3, 0xFF, false, false, word, 0xFFFFFFFF, 0, 0, va⟩

/-- A stripe that is left with an undecodable chunk is entered in the poison table, a grade-C event (R416, R455); a page
in STATE 2 or 3 and a stripe that is entered already are left. `pos` is the lowest position found, if one is known. -/
def State.poisonEvent (s : State) (st : Nat) (pos : Option Nat) : State :=
  if s.res.poison.contains st ∨ 2 ≤ ppaState (s.ppa (st / 128)) then s
  else
    let (ch, p) := match pos with
      | some p => ((s.home (st / 128) p).1, p)
      | none => (0x1FF, 0)
    (s.poisonStripe st).logEvent none (eventRec 3 (2 ^ 28 + ch + 2 ^ 9 * p) (512 * st))
/-- A stripe with more than two erasures cannot be decoded (R406, R416). -/
def State.noteStripe (s : State) (st : Nat) : State :=
  let er := s.erasures st
  if 2 < er.length then s.poisonEvent st er.head? else s

/-- Reads of chunks that the stack reports as uncorrectable (R417, R432): they count against their channel, and a fault of
kind 1 is spent. -/
def State.readFaults (s : State) (st : Nat) : State :=
  (List.range 18).foldl (fun s p =>
    let k := 32 * st + p
    let f := s.res.chunkFault.read 0 k
    if f = 0 then s
    else
      let (ch, sl) := s.home (st / 128) p
      let c := s.chan ch
      let s := s.setChan ch { c with uncorr := sl :: c.uncorr.filter (· ≠ sl) }
      if f = 1 then s.clearChunkFault st p else s) s

/-- What the read of a sector leaves behind (R414, R416, R417): a stripe that cannot be decoded is noted, and a degraded read
meets the faults that the stack reports. -/
def State.noteRead (s : State) (line : Nat) : State :=
  if inTables (128 * line) || ppaState (s.ppa (line / 512)) = 3 then s
  else
    let s' := s.noteStripe (line / 4)
    if s.degraded line then s'.readFaults (line / 4) else s'

/-- What the reads of some sectors leave behind. -/
def State.noteReads (s : State) (lines : List Nat) : State := lines.foldl State.noteRead s

-- Translation -----------------------------------------------------------------------------------------------------

/-- Where an address of an address space leads. -/
inductive Xlate where
  /-- a physical address, with the leaf's marks -/
  | mem (pa : Nat) (m : Marks)
  /-- a view aperture and the offset in it (R209) -/
  | view (ap off : Nat) (m : Marks)
  /-- a peer window: device, its address space, its address (R457) -/
  | peer (dev asid va : Nat)
  /-- a handover entry: the host bus address (R442) -/
  | host (addr : Nat)
  /-- a fault: cause code and cause-specific word (R176) -/
  | fail (cause word : Nat)
  deriving DecidableEq, Repr

/-- PAGE_FAULT, PROTECTION, VIEW_WRITE, POISON (R389). -/
def causePage : Nat := 0x08
/-- PROTECTION (R389). -/
def causeProt : Nat := 0x09
/-- VIEW_WRITE (R389). -/
def causeView : Nat := 0x0A
/-- POISON (R389). -/
def causePoison : Nat := 0x14

/-- Eight bytes of device memory at a physical address: none when they cannot be decoded. -/
def State.readPhys8 (s : State) (pa : Nat) : Option Nat :=
  (s.readSector (pa / 128)).map fun bs => leNat ((bs.drop (pa % 128)).take 8)

/-- The fields of an entry that must be 0 (R176). -/
def entryReserved (e : Nat) : Bool := decide (bitsOf e 5 7 ≠ 0) || decide (bitsOf e 41 23 ≠ 0)

/-- The walk from level `l` of the table at `table` (R175, R176): the leaf's level and entry, or a fault. -/
def State.walk (s : State) (va : Nat) : Nat → Nat → Except (Nat × Nat) (Nat × Nat)
  | 0, _ => .error (causePage, 4)
  | l + 1, table =>
    match s.readPhys8 (table + 8 * bitsOf va (16 + 9 * l) 9) with
    | none => .error (causePoison, 0)
    | some e =>
      if !bitOf e 0 then .error (causePage, l)
      else if entryReserved e then .error (causePage, l + 4)
      else if bitOf e 1 then
        if l = 3 ∨ bitsOf e 12 (4 + 9 * l) ≠ 0 then .error (causePage, l + 4) else .ok (l, e)
      else if l = 0 ∨ bitOf e 40 then .error (causePage, l + 4)
      else State.walk s va l (bitsOf e 12 28 * 4096)

/-- The ASID-table entry and the walk under it (R174). -/
def State.walkAsid (s : State) (asid va : Nat) : Except (Nat × Nat) (Nat × Nat) :=
  match s.readPhys8 (s.sysv 0x300 + 8 * asid) with
  | none => .error (causePoison, 0)
  | some e =>
    if !bitOf e 0 then .error (causePage, 11)
    else if bitsOf e 1 11 ≠ 0 ∨ bitsOf e 41 23 ≠ 0 then .error (causePage, 15)
    else s.walk va 4 (bitsOf e 12 29 * 4096)

/-- The entries that a walk reads, as physical addresses: those of the tables from level `l` on (R175). -/
def State.walkReads (s : State) (va : Nat) : Nat → Nat → List Nat
  | 0, _ => []
  | l + 1, table =>
    let at' := table + 8 * bitsOf va (16 + 9 * l) 9
    at' :: (match s.readPhys8 at' with
      | none => []
      | some e => if !bitOf e 0 || entryReserved e || bitOf e 1 then [] else State.walkReads s va l (bitsOf e 12 28 * 4096))

/-- What the reads of a walk leave behind at their stripes. -/
def State.noteWalk (s : State) (asid va : Nat) : State :=
  let root := s.sysv 0x300 + 8 * asid
  s.noteReads ((root :: (match s.readPhys8 root with
    | none => []
    | some e => if !bitOf e 0 then [] else s.walkReads va 4 (bitsOf e 12 29 * 4096))).map (· / 128))

/-- Whether a TLB entry serves an address (R177). -/
def TlbEntry.covers (t : TlbEntry) (asid va : Nat) : Bool :=
  decide (t.asid = asid) && decide (t.base = if t.level = 0 then va / 2 ^ 16 else va / 2 ^ 25)

/-- The leaf for an address: from the TLB of its translation home, else from the tables (R177). -/
def State.leaf (s : State) (asid va : Nat) : Except (Nat × Nat) (Nat × Nat) :=
  match s.tlb.find? fun t => t.slice = s.transHome va ∧ t.covers asid va with
  | some t => .ok (t.level, t.leaf.toNat)
  | none => s.walkAsid asid va

/-- Keeps the leaf of a walk in the TLB of the translation home: 2,048 entries a slice, the oldest displaced
(R177). -/
def State.tlbFill (s : State) (asid va : Nat) : State :=
  let sl := s.transHome va
  if s.tlb.any fun t => decide (t.slice = sl) && t.covers asid va then s
  else
    match s.walkAsid asid va with
    | .error _ => s.noteWalk asid va
    | .ok (l, e) =>
      let s := s.noteWalk asid va
      let base := if l = 0 then va / 2 ^ 16 else va / 2 ^ 25
      let old := if (s.tlb.filter fun t => t.slice = sl).length < 2048 then s.tlb
        else dropFirst (fun t => t.slice = sl) s.tlb
      { s with tlb := old ++ [⟨sl, asid, l, base, BitVec.ofNat 64 e⟩] }

/-- The marks of a leaf (R468). -/
def leafMarks (e : Nat) : Marks := ⟨bitOf e 2, bitOf e 3, bitOf e 4, bitOf e 40⟩

/-- What a leaf allows (R176, R209, R468): a fault for an access that it does not allow. -/
def leafFault (l e : Nat) (wr ex priv : Bool) : Option (Nat × Nat) :=
  let m := leafMarks e
  let ppn := bitsOf e 16 24
  if !m.view && decide (Config.reservedPage ≤ ppn) then some (causeProt, l + 0x40)
  else if m.sys && !priv then some (causeProt, l + 0x30)
  else if wr && m.view then some (causeView, l)
  else if wr && !m.w then some (causeProt, l + 0x10)
  else if ex && !m.x then some (causeProt, l + 0x20)
  else none

/-- The outgoing peer window that holds an address (R457). DESIGN CHOICE (log 163): where enabled windows overlap, the lowest-numbered
one. -/
def State.peerWindow (s : State) (asid va : Nat) : Option Nat :=
  (List.range 16).find? fun n =>
    let ctl := s.sysv (0x5C3 + 4 * n)
    let base := s.sysv (0x5C0 + 4 * n)
    let len := s.sysv (0x5C1 + 4 * n)
    bitOf ctl 0 && !bitOf ctl 2 && decide (bitsOf ctl 16 16 = asid) && decide (base ≤ va) &&
      decide (va < base + len)

/-- The handover entry that holds an address (R442). -/
def State.handover (s : State) (asid va : Nat) : Option Nat :=
  (List.range 16).find? fun n =>
    let ctl := s.sysv (0x7C3 + 4 * n)
    let base := s.sysv (0x7C0 + 4 * n)
    let len := s.sysv (0x7C1 + 4 * n)
    bitOf ctl 0 && decide (bitsOf ctl 16 16 = asid) && decide (base ≤ va) && decide (va < base + len)

/-- Translation of an access: peer windows, then handover entries, then the tables (R177, R442, R457, R468). -/
def State.translate (s : State) (asid va : Nat) (wr ex priv : Bool) : Xlate :=
  match s.peerWindow asid va with
  | some n =>
    let ctl := s.sysv (0x5C3 + 4 * n)
    if wr && !bitOf ctl 1 then .fail causeProt 0x60
    else .peer (bitsOf ctl 32 16) (bitsOf ctl 48 16) (s.sysv (0x5C2 + 4 * n) + (va - s.sysv (0x5C0 + 4 * n)))
  | none =>
    match s.handover asid va with
    | some n =>
      let ctl := s.sysv (0x7C3 + 4 * n)
      if !bitOf ctl 1 || !bitOf (s.sysv 0x700) 33 || (wr && !bitOf ctl 2) then .fail causeProt 0x50
      else .host (s.sysv (0x7C2 + 4 * n) + (va - s.sysv (0x7C0 + 4 * n)))
    | none =>
      match s.leaf asid va with
      | .error (c, w) => .fail c w
      | .ok (l, e) =>
        match leafFault l e wr ex priv with
        | some (c, w) => .fail c w
        | none =>
          let size := 2 ^ (16 + 9 * l)
          let off := va % size
          if bitOf e 40 then .view (bitsOf e 36 4) (bitsOf e 12 24 * 4096 + off) (leafMarks e)
          else .mem (bitsOf e 12 28 * 4096 + off) (leafMarks e)

/-- The 4 bits of element `e` in bit-plane storage (R295), from a byte reader. -/
def planeNibble (rd : Nat → Option Byte) (e : Nat) : Option Nat :=
  let q := e / 128
  let j := e % 128
  match rd (64 * q + j / 8), rd (64 * q + 16 + j / 8), rd (64 * q + 32 + j / 8), rd (64 * q + 48 + j / 8) with
  | some a, some b, some c, some d =>
    some (b2n (a.toNat.testBit (j % 8)) + 2 * b2n (b.toNat.testBit (j % 8)) + 4 * b2n (c.toNat.testBit (j % 8)) +
      8 * b2n (d.toNat.testBit (j % 8)))
  | _, _, _, _ => none

/-- One decoded byte of a view at offset `o` (R210): none when the source cannot be decoded. DESIGN CHOICE (log 167): a source or a
scale address in the reserved region or beyond the placed pages is read as a linear load reads it, without a fault. -/
def State.viewByte (s : State) (ap o : Nat) : Option Byte :=
  let src := s.sysv (0x340 + 4 * ap)
  let scale := s.sysv (0x341 + 4 * ap)
  let fmt := bitsOf (s.sysv (0x342 + 4 * ap)) 1 3
  let rd := fun a => s.linearByte (src + a)
  let tw := fun (v : Val) => (s.linearByte (scale + o / 32)).map fun k =>
    BitVec.ofNat 8 (tw8Round 0 0 (scaledVal k.toNat v))
  match fmt with
  | 0 => rd o
  | 1 => (planeNibble rd o).bind fun x => tw (Fmt.e2m1.decode x)
  | 2 => (planeNibble rd o).map fun x => BitVec.ofInt 8 (sext 4 x)
  | 3 => (rd (o / 2)).bind fun x => tw (Fmt.e2m1.decode (bitsOf x.toNat (4 * (o % 2)) 4))
  | _ => (rd o).bind fun x => tw (Fmt.e4m3.decode x.toNat)

/-- The lines of device memory that a decoded line of a view comes from (R210). -/
def State.viewSpots (s : State) (ap off : Nat) : List Nat :=
  let src := s.sysv (0x340 + 4 * ap)
  let scale := s.sysv (0x341 + 4 * ap)
  let fmt := bitsOf (s.sysv (0x342 + 4 * ap)) 1 3
  let o := off / 128 * 128
  let data := if fmt = 1 ∨ fmt = 2 ∨ fmt = 3 then [src + o / 2, src + o / 2 + 63] else [src + o, src + o + 127]
  let scales := if fmt = 0 ∨ fmt = 2 then [] else [scale + o / 32, scale + o / 32 + 3]
  ((data ++ scales).map (· / 128)).eraseDups

/-- Whether a view serves an offset: in service, a format that exists, within its size (R209, R210). -/
def State.viewOk (s : State) (ap off : Nat) : Bool :=
  let ctl := s.sysv (0x342 + 4 * ap)
  bitOf ctl 0 && decide (bitsOf ctl 1 3 ≤ 4) && decide (off < 128 * bitsOf ctl 4 32)

/-- 128 decoded bytes of a view (R209). -/
def State.viewLine (s : State) (ap off : Nat) : Option Bytes :=
  let bs := (List.range 128).map fun k => s.viewByte ap (off / 128 * 128 + k)
  if bs.any (·.isNone) then none else some (bs.map fun b => b.getD 0#8)

/-- The key of a cached line: ASID and VA over 128. -/
def lineKey (asid line : Nat) : Nat := asid * 2 ^ 45 + line

/-- The L2 line of a key. -/
def State.l2Line (s : State) (k : Nat) : Line := s.l2.read Line.absent k

/-- Replaces an L2 line. -/
def State.setL2 (s : State) (k : Nat) (l : Line) : State := { s with l2 := s.l2.put k l }

/-- The bytes of a line as a list. -/
def Line.data (l : Line) : Bytes := Tab.slice 0#8 l.bytes 0 128

/-- A line with these bytes. -/
def Line.ofBytes (bs : Bytes) (m : Marks) (ret : Nat) (poison : Bool) : Line :=
  ⟨true, Tab.writeFrom 0#8 [] 0 bs, false, some m, ret, poison⟩

/-- What the home slice answers to an access: the line with its bytes, somewhere else, or a fault. `s'` has the TLB
entry, the marks and the filled line. -/
inductive Fetch where
  | line (s' : State) (l : Line)
  | ext (x : Xlate)
  | fail (cause word : Nat)
  deriving Repr

/-- The level of an address's leaf, for a fault's word. -/
def State.leafLevel (s : State) (asid va : Nat) : Nat :=
  match s.leaf asid va with
  | .ok (l, _) => l
  | .error _ => 0

/-- A line goes to its sector; what could not be decoded stays so (R377, R416). -/
def State.sectorOut (s : State) (sector : Nat) (l : Line) : State :=
  s.writeSector sector (l.data.map some) l.poison

/-- Whether a repair holds a write of the block of a line, or would hold its write-back (R428). -/
def State.repairHolds (s : State) (key : Nat) : Bool :=
  let dirty := (List.range 4).filter fun i => (s.l2Line (key / 4 * 4 + i)).dirty
  match s.translate (key / 2 ^ 45) (512 * (key % 2 ^ 45 / 4)) false false true with
  | .mem pa _ => s.underRepair (pa / 512) (dirty.flatMap sectorChunks)
  | _ => false

/-- The dirty sectors of the 512-byte block of a line go to the channels, a full block when all four are dirty
(R415, STRIPE_WRITE). Lines whose translation fails stay dirty. -/
def State.writeBack (s : State) (key : Nat) : State :=
  let asid := key / 2 ^ 45
  let block := key % 2 ^ 45 / 4
  let lines := (List.range 4).map fun i => 4 * block + i
  let dirty := lines.filter fun l => (s.l2Line (lineKey asid l)).dirty
  match s.translate asid (512 * block) false false true with
  | .mem pa _ =>
    let s := if dirty.length = 4 ∧ !(lines.any fun l => (s.l2Line (lineKey asid l)).poison) then
        s.writeBlock (pa / 512) (lines.foldl (fun b l => b ++ (s.l2Line (lineKey asid l)).data) [])
      else dirty.foldl (fun s l => s.sectorOut (pa / 128 + l % 4) (s.l2Line (lineKey asid l))) s
    dirty.foldl (fun s l => s.setL2 (lineKey asid l) { s.l2Line (lineKey asid l) with dirty := false }) s
  | _ => s

/-- Removes a line from the L2. -/
def State.dropL2 (s : State) (k : Nat) : State := { s with l2 := s.l2.erase k }

/-- The set in which the stripe block of a line lies: slice, and set of its slice (R267). -/
def State.setOf (s : State) (key : Nat) : Nat × Nat := (s.homeSlice (128 * (key % 2 ^ 45)), Config.l2Set (key / 4) % 192)

/-- Version ways in use of the set that holds a line's stripe block (R267). -/
def State.versionWays (s : State) (key : Nat) : Nat :=
  (s.batten.versions.filter fun v => s.setOf v.key = s.setOf key).length

/-- How willingly a stripe block is replaced (R183): 0 next victim, 1 normal, 2 sticky. -/
def State.blockRank (s : State) (b : Nat) : Nat :=
  let rets := (List.range 4).map fun i => (s.l2Line (4 * b + i)).ret
  if rets.contains 1 then 0 else if rets.contains 2 then 2 else 1

/-- The other sectors of a line's block lose the preference that the line itself has lost to a write (R180, R183). -/
def State.losePref (s : State) (key : Nat) : State :=
  { s with l2 := s.l2.map fun e => if e.1 / 4 = key / 4 then (e.1, { e.2 with ret := 0 }) else e }

/-- The blocks of a line's set among which the next victim lies: those replaced most willingly (R183). -/
def State.nextVictims (s : State) (key : Nat) : List Nat :=
  let bs := ((s.l2.map (·.1 / 4)).eraseDups).filter fun b => decide (s.setOf (4 * b) = s.setOf key)
  bs.filter fun b => bs.all fun c => decide (s.blockRank b ≤ s.blockRank c)

/-- Whether the set of a line has no way left (R267): a slice has 192 sets of 16 ways. With fewer than 16 lines and
versions anywhere, none is full. -/
def State.setFull (s : State) (key : Nat) : Bool :=
  !decide (s.l2.length + s.batten.versions.length < 16) &&
    decide (16 ≤ (((s.l2.map (·.1 / 4)).eraseDups).filter fun b => decide (s.setOf (4 * b) = s.setOf key)).length +
      s.versionWays key)

/-- Before dirty sectors of the block of a line are written, a stripe that cannot be decoded is noted (R416). -/
def State.noteBlock (s : State) (k : Nat) : State :=
  match s.translate (k / 2 ^ 45) (512 * (k % 2 ^ 45 / 4)) false false true with
  | .mem pa _ => if (List.range 4).any fun i => (s.l2Line (k / 4 * 4 + i)).dirty then s.noteStripe (pa / 512) else s
  | _ => s

/-- The L2 displaces the block of a line after writing it back; a block that cannot be written back stays
(R180, R415). -/
def State.evict (s : State) : Option Nat → State
  | none => s
  | some k =>
    let s := (s.noteBlock k).writeBack k
    (List.range 4).foldl (fun s i =>
      let j := k / 4 * 4 + i
      if (s.l2Line j).dirty then s else s.dropL2 j) s

/-- The blocks of a line's set from the one replaced most willingly on (R183). -/
def State.victimOrder (s : State) (key : Nat) : List Nat :=
  let bs := ((s.l2.map (·.1 / 4)).eraseDups).filter fun b => decide (s.setOf (4 * b) = s.setOf key)
  (List.range 3).flatMap fun n => bs.filter fun b => decide (s.blockRank b = n)

/-- Makes a way free for the stripe block of a line, or for a version of it (R183, R267): `want` is a line of the block
to displace, if it is one of the next victims; else which of them goes is a free value. A block that cannot be written back,
because its page is no longer mapped or a repair holds it, stays, and the next one goes in its place. -/
def State.makeRoom (s : State) (key : Nat) (want : Option Nat) : State :=
  if !s.setFull key then s
  else
    let vs := s.nextVictims key
    let s := match want.filter fun k => vs.contains (k / 4) with
      | some k => s.evict (some k)
      | none =>
        match vs[Config.freeNat s.free % Nat.max vs.length 1]? with
        | none => s
        | some b => { s with free := s.free + 1 }.evict (some (4 * b))
    (s.victimOrder key).foldl (fun s b => if s.setFull key then s.evict (some (4 * b)) else s) s

/-- Whether some line of the stripe block of a line is in the L2. -/
def State.hasBlock (s : State) (key : Nat) : Bool := (List.range 4).any fun i => (s.l2Line (key / 4 * 4 + i)).present

/-- Whether a region that is committing has locked a line (R276). -/
def State.locked (s : State) (key : Nat) : Bool :=
  s.batten.versions.any fun v => decide (v.key = key) && (match s.batten.slots.read none v.slot with
    | some r => decide (r.st = .committing)
    | none => false)

/-- Puts a line that was read into the L2, unless it is not to be allocated (R180, R183). DESIGN CHOICE: where no block of the
set can leave it, the line is served without a way, as a bypass access is. -/
def State.allocate (s : State) (key ret : Nat) (l : Line) : State :=
  if ret = 3 then s
  else if s.hasBlock key then s.setL2 key l
  else
    let s := s.makeRoom key none
    if s.setFull key then s else s.setL2 key l

/-- The line from behind the L2 (R25 steps 6 and 7): translated, read, decoded. -/
def State.fetchMiss (s : State) (asid line : Nat) (wr ex priv : Bool) (ret : Nat) : Fetch :=
  let va := 128 * line
  match s.translate asid va wr ex priv with
  | .fail c w => .fail c w
  | .mem pa m =>
    let s := s.tlbFill asid va
    let l := match s.readSector (pa / 128) with
      | some bs => Line.ofBytes bs m ret false
      | none => Line.ofBytes (memBytes s.mem pa 128) m ret true
    let s := s.noteRead (pa / 128)
    .line (s.allocate (lineKey asid line) ret l) l
  | .view ap off m =>
    if !s.viewOk ap off then .fail causePage (s.leafLevel asid va)
    else
      let s := s.tlbFill asid va
      let l := match s.viewLine ap off with
        | some bs => Line.ofBytes bs m ret false
        | none => Line.ofBytes [] m ret true
      let s := s.noteReads (s.viewSpots ap off)
      .line (s.allocate (lineKey asid line) ret l) l
  | .peer d a v => .ext (.peer d a v)
  | .host a => .ext (.host a)

/-- Whether marks allow an access (R468). -/
def Marks.allow (m : Marks) (wr ex priv : Bool) : Bool :=
  (priv || !m.sys) && (!ex || m.x) && (!wr || (m.w && !m.view))

/-- An access at the home slice (R25 steps 5 to 7, R468): a hit is checked against the line's marks; a write that
finds W = 0, and an access to a line without marks, are checked at the translation home. `ret` is the access's retention
(R183). -/
def State.fetch (s : State) (asid line : Nat) (wr ex priv : Bool) (ret : Nat) : Fetch :=
  let k := lineKey asid line
  let l := s.l2Line k
  if !l.present then s.fetchMiss asid line wr ex priv ret
  else
    let again := match l.marks with
      | none => true
      | some m => wr && !m.w
    if again then
      match s.translate asid (128 * line) wr ex priv with
      | .fail c w => .fail c w
      | .mem _ m => let l := { l with marks := some m }; .line ((s.tlbFill asid (128 * line)).setL2 k l) l
      | .view _ _ m => let l := { l with marks := some m }; .line ((s.tlbFill asid (128 * line)).setL2 k l) l
      | x => .ext x
    else
      match l.marks with
      | none => .line s l
      | some m =>
        if m.allow wr ex priv then .line s l
        else
          let lv := s.leafLevel asid (128 * line)
          if m.sys && !priv then .fail causeProt (lv + 0x30)
          else if wr && m.view then .fail causeView lv
          else if wr && !m.w then .fail causeProt (lv + 0x10)
          else .fail causeProt (lv + 0x20)

/-- Bytes of a line replaced by a write at the home slice (R215): `new` holds the written bytes by offset. A line that
an access of another retention writes loses its preference (R183). -/
def Line.merge (l : Line) (new : Tab (Option Byte)) (ret : Nat) : Line :=
  { l with
    bytes := new.foldl (fun t e => match e.2 with
      | some v => Tab.write 0#8 t e.1 v
      | none => t) l.bytes
    dirty := true
    ret := if l.ret = ret then ret else 0
    poison := l.poison && !decide (128 ≤ (new.filter fun e => e.2.isSome).length) }

/-- A write that has passed its check goes to the channels without the L2 (R183): the stripe controller merges its bytes,
and a sector that cannot be decoded stays so unless all of it is written (R416). -/
def State.writeThrough (s : State) (asid line : Nat) (l : Line) : State :=
  match s.translate asid (128 * line) false false true with
  | .mem pa _ => (s.noteStripe (pa / 512)).sectorOut (pa / 128) l
  | _ => s

/-- A written line takes its place: in the L2 where it has a way, with the end of its block's preference where an access of
another retention wrote it (R183), else in the channels. -/
def State.putLine (s : State) (asid line : Nat) (l : Line) : State :=
  let key := lineKey asid line
  let old := s.l2Line key
  if old.present then (if old.ret = l.ret then s else s.losePref key).setL2 key l else s.writeThrough asid line l

/-- A write of a line at its home slice, checked under `priv` (R468), with its retention (R183). -/
def State.homeWrite (s : State) (asid line : Nat) (new : Tab (Option Byte)) (priv : Bool) (ret : Nat) : Fetch :=
  match s.fetch asid line true false priv ret with
  | .line s' l =>
    let l := l.merge new ret
    .line (s'.putLine asid line l) l
  | r => r

/-- A line whose bytes nothing gives any more: free values. -/
def State.freeLine (s : State) : Line :=
  Line.ofBytes ((List.range 128).map fun i => BitVec.ofNat 8 (Config.freeNat (s.free + i))) ⟨false, false, false, false⟩ 0 false

/-- A write that has passed its check reaches the line without another one (R276, R287, R468). Where neither the L2 nor a
mapping gives the line's other bytes, they are free values. -/
def State.commitLine (s : State) (key : Nat) (bytes : Tab (Option Byte)) (ret : Nat) : State :=
  let l := s.l2Line key
  if l.present then s.putLine (key / 2 ^ 45) (key % 2 ^ 45) (l.merge bytes ret)
  else
    match s.fetch (key / 2 ^ 45) (key % 2 ^ 45) false false true 0 with
    | .line s' l => s'.putLine (key / 2 ^ 45) (key % 2 ^ 45) (l.merge bytes ret)
    | _ => { s.allocate key 0 (s.freeLine.merge bytes ret) with free := s.free + 128 }

/-- The route-table entry of a device (R342), read by linear access once and then cached. -/
def State.route (s : State) (dev : Nat) : State × Nat :=
  match s.net.routes.read none dev with
  | some e => (s, e)
  | none =>
    let base := s.sysv 0x501 + 4 * dev
    let e := leNat ((List.range 4).map fun i => (s.linearByte (base + i)).getD 0#8)
    ({ s with net := { s.net with routes := s.net.routes.put dev (some e) } }, e)

/-- Whether a Mirmar link carries traffic: trained at full or half width (R343). -/
def State.linkLive (s : State) (n : Nat) : Bool :=
  let st := (s.net.links.read Link.init n).st
  decide (st = 2 ∨ st = 3)

/-- Whether a route to a device remains (R337, R341, R342). -/
def State.peerLive (s : State) (dev : Nat) : State × Bool :=
  let (s, e) := s.route dev
  (s, decide (dev ≠ 0xFFFF) && decide (s.sysv 0x502 ≠ 0xFFFF) && decide (e / 2 ^ 18 = 0) &&
    (List.range 18).any fun n => bitOf e n && s.linkLive n)

/-- The die-to-die interface between two different dies (R327). -/
def interfaceOf (a b : Nat) : Nat := if a + b = 1 then 0 else if a + b = 3 then 1 else 2

/-- The bridge ports of an interface that are in service (R343). -/
def State.bridgeLive (s : State) (i : Nat) : Nat := 2 ^ 32 - 1 - s.net.bridgeDown.read 0 i % 2 ^ 32

/-- Whether a path between two dies remains (R337, R338). -/
def State.diePath (s : State) (a b : Nat) : Bool := decide (a = b) || decide (s.bridgeLive (interfaceOf a b) ≠ 0)

/-- Whether a path from a core to the home slice of an address remains (R337). -/
def State.homePath (s : State) (core va : Nat) : Bool := s.diePath (core / 96) (s.homeSlice va / 128)

/-- Whether a path from a core to the host's port, at die 0's router (0, 7), remains (R13, R337). -/
def State.hostPath (s : State) (core : Nat) : Bool := s.diePath (core / 96) 0

/-- Whether the place outside the device that an address leads to can be reached from a core (R337, R341). -/
def State.extLive (s : State) (core : Nat) : Xlate → State × Bool
  | .peer d _ _ => s.peerLive d
  | _ => (s, s.hostPath core)

/-- Whether the hardware that accesses an address can reach the line's home slice: the hardware of a core; `none` is a request
of another device, which its Mirmar port brings to the slice (R337, R341). -/
def State.lineLive (s : State) (c : Option Nat) (va : Nat) : Bool :=
  match c with
  | some c => s.homePath c va
  | none => true

/-- Whether it can reach a place outside the device (R13, R337, R341). -/
def State.outLive (s : State) (c : Option Nat) (x : Xlate) : State × Bool :=
  match c, x with
  | some c, x => s.extLive c x
  | none, .peer d _ _ => s.peerLive d
  | none, _ => (s, true)

/-- SRC of a core's unit (R329): die, column, row, unit 0. -/
def coreUnit (c : Nat) : Nat := 2 ^ 14 * (c / 96) + 2 ^ 10 * (c % 12) + 2 ^ 7 * (c % 96 / 12)

/-- Who forms a packet: the core, the SLACK of its header, and the group and operation that wait for an answer, if any
(R329). -/
structure Sender where
  core : Nat
  slack : Nat
  by' : Option (Nat × Nat)

/-- What a request to a peer is, beside its place: TYPE, OPERAND, payload, the bits that a merge writes, and the class that a
rule gives it (R303, R306, R317, R329). -/
structure Body where
  typ : Nat
  operand : Bytes
  data : Bytes
  mask : Nat
  cls : Option Nat

/-- A core as the sender of what its hardware writes of itself: the headers bear the ready groups that the core counted last
(R359). -/
def State.hardware (s : State) (c : Nat) : Sender := ⟨c, (s.cores.read Core.init c).slack, none⟩

/-- A request leaves for a peer (R329, R341): its tag is new, and stands until it is answered. DESIGN CHOICE: DST, which no
rule gives for a memory request at another device, and a class that no rule gives are free values. -/
def State.toPeer (s : State) (x : Sender) (dev asid a : Nat) (b : Body) : State :=
  let pkt : OutPkt := ⟨b.typ, Config.freeNat s.free % 2 ^ 16, coreUnit x.core, x.slack, false, s.net.nextTag, dev, s.sysv 0x502 % 65536, a,
    asid, s.res.gen % 4, b.operand, b.data, b.cls.getD (Config.freeNat (s.free + 1) % 4), b.mask, false⟩
  { s with
    free := s.free + 2
    net := { s.net with
      peerOut := s.net.peerOut ++ [pkt], nextTag := (s.net.nextTag + 1) % 2 ^ 32
      tags := s.net.tags ++ (x.by'.map fun k => (pkt, k.1, k.2)).toList } }
/-- A request through the host's port (R442). -/
def State.toBus (s : State) (r : BusReq) : State :=
  { s with net := { s.net with busOut := s.net.busOut ++ [r] } }

/-- The runs of bytes of a line, each at its offset. -/
def runsOf (t : Tab (Option Byte)) : List (Nat × Bytes) :=
  t.foldl (fun r e => match e.2, r.getLast? with
    | none, _ => r
    | some b, some (o, bs) => if o + bs.length = e.1 then r.dropLast ++ [(o, bs ++ [b])] else r ++ [(e.1, [b])]
    | some b, none => [(e.1, [b])]) []

/-- The bytes of one line leave for a place outside the device that its address leads to, run by run (R341, R442). -/
def State.sendLine (s : State) (x : Sender) (bytes : Tab (Option Byte)) : Xlate → State
  | .peer d as va => (runsOf bytes).foldl (fun s r => s.toPeer x d as (va + r.1) ⟨0x03, [], r.2, 255, none⟩) s
  | .host a => (runsOf bytes).foldl (fun s r => s.toBus ⟨.store, a + r.1, r.2.length, r.2, 255⟩) s
  | _ => s

/-- A read of `n` bytes at an offset of a line, or an atomic with its operand, leaves for the place outside the device that the
line's address leads to (R241, R341, R442). DESIGN CHOICE: OPERAND of a peer's read or atomic, whose layout no rule gives,
holds free values. -/
def State.sendRead (s : State) (x : Sender) (k : PeerKind) (o n : Nat) (data : Bytes) : Xlate → State
  | .peer d as va =>
    { s with free := s.free + 37 }.toPeer x d as (va + o)
      ⟨if k = PeerKind.load then 0x01 else 0x03, (List.range 37).map fun i => BitVec.ofNat 8 (Config.freeNat (s.free + i)), data, 255, none⟩
  | .host a => s.toBus ⟨k, a + o, n, data, 255⟩
  | _ => s

/-- What comes back from outside the device for a read of `n` bytes by the hardware itself: free bytes, from a host memory and
from a peer that admits the read; else, as a free value, the peer's refusal or undecodable data (R458). -/
def State.outsideBytes (s : State) (n : Nat) (x : Xlate) : Except (Nat × Nat) (State × Bytes) :=
  let no := match x with
    | .peer _ _ _ => Config.freeNat s.free % 3
    | _ => 0
  if no = 1 then .error (causeProt, 0x70)
  else if no = 2 then .error (causePoison, 0)
  else .ok ({ s with free := s.free + n + 1 }, (List.range n).map fun i => BitVec.ofNat 8 (Config.freeNat (s.free + i + 1)))

/-- A read by the hardware itself of `n` bytes within one line: the bytes, or the fault (POISON for undecodable
data). `c` is the core whose hardware reads. Addresses outside the device give free values (notes/assumptions/9.md); POISON
where no path or route is left (R13, R337, R341). -/
def State.readLine (s : State) (c : Option Nat) (asid va n : Nat) (priv : Bool) : Except (Nat × Nat) (State × Bytes) :=
  if !s.lineLive c va then .error (causePoison, 0)
  else
  match s.fetch asid (va / 128) false false priv 0 with
  | .fail c w => .error (c, w)
  | .line s' l =>
    if l.poison then .error (causePoison, 0)
    else .ok (s', Tab.slice 0#8 l.bytes (va % 128) n)
  | .ext x =>
    let (s, live) := s.outLive c x
    if live then (s.sendRead (s.hardware (c.getD 0)) .load (va % 128) n [] x).outsideBytes n x else .error (causePoison, 0)

/-- A read of bytes line by line: `fuel` lines at most. The fault names the line's address. -/
def State.readSpan (s : State) (c : Option Nat) (asid : Nat) (priv : Bool) :
    Nat → Nat → Nat → Except (Nat × Nat × Nat) (State × Bytes)
  | 0, _, _ => .ok (s, [])
  | f + 1, va, n =>
    if n = 0 then .ok (s, [])
    else
      let m := Nat.min n (128 - va % 128)
      match s.readLine c asid va m priv with
      | .error (c, w) => .error (c, w, va)
      | .ok (s, bs) =>
        match State.readSpan s c asid priv f (va + m) (n - m) with
        | .error e => .error e
        | .ok (s, r) => .ok (s, bs ++ r)

/-- A read of `n` bytes at a virtual address by the hardware of a core. -/
def State.vread (s : State) (c : Option Nat) (asid va n : Nat) (priv : Bool) : Except (Nat × Nat × Nat) (State × Bytes) :=
  s.readSpan c asid priv (n / 128 + 2) va n

/-- Bytes of a line, by offset, for a write of `bs` at `va`. -/
def lineBytes (va : Nat) (bs : Bytes) : Tab (Option Byte) :=
  (bs.zipIdx).map fun e => (va % 128 + e.2, some e.1)

/-- A write by the hardware of a core within one line. Addresses outside the device leave it (R341, R442); where no path or
route is left the write fails with the cause of a dead path (R201, R337). -/
def State.writeLine (s : State) (c : Option Nat) (asid va : Nat) (bs : Bytes) (priv : Bool) : Except (Nat × Nat) State :=
  if !s.lineLive c va then .error (0, 0)
  else
  match s.homeWrite asid (va / 128) (lineBytes va bs) priv 0 with
  | .fail c w => .error (c, w)
  | .line s' _ => .ok s'
  | .ext x =>
    let (s, live) := s.outLive c x
    if live then .ok (s.sendLine (s.hardware (c.getD 0)) (lineBytes va bs) x) else .error (0, 0)

/-- A write of bytes line by line. -/
def State.writeSpan (s : State) (c : Option Nat) (asid : Nat) (priv : Bool) : Nat → Nat → Bytes → Except (Nat × Nat × Nat) State
  | 0, _, _ => .ok s
  | f + 1, va, bs =>
    if bs.isEmpty then .ok s
    else
      let m := 128 - va % 128
      match s.writeLine c asid va (bs.take m) priv with
      | .error (c, w) => .error (c, w, va)
      | .ok s => State.writeSpan s c asid priv f (va + m) (bs.drop m)

/-- A write of bytes at a virtual address by the hardware of a core. -/
def State.vwrite (s : State) (c : Option Nat) (asid va : Nat) (bs : Bytes) (priv : Bool) : Except (Nat × Nat × Nat) State :=
  s.writeSpan c asid priv (bs.length / 128 + 2) va bs

/-- Whether an operation's access in a bucket has not been served. -/
def State.unserved (s : State) (k seq bucket : Nat) : Bool :=
  match (s.groups.read Group.init k).ops.find? fun o => o.seq = seq with
  | none => false
  | some o => o.accs.any fun a => decide (bucketOf a.addr = bucket) && (match a.st with
    | .wait => true
    | .walk => true
    | .degraded _ => true
    | _ => false)

/-- Whether a core's request to an address is held: for a bucket that moves, from a core that uses the next map, until the
handoff (R423 step 3); and behind an access to its bucket that a rehash reply has sent again, until that has been served (R424).
`who` is the group and operation that asks. -/
def State.rehashHolds (s : State) (core va : Nat) (who : Option (Nat × Nat)) : Bool :=
  (match s.res.retiring with
    | none => false
    | some z => decide (s.homeSlice va = z) && s.res.markers.contains core) ||
  s.res.reissued.any fun e => decide (e.1 = core ∧ e.2.1 = bucketOf va) && decide (some e.2.2 ≠ who) &&
    s.unserved e.2.2.1 e.2.2.2 e.2.1

/-- Whether an access from a core to some bytes must wait at a home slice: for a region that has locked a line of them, or for a
bucket that moves (R276, R423). -/
def State.lineBusy (s : State) (core asid va n : Nat) : Bool :=
  (List.range (n / 128 + 2)).any fun i => decide (128 * (va / 128 + i) < va + n) &&
    (s.locked (lineKey asid (va / 128 + i)) || s.rehashHolds core (128 * (va / 128 + i)) none)

/-- TLB invalidation (R178): covered TLB entries go, covered L2 lines lose their marks, covered lines leave every L1.
`t` selects TLB entries; `k` selects line keys. -/
def State.tlbInval (s : State) (t : TlbEntry → Bool) (k : Nat → Bool) : State :=
  { s with
    tlb := s.tlb.filter fun e => !t e
    l2 := s.l2.map fun e => if k e.1 then (e.1, { e.2 with marks := none }) else e
    cores := s.cores.map fun e => (e.1, { e.2 with l1 := e.2.l1.filter fun x => !k x.1 }) }

/-- Scope 0 (R178, R181): one 64 KiB page of one ASID; VA[51:48] is not compared. -/
def State.tlbInvalPage (s : State) (asid vpn : Nat) : State :=
  s.tlbInval
    (fun e => decide (e.asid = asid) &&
      (if e.level = 0 then decide (e.base % 2 ^ 32 = vpn % 2 ^ 32) else decide (e.base % 2 ^ 23 = vpn / 2 ^ 9 % 2 ^ 23)))
    (fun k => decide (k / 2 ^ 45 = asid) && decide (k % 2 ^ 45 / 2 ^ 9 % 2 ^ 32 = vpn % 2 ^ 32))

/-- Scope 1: one 32 MiB region of one ASID. -/
def State.tlbInvalRegion (s : State) (asid r : Nat) : State :=
  s.tlbInval
    (fun e => decide (e.asid = asid) &&
      (if e.level = 0 then decide (e.base / 2 ^ 9 % 2 ^ 23 = r % 2 ^ 23) else decide (e.base % 2 ^ 23 = r % 2 ^ 23)))
    (fun k => decide (k / 2 ^ 45 = asid) && decide (k % 2 ^ 45 / 2 ^ 18 % 2 ^ 23 = r % 2 ^ 23))

/-- Scope 2: every entry of one ASID. -/
def State.tlbInvalAsid (s : State) (asid : Nat) : State :=
  s.tlbInval (fun e => e.asid = asid) (fun k => k / 2 ^ 45 = asid)

/-- Scope 3: every entry. -/
def State.tlbInvalAll (s : State) : State := s.tlbInval (fun _ => true) (fun _ => true)

/-- Whether two ranges of addresses meet, VA[51:48] not compared (R181). -/
def spansMeet (a n b m : Nat) : Bool :=
  decide (0 < n ∧ 0 < m) && (decide ((b + 2 ^ 48 - a % 2 ^ 48) % 2 ^ 48 < n) || decide ((a + 2 ^ 48 - b % 2 ^ 48) % 2 ^ 48 < m))

/-- The TLB_INVAL of an address range, as a write to PWIN_CTL_n and HOV_CTL_n makes it (R181, R442, R457). -/
def State.tlbInvalRange (s : State) (asid base len : Nat) : State :=
  s.tlbInval
    (fun e =>
      let size := if e.level = 0 then 2 ^ 16 else 2 ^ 25
      decide (e.asid = asid) && spansMeet base len (e.base * size) size)
    (fun k => decide (k / 2 ^ 45 = asid) && spansMeet base len (128 * (k % 2 ^ 45)) 128)

end Sys2Proof.Machine
end

