-- ==== Sys2Proof/Machine/Ops.lean ====
section
/-! DEFINITION. The named operations over groups and the device: accessors, bundles, counters, context frames, taking a
trap and settling one, the device fault queue, and the management plane's event log. -/
namespace Sys2Proof.Machine

-- Accessors -------------------------------------------------------------------------------------------------------

/-- A group by its key. -/
def State.group (s : State) (k : Nat) : Group := s.groups.read Group.init k
/-- Replaces a group. -/
def State.setGroup (s : State) (k : Nat) (g : Group) : State := { s with groups := s.groups.put k g }
/-- A key that no group bears. -/
def noGroup : Nat := 2 ^ 64
/-- The group whose instruction is issuing. -/
def State.me (s : State) : Group := s.group s.cur
/-- Replaces the issuing group. -/
def State.setMe (s : State) (g : Group) : State := s.setGroup s.cur g
/-- A team by its key. -/
def State.team (s : State) (k : Nat) : Team := s.teams.read Team.init k
/-- Replaces a team. -/
def State.setTeam (s : State) (k : Nat) (t : Team) : State := { s with teams := s.teams.put k t }
/-- A cluster by its key. -/
def State.cluster (s : State) (k : Nat) : Cluster := s.clusters.read Cluster.init k
/-- Replaces a cluster. -/
def State.setCluster (s : State) (k : Nat) (c : Cluster) : State := { s with clusters := s.clusters.put k c }
/-- A task-table entry. -/
def State.task (s : State) (k : Nat) : Task := s.tasks.read Task.init k
/-- Replaces a task-table entry. -/
def State.setTask (s : State) (k : Nat) (t : Task) : State := { s with tasks := s.tasks.put k t }
/-- The key of a group: its task's slot and its global group index. -/
def groupKey (slot gidx : Nat) : Nat := slot * 2 ^ 26 + gidx
/-- The key of a team: its task's slot and its global team index. -/
def teamKey (slot tidx : Nat) : Nat := slot * 2 ^ 20 + tidx
/-- The key of a cluster: its task's slot and its clrank. -/
def clusterKey (slot rank : Nat) : Nat := slot * 2 ^ 16 + rank
/-- A lane of a group. -/
def Group.lane (g : Group) (l : Nat) : Lane := g.lanes.getD l ⟨0#64, 0#64, .exited⟩
/-- Applies a change to some lanes. -/
def Group.mapLanes (g : Group) (ls : List Nat) (f : Lane → Lane) : Group :=
  { g with lanes := (g.lanes.zipIdx).map fun e => if ls.contains e.2 then f e.1 else e.1 }
/-- A vector register's word of one lane, by absolute register number. -/
def Group.vreg (g : Group) (r l : Nat) : Word := g.v.read 0#32 (32 * r + l)
/-- Replaces it: the register's line is dirty (R380). -/
def Group.setVreg (g : Group) (r l : Nat) (w : Word) : Group :=
  { g with v := g.v.write 0#32 (32 * r + l) w, dirty := if g.dirty.contains r then g.dirty else r :: g.dirty }
/-- A scalar register. -/
def Group.sreg (g : Group) (r : Nat) : Word := g.s.read 0#32 r
/-- Replaces it, and its code word with it (R95, R96). -/
def Group.setSreg (g : Group) (r : Nat) (w : Word) : Group :=
  { g with s := g.s.write 0#32 r w, regErr := g.regErr.erase (2000 + r), poison := g.poison.filter (· ≠ 2000 + r) }
/-- A predicate as a lane mask; p15 is 1 in every lane (R32, R107). -/
def Group.preg (g : Group) (n : Nat) : Word := if n = 15 then 0xFFFFFFFF#32 else g.p.read 0#32 n
/-- Replaces a predicate; a write to p15 is discarded (R107). -/
def Group.setPreg (g : Group) (n : Nat) (w : Word) : Group :=
  if n = 15 then g else { g with p := g.p.write 0#32 n w }
/-- A heddle. -/
def Group.heddle (g : Group) (n : Nat) : Word := g.h.read 0#32 n
/-- Replaces a heddle. -/
def Group.setHeddle (g : Group) (n : Nat) (w : Word) : Group := { g with h := g.h.write 0#32 n w }
/-- Whether a group is privileged (R386). -/
def Group.priv (g : Group) : Bool := decide (g.asid = 0)
/-- The global core index's die (R14). -/
def dieOf (c : Nat) : Nat := c / 96

-- Bundles ---------------------------------------------------------------------------------------------------------

/-- Whether a lane is live (R58). -/
def Group.isLive (g : Group) (l : Nat) : Bool := decide ((g.lane l).st = .live)
/-- The live lanes, ascending. -/
def Group.liveLanes (g : Group) : List Nat := (List.range 32).filter g.isLive
/-- Whether a lane is parked. -/
def Group.isParked (g : Group) (l : Nat) : Bool :=
  match (g.lane l).st with
  | .parked _ => true
  | .live => false
  | .exited => false
/-- The lowest program counter of the live lanes (R59). -/
def Group.lowPc (g : Group) : Nat :=
  match minBy (fun l => (g.lane l).pc.toNat) g.liveLanes with
  | some l => (g.lane l).pc.toNat
  | none => 0
/-- The live lanes of a mask that stand at the lowest program counter among them. -/
def Group.bundleIn (g : Group) (m : Word) : List Nat :=
  let ls := g.liveLanes.filter fun l => Word.has m l
  match minBy (fun l => (g.lane l).pc.toNat) ls with
  | some h => ls.filter fun l => (g.lane l).pc = (g.lane h).pc
  | none => []
/-- The lanes that issue next: an open run's lanes (R83), the next bundle of an all-bundle step (R88), an aged lane's
bundle (R60), else the head bundle (R59). -/
def Group.bundle (g : Group) : List Nat :=
  match g.run with
  | some r => g.liveLanes.filter fun l => Word.has r.mask l
  | none =>
    if g.dbgStep = 3 then g.bundleIn (g.dbgLeft.headD 0#32)
    else
      let pc := match g.aged with
        | some l => if g.isLive l then (g.lane l).pc.toNat else g.lowPc
        | none => g.lowPc
      g.liveLanes.filter fun l => (g.lane l).pc.toNat = pc
/-- The program counter of the bundle. -/
def Group.pc (g : Group) : Dword :=
  match g.bundle with
  | l :: _ => (g.lane l).pc
  | [] => 0#64
/-- The lowest active lane. -/
def Group.first (g : Group) : Nat := g.bundle.headD 0

-- Outstanding operations ------------------------------------------------------------------------------------------

/-- Removes operations that have completed and whose older operations of the same class have all retired (R228). -/
def retireOps : List Cls → List Op → List Op
  | _, [] => []
  | held, o :: r =>
    if o.done && !held.contains o.cls then retireOps held r else o :: retireOps (o.cls :: held) r
/-- The operations of a class that have not retired. -/
def Group.outstanding (g : Group) (c : Cls) : Nat := (g.ops.filter fun o => o.cls = c).length
/-- Whether a buffer line or a write in flight still belongs to an operation. -/
def Group.hasWrite (g : Group) (seq : Nat) : Bool :=
  g.wcb.any (fun w => w.ops.contains seq) || g.parts.any (fun p => p.ops.contains seq && decide (p.st ≠ .ext true))
/-- A number that no write in flight bears. -/
def Group.newId (g : Group) : Nat := g.parts.foldl (fun n p => Nat.max n p.id) 0 + 1
/-- Stores without a write left are complete, but for region stores, which end at the batten, a store that waits inside
itself, and a linear store whose fault has not been taken (R199); a RED is complete when every lane has been performed or
recorded (R249); completed operations retire in issue order (R197, R228). -/
def Group.settleOps (g : Group) : Group :=
  let ops := g.ops.map fun o =>
    match o.kind with
    | .store => if 0 < o.slot || g.hasWrite o.seq || o.fault.isSome || g.storing.any (·.1 = o.seq) then o
      else { o with done := true }
    | .red _ _ => if g.hasWrite o.seq || !(o.accs.all fun a => decide (a.st = .got)) then o else { o with done := true }
    | _ => o
  { g with ops := retireOps [] ops }
/-- Replaces an operation by its number. -/
def Group.setOp (g : Group) (seq : Nat) (f : Op → Op) : Group :=
  { g with ops := g.ops.map fun o => if o.seq = seq then f o else o }
/-- An operation by its number. -/
def Group.op (g : Group) (seq : Nat) : Option Op := g.ops.find? fun o => o.seq = seq
/-- An operation with nothing to do yet. -/
def Op.base (seq : Nat) (c : Cls) (k : OpKind) (pc : Dword) : Op :=
  ⟨seq, c, k, pc, [], .none, 0x70, false, false, 0, 0, 0, 0, false, false, none, 0⟩
/-- The write in flight that a line of the buffer becomes. -/
def WcbLine.part (w : WcbLine) (id : Nat) (st : AccSt) : Part :=
  ⟨id, .store, 0, 0, w.line, w.bytes, [], w.ops, w.pc, st, none, false, w.ret⟩
/-- Whether a write in flight is a line of the buffer whose drain waits for its request (R195, R197). -/
def Part.queued (p : Part) : Bool := decide (p.kind = .store) && decide (p.st = .walk)
/-- Drained lines that have not completed (R197). -/
def Group.drained (g : Group) : Nat := (g.parts.filter fun p => decide (p.kind = .store) && p.rel.isNone && !p.queued).length
/-- Every line of the buffer is to drain (R197). -/
def Group.drain (g : Group) : Group :=
  g.wcb.foldl (fun g w => { g with wcb := g.wcb.drop 1, parts := g.parts ++ [w.part g.newId .walk] }) g
/-- Adds to the fence status (R230): its bits [3:0], and a number of failed operations. -/
def fenceNote (st bits n : Nat) : Nat := (st % 16 ||| bits) + 256 * Nat.min 255 (bitsOf st 8 8 + n)
/-- Adds one failed operation to the fence status (R230): bit 0 DEAD, 1 FAULT, 2 REFUSED, 3 EXTERNAL. -/
def fenceAdd (st bit : Nat) : Nat := fenceNote st (2 ^ bit) 1

-- Context frames --------------------------------------------------------------------------------------------------

/-- FRAME_SIZE (R372). -/
def frameSize (nreg : Nat) (rgn : Bool) : Nat := roundUp 4096 (2048 + nreg * 128) * (if rgn then 2 else 1)
/-- The address of a group's frame (R348, R372). -/
def State.frameBase (s : State) (g : Group) : Nat :=
  (s.task g.task).record.ctxb + g.gidx * frameSize g.nreg g.rgn
/-- The state code of STATUS (R374). -/
def Group.stateCode (g : Group) : Nat :=
  match g.sched with
  | .unplaced => if g.fresh then 0 else 1
  | .inactive => if g.fresh then 0 else 1
  | .active => 1
  | .held => 3
  | .done => 4
  | .killed => 5
/-- Loads, fills and atomics that have not completed, which the held-request list names (R376). -/
def Op.heldKind (o : Op) : Option Nat :=
  if o.done then none
  else
    match o.kind with
    | .load _ _ => some 0
    | .atom _ _ => some 3
    | .cas _ => some 3
    | .matrix fill => if fill then some 1 else none
    | .store => if o.slot = 0 then none else some 2
    | .red _ _ => none
    | .copy => none
    | .tred _ _ _ => none
    | .push _ _ _ => none
    | .region => none
    | .wbl _ _ _ => none
    | .instant => none
/-- Requests in issue order (R382 step 3). -/
def inIssueOrder (xs : List (Nat × Nat × Nat × Bool)) : List (Nat × Nat × Nat × Bool) :=
  xs.foldl (fun r x => (r.takeWhile fun y => y.1 ≤ x.1) ++ x :: r.dropWhile fun y => y.1 ≤ x.1) []
/-- The held requests of a group in issue order: sequence number, kind, destination code, FAULTED (R376, R382). -/
def Group.heldList (g : Group) : List (Nat × Nat × Nat × Bool) :=
  inIssueOrder ((g.ops.filterMap fun o => o.heldKind.map fun k => (o.seq, k, o.code, o.fault.isSome)) ++
    (g.parts.filter fun p => p.rel.isSome).map fun p => (p.ops.headD 0, 4, 0x70, false))
/-- The size code of a width (R193). -/
def widthCode (w : Nat) (sg : Bool) : Nat :=
  match w with
  | 1 => b2n sg
  | 2 => 2 + b2n sg
  | 4 => 4
  | 8 => 5
  | _ => 6
/-- The size code of a load, an atomic or a region store (R33, R376); for the other requests the spec states none, and it is a
free value. -/
def Op.sizeCode (o : Op) : Nat :=
  match o.kind with
  | .load w sg => widthCode w sg
  | .atom _ w => widthCode w false
  | .cas w => widthCode w false
  | .store =>
    match o.accs with
    | a :: _ => widthCode a.op1.length false
    | [] => Config.freeNat o.seq % 8
  | _ => Config.freeNat o.seq % 8
/-- An entry of the held-request list (R376). The handle's table entry is a free value. -/
def Group.heldEntry (g : Group) (e : Nat × Nat × Nat × Bool) : Nat :=
  let (seq, kind, code, faulted) := e
  let size := match g.op seq with
    | some o => o.sizeCode
    | none => Config.freeNat seq % 8
  g.core % 512 + 2 ^ 9 * (Config.freeNat seq % 4096) + 2 ^ 21 * code + 2 ^ 28 * size + 2 ^ 31 * b2n faulted +
    2 ^ 32 * kind + 2 ^ 35 * (seq % 2 ^ 29)
/-- STATUS (R374). -/
def Group.status (g : Group) : Nat :=
  g.stateCode + 2 ^ 3 * b2n g.inTrap + 2 ^ 4 * g.role + 2 ^ 6 * b2n g.priv + 2 ^ 7 * b2n g.ihead.isSome +
    2 ^ 8 * b2n g.chain + 2 ^ 9 * g.sfq.length + 2 ^ 14 * g.heldList.length +
    2 ^ 20 * b2n (!g.sfwait.isEmpty) + 2 ^ 24 * (match g.hrec with
      | some r => if g.sched = .held then r.cause else 0
      | none => 0)
/-- Requests of the kinds that the held-request list names (R376). -/
def Group.heldCount (g : Group) : Nat := g.heldList.length
/-- The requests of a group in the request table of core `c`: those of the held-request list, drained lines and other writes
on their way, REDs, and store-fault records, which stay on the core that issued the write (R195, R201, R376). -/
def Group.requests (g : Group) (c : Nat) : Nat :=
  (if g.core = c then g.heldCount + (g.parts.filter fun p => p.rel.isNone && !p.queued).length +
    (g.ops.filter fun o => !o.done && decide (o.cls = .red)).length else 0) +
    ((g.sfq ++ g.sfwait).filter fun e => e.core = c).length
/-- Outstanding requests of a core (R195, R376). -/
def State.coreRequests (s : State) (c : Nat) : Nat := s.groups.foldl (fun n e => n + e.2.requests c) 0
/-- The first lines of some writes whose drain waits are sent, `n` of them. -/
def sendParts : Nat → List Part → List Part
  | _, [] => []
  | n, p :: r => if p.queued && decide (0 < n) then { p with st := .wait } :: sendParts (n - 1) r else p :: sendParts n r
/-- Lines whose drain waits are sent as far as 16 drained lines of the group and 4,096 requests of the core allow
(R195, R197). -/
def State.sendLines (s : State) (k : Nat) : State :=
  let g := s.group k
  if g.parts.any Part.queued then
    s.setGroup k { g with parts := sendParts (Nat.min (16 - g.drained) (4096 - s.coreRequests g.core)) g.parts }
  else s
/-- The whole buffer of a group drains (R197). -/
def State.drainGroup (s : State) (k : Nat) : State := (s.setGroup k (s.group k).drain).sendLines k
/-- The 32 bytes of a fault record (R387). -/
def FaultRec.bytes (r : FaultRec) : Bytes :=
  leBytes 1 r.cause ++ leBytes 1 (r.grade + 16 * r.cls) ++ leBytes 1 r.lane ++ leBytes 1 (b2n r.nested + 2 * b2n r.ext) ++
    leBytes 4 r.word ++ leBytes 4 r.group ++ leBytes 4 r.task ++ leBytes 8 r.pc ++ leBytes 8 r.va
/-- A fault record from its bytes. -/
def FaultRec.ofBytes (b : Bytes) : FaultRec :=
  let at' := fun o n => leNat ((b.drop o).take n)
  ⟨at' 0 1, at' 1 1 % 16, at' 1 1 / 16 % 4, at' 2 1, bitOf (at' 3 1) 0, bitOf (at' 3 1) 1, at' 4 4, at' 8 4, at' 12 4,
    at' 16 8, at' 24 8⟩
/-- The lane-state byte (R373). -/
def LaneState.code : LaneState → Nat
  | .live => 0
  | .parked h => 1 + 4 * h
  | .exited => 2
/-- The channel-table entry in the frame (R373). -/
def bindingBits : Option Binding → Nat
  | none => 0
  | some b => b.qid % 2 ^ 48 + 2 ^ 48 + 2 ^ 49 * b2n b.pop + 2 ^ 50 * b.failed
/-- `n` bytes of zeros. -/
def zeros (n : Nat) : Bytes := List.replicate n 0#8
/-- The classes of the counters, in the header's order (R373). -/
def allCls : List Cls := [.mem, .copy, .mat, .red, .msg, .region]
/-- The header of a frame (R373). -/
def Group.header (g : Group) : Bytes :=
  let lanes := (List.range 32).map g.lane
  lanes.flatMap (fun x => leBytes 8 x.pc.toNat) ++ lanes.flatMap (fun x => leBytes 8 x.link.toNat) ++
    lanes.flatMap (fun x => leBytes 1 x.st.code) ++
    (List.range 16).flatMap (fun i => leBytes 4 (g.preg i).toNat) ++
    (List.range 16).flatMap (fun i => leBytes 4 (g.sreg i).toNat) ++
    (List.range 12).flatMap (fun i => leBytes 4 (g.heddle i).toNat) ++
    leBytes 8 g.status ++ leBytes 8 (g.wb + 2 ^ 10 * g.nreg) ++ leBytes 8 (g.ihead.getD 0#64).toNat ++
    leBytes 8 (g.fence + 2 ^ 32 * (if g.chain then g.crc.toNat else 0)) ++
    (match g.wait with
      | some w => leBytes 8 (w.idx + 16 * w.kind + 65536 * w.token)
      | none => zeros 8) ++ leBytes 4 g.sleep ++ zeros 4 ++
    leBytes 8 g.tvec.toNat ++ leBytes 4 g.trapMask.toNat ++ leBytes 4 g.tmask.toNat ++ leBytes 8 g.tpc.toNat ++ zeros 8 ++
    g.trec.bytes ++ (List.range 8).flatMap (fun i => leBytes 8 (bindingBits (g.chans.read none i))) ++
    allCls.flatMap (fun c => leBytes 2 (g.outstanding c)) ++ zeros 4 ++ leBytes 8 g.seq ++ zeros 8 ++
    (List.range 32).flatMap (fun l => leBytes 4 (g.sr.getD l 1#32).toNat) ++
    ((g.heldList.take 48).flatMap (fun e => leBytes 8 (g.heldEntry e)) ++
      zeros (384 - 8 * (g.heldList.take 48).length)) ++
    ((g.sfq.take 16).flatMap (fun e => leBytes 4 e.word ++
        leBytes 4 (e.core % 512 + 2 ^ 9 * (Config.freeNat e.part.id % 4096)) ++ leBytes 8 e.pc.toNat) ++
      zeros (256 - 16 * (g.sfq.take 16).length)) ++
    leBytes 4 ((if g.reg.slot = 256 then 0 else g.reg.nest + 256 * g.reg.slot) + 16 * b2n g.reg.serial +
      65536 * (g.ops.filter fun o => o.heldKind = some 2).length) ++ zeros 28 ++ zeros 320
/-- The 128 bytes of a vector register. -/
def Group.vregLine (g : Group) (r : Nat) : Bytes := (List.range 32).flatMap fun l => leBytes 4 (g.vreg r l).toNat
/-- A hardware write of one 128-byte line of a frame: through the home slices to the channels, and out of the L2
(R375, R465). `bad` marks poisoned data (R377). -/
def State.frameLine (s : State) (core asid va : Nat) (bs : Bytes) (bad : Bool) : Except (Nat × Nat × Nat) State :=
  if !s.homePath core va then .error (0, 0, va)
  else
  match s.translate asid va true false true with
  | .fail c w => .error (c, w, va)
  | .mem pa _ =>
    .ok ((((s.tlbFill asid va).dropL2 (lineKey asid (va / 128))).noteStripe (pa / 512)).writeSector (pa / 128) (bs.map some) bad)
  | .view _ _ _ => .error (causeView, 0, va)
  | x =>
    let (s, live) := s.extLive core x
    if live then .ok (s.sendLine (s.hardware core) (lineBytes va bs) x) else .error (0, 0, va)
/-- Writes lines of a frame from `va` on. -/
def State.frameLines (s : State) (core asid : Nat) : Nat → List (Bytes × Bool) → Except (Nat × Nat × Nat) State
  | _, [] => .ok s
  | va, (bs, bad) :: r =>
    match s.frameLine core asid va bs bad with
    | .error e => .error e
    | .ok s => State.frameLines s core asid (va + 128) r
/-- The header in lines of 128 bytes. -/
def chunks : Nat → Bytes → List (Bytes × Bool)
  | 0, _ => []
  | n + 1, bs => (bs.take 128, false) :: chunks n (bs.drop 128)
/-- Positions at which a stored code word differs from the code word of its register's value (R95, R96). -/
def errorBytes (pat : List (Nat × Byte)) : List Nat :=
  (pat.map (·.1)).eraseDups.filter fun i => (pat.filter (·.1 = i)).foldl (fun x e => x ^^^ e.2) 0#8 ≠ 0#8
/-- The wrong bytes of a register's stored code word, by its key of R95. -/
def Group.wrongBytes (g : Group) (k : Nat) : Nat := (errorBytes (g.regErr.read [] k)).length
/-- A register is read for a write-back, which decodes it: a correction counts a grade-A event (R96). -/
def State.noteDecode (s : State) (g : Group) (k : Nat) : State :=
  let n := g.wrongBytes k
  if n = 1 ∨ n = 2 then s.logEvent (some (unitCore g.core)) (eventRec 1 0 0) else s
/-- Writes the dirty register lines that the register cache holds (R382 step 4). -/
def State.frameRegs (s : State) (g : Group) (base : Nat) : List Nat → Except (Nat × Nat × Nat) State
  | [] => .ok s
  | r :: rs =>
    if g.absent.contains r || !g.dirty.contains r then s.frameRegs g base rs
    else
      match s.frameLine g.core g.asid (base + 0x800 + 128 * r) (g.vregLine r) (g.poison.contains r || decide (2 < g.wrongBytes r)) with
      | .error e => .error e
      | .ok s => State.frameRegs (s.noteDecode g r) g base rs
/-- Writes a group's header, which reads its scalar registers, predicates and heddles, and its dirty register lines to its
frame (R96, R382 step 4). -/
def State.writeFrame (s : State) (g : Group) : Except (Nat × Nat × Nat) State :=
  let base := s.frameBase g
  match s.frameLines g.core g.asid base (chunks 16 g.header) with
  | .error e => .error e
  | .ok s =>
    let s := (g.regErr.keys.filter fun k => decide (2000 ≤ k)).foldl (fun s k => s.noteDecode g k) s
    s.frameRegs g base (List.range g.nreg)
/-- A group as its checkpoint holds it (R284). -/
def Group.atCkpt (g : Group) (c : Ckpt) : Group :=
  { g with lanes := c.lanes, v := c.v, s := c.s, p := c.p, h := c.h, wb := c.wb, sr := c.sr, ihead := c.ihead
           poison := c.poison, regErr := c.regErr }
/-- Where a group's checkpoint begins: the second half of its frame (R372). -/
def State.ckptBase (s : State) (g : Group) : Nat := s.frameBase g + frameSize g.nreg g.rgn / 2
/-- Writes the checkpoint of an open region: the header part, and the lines copied so far (R284, R372). A write that faults
waits as an append does (R384, R385). -/
def State.writeCkpt (s : State) (k : Nat) : State :=
  let g := s.group k
  match g.reg.ckpt with
  | none => s
  | some c =>
    let x := g.atCkpt c
    let base := s.ckptBase g
    let line := fun (r : Except (Nat × Nat × Nat) State) (i : Nat) =>
      r.bind fun s => if c.absent.contains i then .ok s
        else s.frameLine g.core g.asid (base + 0x800 + 128 * i) (x.vregLine i) (c.poison.contains i || decide (2 < x.wrongBytes i))
    match (List.range g.nreg).foldl line (s.frameLines g.core g.asid base (chunks 16 x.header)) with
    | .ok s => s
    | .error _ => s.setGroup k { g with frameRetry := if g.frameRetry = 0 then 4 else g.frameRetry }

/-- An open latch run is abandoned: its lanes return to the restart point with their generators (R85, R126). A run that a
control or heddle instruction has ended is not (R84). -/
def Group.abandonRun (g : Group) : Group :=
  match g.run with
  | none => g
  | some r =>
    if r.closed then { g with run := none }
    else { g.mapLanes (lanesOf r.mask) (fun x => { x with pc := r.restart }) with run := none, sr := r.sr }
/-- Requests of a load on their way are issued again after a restore; bytes already returned stay (R382, R383). -/
def Op.holdRequest (o : Op) : Op :=
  match o.kind with
  | .load _ _ => { o with accs := o.accs.map fun a => match a.st with
      | .walk => { a with st := .wait }
      | .degraded _ => { a with st := .wait }
      | .batten => { a with st := .wait }
      | .depth => { a with st := .wait }
      | _ => a }
  | _ => o
/-- A write-back has read the scalar registers, the predicates, the heddles and the dirty lines, which decodes them (R96): one
with more wrong bytes than the code corrects is poisoned in the frame, and the others leave without error. A clean line is
given up unread, and the frame's copy stands. -/
def Group.decodeAll (g : Group) : Group :=
  let read := fun (k : Nat) => decide (2000 ≤ k) || (g.dirty.contains k && !g.absent.contains k)
  let bad := (g.regErr.filter fun e => read e.1 && decide (2 < (errorBytes e.2).length)).map (·.1)
  { g with poison := bad.filter (fun k => !g.poison.contains k) ++ g.poison, regErr := [] }
/-- The group's own part of a write-back, once its buffer drains (R382 steps 1 to 3). DESIGN CHOICE: that the run which closed before it was full
(R82) is forgotten here and at a trap, so that an nw = 1 producer may then be the first to issue. -/
def Group.suspend (g : Group) : Group :=
  let g := g.abandonRun
  { g with latches := [], stream := 0#32, imx := none, runFull := false, aged := none, missing := none, twait := none, entered := false
           storing := none, tstat := none
           ops := g.ops.map Op.holdRequest }
/-- The group holds no slot and no register line (R382 step 5). -/
def Group.free (g : Group) : Group := { g.decodeAll with absent := List.range g.nreg, dirty := [], fresh := false }

-- Registers of the restored header (R375) --------------------------------------------------------------------------

/-- `n` bytes of a header at an offset, as a number. -/
def hdr (b : Bytes) (o n : Nat) : Nat := leNat ((b.drop o).take n)
/-- A lane from the header: a state byte that is not legal leaves the lane's state (R375). -/
def laneOfHeader (b : Bytes) (old : Lane) (l : Nat) : Lane :=
  let c := hdr b (0x200 + l) 1
  let st := match c % 4 with
    | 0 => LaneState.live
    | 1 => .parked (c / 4 % 16)
    | 2 => .exited
    | _ => old.st
  let st := if c / 4 % 16 < 12 then st else old.st
  ⟨BitVec.ofNat 64 (hdr b (8 * l) 8), BitVec.ofNat 64 (hdr b (0x100 + 8 * l) 8), st⟩
/-- Writes consecutive words of a header to a table. -/
def wordsOfHeader (b : Bytes) (o n : Nat) : Tab Word :=
  Tab.writeFrom 0#32 [] 0 ((List.range n).map fun i => BitVec.ofNat 32 (hdr b (o + 4 * i) 4))
/-- What a restore takes from the frame as system software left it (R375). -/
def Group.ofHeader (g : Group) (b : Bytes) : Group :=
  let wb := hdr b 0x2D8 2 % 1024
  { g with
    lanes := (List.range 32).map fun l => laneOfHeader b (g.lane l) l
    p := wordsOfHeader b 0x220 15
    s := wordsOfHeader b 0x260 16
    h := wordsOfHeader b 0x2A0 12
    wb := if wb % 8 = 0 ∧ wb + 8 ≤ g.nreg then wb else g.wb
    ihead := if g.ihead.isSome then some (BitVec.ofNat 64 (hdr b 0x2E0 8)) else none
    fence := hdr b 0x2E8 4
    tvec := BitVec.ofNat 64 (hdr b 0x300 8 &&& sysWritable 0x210)
    trapMask := BitVec.ofNat 64 (hdr b 0x308 4 &&& sysWritable 0x211)
    tmask := BitVec.ofNat 32 (hdr b 0x30C 4)
    tpc := BitVec.ofNat 64 (hdr b 0x310 8)
    trec := FaultRec.ofBytes ((b.drop 0x320).take 32)
    itemWait := maskOf fun l => Word.has g.itemWait l &&
      decide ((g.lane l).pc.toNat = hdr b (8 * l) 8)
    sr := (List.range 32).map fun l =>
      let z : Word := BitVec.ofNat 32 (hdr b (0x3A0 + 4 * l) 4)
      if z = 0#32 then 1#32 else z }

-- Traps -----------------------------------------------------------------------------------------------------------

/-- What an instruction's trap brings to trap entry: cause, cause-specific word (none where the spec states none),
class (0 precise, 1 deferred, 2 imprecise), lane (none: the lowest active), address, program counter of the record
(none: the bundle's), whether the lanes continue after the word (R389), and whether it is a debug stop (R444). -/
structure Trap where
  cause : Nat
  word : Option Nat
  cls : Nat
  lane : Option Nat
  va : Nat
  pc : Option Dword
  after : Bool
  debug : Bool
  deriving DecidableEq, Repr

/-- A precise trap of the bundle at its word (R389). -/
def Trap.precise (cause : Nat) (word : Option Nat) : Trap := ⟨cause, word, 0, none, 0, none, false, false⟩

/-- Why an instruction does not complete: a trap; the bundle blocks inside it (R61); or a register line must be
fetched first (R381). -/
inductive Stop where
  | trap (t : Trap)
  | block
  | miss (reg : Nat)
  /-- the bundle waits in a queue's order of pops (R316): core and queue -/
  | queue (core q : Nat)
  /-- the bundle blocks, and what the instruction has done so far stands (R219, R230) -/
  | after (s : State)
  /-- a trap before which the instruction has changed what stands: charges (R91), a poisoned register (R96), an entry that
  a pop has removed (R316) -/
  | trapIn (t : Trap) (s : State)
  /-- a code word has been corrected and written back to the register cache (R96); the bundle issues the instruction anew -/
  | anew (s : State)
  deriving DecidableEq, Repr

/-- The result of a part of an instruction. -/
abbrev Go (α : Type) := Except Stop α

/-- A precise trap with a word. -/
def trapW {α : Type} (cause word : Nat) : Go α := .error (.trap (Trap.precise cause (some word)))
/-- A precise trap whose word the spec does not state. -/
def trapO {α : Type} (cause : Nat) : Go α := .error (.trap (Trap.precise cause none))
/-- Traps unless a check holds. -/
def must (c : Bool) (cause : Nat) : Go Unit := if c then .ok () else trapO cause
/-- Traps with a word unless a check holds. -/
def mustW (c : Bool) (cause word : Nat) : Go Unit := if c then .ok () else trapW cause word
/-- Blocks unless a condition holds. -/
def awaits (c : Bool) : Go Unit := if c then .ok () else .error .block

/-- ILLEGAL, OPERAND, CONVERGENCE, ROLE, PRIV, ALIGN, SCRATCH_BOUNDS … (R389). -/
def causeIllegal : Nat := 0x01
def causeOperand : Nat := 0x02
def causeConv : Nat := 0x03
def causeRole : Nat := 0x04
def causePriv : Nat := 0x05
def causeAlign : Nat := 0x06
def causeScratch : Nat := 0x07
def causeBarrier : Nat := 0x0B
def causeChannel : Nat := 0x0C
def causeRecord : Nat := 0x0D
def causeWindow : Nat := 0x0E
def causeRegion : Nat := 0x0F
def causeBreak : Nat := 0x10
def causeSoft : Nat := 0x11
def causeMismatch : Nat := 0x12
def causeRegister : Nat := 0x13
def causeStore : Nat := 0x15
def causeNopre : Nat := 0x16
def causeTimeout : Nat := 0x17
def causeLaunch : Nat := 0x18
def causeFrame : Nat := 0x19
def causeLanding : Nat := 0x1A
def causeSuspect : Nat := 0x1B

/-- The grade of a cause: C where the table fixes it, else pending (R389); BREAKPOINT of a debug stop is A (R444). -/
def gradeOf (t : Trap) : Nat :=
  if t.debug then 1
  else if [causeMismatch, causeRegister, causePoison, causeNopre, causeTimeout, causeLanding, causeSuspect].contains t.cause
  then 3
  else if t.cause = causeRecord ∧ t.cls = 2 then 3
  else 0

/-- C becomes D for a task whose writes left the device (R388). -/
def gradeExt (ext : Bool) (g : Nat) : Nat := if ext && decide (g = 3) then 4 else g

/-- The worst grade of a task's records (R353). -/
def State.noteGrade (s : State) (slot grade : Nat) : State :=
  let t := s.task slot
  if t.grade < grade then s.setTask slot { t with grade := grade } else s

/-- The word after the bundle's instruction: 8 bytes on for an IMX pair. -/
def Group.nextPc (g : Group) (pc : Dword) : Dword := pc + (if g.imx.isSome then 8#64 else 4#64)

/-- The fault record of a trap (R387). -/
def faultRecord (s : State) (g : Group) (t : Trap) : FaultRec where
  cause := t.cause
  grade := gradeExt (s.task g.task).ext (gradeOf t)
  cls := t.cls
  lane := t.lane.getD g.first
  nested := g.inTrap
  ext := (s.task g.task).ext
  word := match t.word with
    | some w => w
    | none => (Config.freeWord s.free).toNat
  group := g.gidx
  task := g.taskId
  pc := (t.pc.getD g.pc).toNat
  va := t.va

/-- Whether a trap goes to the group's own handler (R390). -/
def Group.localTrap (g : Group) (t : Trap) : Bool :=
  g.priv && !g.inTrap && g.trapMask.toNat.testBit t.cause && decide (t.cause ≠ causeFrame) && !t.debug

/-- The group as every trap leaves it before it goes anywhere: the lanes at their frame program counters (R389), an
open run abandoned (R85), latches invalid (R81), the NOPRE section closed (R363). -/
def Group.trapped (g : Group) (t : Trap) : Group :=
  let g := if t.after ∧ g.run.all (·.closed) then g.mapLanes g.bundle (fun x => { x with pc := g.nextPc x.pc }) else g
  let told := fun (e : Cls × FaultRec) => decide (t.cls = 2) && decide (e.2.cause = t.cause) && decide (some e.2.word = t.word)
  { g.abandonRun with
    latches := [], stream := 0#32, runFull := false, imx := none, aged := none, nopre := false, twait := none, rett := none, entered := false
    storing := none, tstat := none
    imprec := dropFirst told g.imprec }

/-- Local trap entry (R391); a lane that goes to the handler waits for no item (R60). DESIGN CHOICE (log 52): where no lane
stands in a bundle, TPC is the record's program counter. -/
def Group.enterLocal (g : Group) (lanes : List Nat) (r : FaultRec) : Group :=
  let fpc := match lanes with
    | l :: _ => (g.lane l).pc
    | [] => BitVec.ofNat 64 r.pc
  { g.mapLanes lanes (fun x => { x with pc := g.tvec }) with
    itemWait := maskOf fun l => Word.has g.itemWait l && !lanes.contains l
    trec := r, tpc := fpc, tmask := maskOfLanes lanes, inTrap := true }

/-- A record waits for the device fault queue (R392). -/
def State.enqueue (s : State) (r : FaultRec) : State := { s with fqWait := s.fqWait ++ [r] }

/-- The FRAME_FAULT record of a frame access (R385). -/
def frameFaultRec (s : State) (g : Group) (word va : Nat) : FaultRec :=
  ⟨causeFrame, 0, 3, 0xFF, g.inTrap, (s.task g.task).ext, word, g.gidx, g.taskId, g.pc.toNat, va⟩

/-- Groups of a core that are HELD and resident under FRAME_FAULT (R385). -/
def State.frameHeld (s : State) (c : Nat) : Nat :=
  (s.groups.filter fun e => decide (e.2.core = c) && decide (e.2.sched = .held) && e.2.hrec.isSome &&
    decide (e.2.frameRetry = 1 ∨ e.2.frameRetry = 2)).length

/-- A frame access faulted: the group is HELD, `retry` names the access (R385); the trap that led to a write-back
waits with its record. A fifth group of a core that would stay resident waits without a record. -/
def State.frameFault (s : State) (k retry : Nat) (waiting : Option FaultRec) (word va : Nat) : State :=
  let g := s.group k
  let r := frameFaultRec s g word va
  if (retry = 1 ∨ retry = 2) ∧ 4 ≤ s.frameHeld g.core then
    s.setGroup k { g with sched := .held, hrec := none, frameRetry := retry, trapWait := waiting, frameLate := some (word, va) }
  else (s.setGroup k { g with sched := .held, hrec := some r, frameRetry := retry, trapWait := waiting }).enqueue r

/-- A store-fault record or a deferred-fault mark that arrives while the group is not resident is appended to its frame
(R384); an append that faults waits. -/
def State.appendFrame (s : State) (k : Nat) : State :=
  let g := s.group k
  if g.sched = .active ∨ g.sched = .done ∨ g.sched = .killed ∨ g.fresh then s
  else if s.lineBusy g.core g.asid (s.frameBase g) 2048 then
    s.setGroup k { g with frameRetry := if g.frameRetry = 0 then 4 else g.frameRetry }
  else
    let base := s.frameBase g
    let h := g.header
    match s.vwrite (some g.core) g.asid (base + 0x2D0) ((h.drop 0x2D0).take 8) true with
    | .error _ => s.setGroup k { g with frameRetry := if g.frameRetry = 0 then 4 else g.frameRetry }
    | .ok s =>
      match s.vwrite (some g.core) g.asid (base + 0x420) ((h.drop 0x420).take 0x280) true with
      | .error _ => s.setGroup k { g with frameRetry := if g.frameRetry = 0 then 4 else g.frameRetry }
      | .ok s => s.writeCkpt k

/-- Write-back of a HELD group and the append of its record (R382, R392, R465). -/
def State.holdGroup (s : State) (k : Nat) (r : FaultRec) : State :=
  let s := s.drainGroup k
  let g := (s.group k).suspend
  let g := { g with sched := .held, hrec := some r, frameRetry := 0, trapWait := none }
  let s := s.setGroup k g
  match s.writeFrame g with
  | .ok s => (s.setGroup k g.free).enqueue r
  | .error (_, w, va) => s.frameFault k 1 (some r) w va

/-- A group no longer waits for entries of any queue (R316). -/
def State.leaveQueues (s : State) (k : Nat) : State :=
  { s with cores := s.cores.map fun c => (c.1, { c.2 with
      queues := c.2.queues.map fun q => (q.1, { q.2 with
        waiters := q.2.waiters.filter (· ≠ k), taken := if q.2.waiters.head? = some k then 0 else q.2.taken }) }) }

/-- Trap entry (R390 to R392): the one operation that every trap takes. -/
def State.takeTrap (s : State) (k : Nat) (t : Trap) : State :=
  let s := s.leaveQueues k
  let g := s.group k
  let lanes := g.bundle
  let r := faultRecord s g t
  let lo := g.localTrap t
  let g := g.trapped t
  let s := { s with free := s.free + 1 }
  let s := s.noteGrade g.task r.grade
  if lo then s.setGroup k (g.enterLocal lanes r)
  else (s.setGroup k { g with hlanes := maskOfLanes lanes }).holdGroup k r

-- Issue -----------------------------------------------------------------------------------------------------------

/-- The issue stream's lanes; the latches are invalid when they change (R81). -/
def Group.enter (g : Group) : Group :=
  let m := maskOfLanes g.bundle
  if m = g.stream then g else { g with stream := m, latches := [] }

/-- What a stop does to the machine: the trap entry, or a blocked bundle whose program counter stays. -/
def State.stop (s : State) : Stop → State
  | .trap t => s.takeTrap s.cur t
  | .block => s.setMe { s.me with blocked := true, entered := true, imx := none }
  | .after s => s.setMe { s.me with blocked := true, entered := true, imx := none }
  | .trapIn t s => s.takeTrap s.cur t
  | .anew s => s.setMe { s.me with entered := true, imx := none }
  | .miss r => s.setMe { s.me with blocked := true, entered := true, imx := none, missing := some r }
  | .queue c q =>
    let s := s.setMe { s.me with blocked := true, entered := true, imx := none }
    let core := s.core c
    let x := core.queues.read Queue.init q
    if x.waiters.contains s.cur then s
    else s.setCore c { core with queues := core.queues.put q { x with waiters := x.waiters ++ [s.cur] } }

/-- Runs an instruction for the bundle of the issuing group: its effect, or its trap, or a blocked bundle. -/
def State.run (s : State) (body : State → Go State) : Host.Outcome State Fault Refusal :=
  if s.me.sched = .active then
    match body (s.setMe { s.me.enter with blocked := false, entered := false }) with
    | .ok s' => .next s'
    | .error e => .next ((s.setMe { s.me with blocked := false, entered := false }).stop e)
  else .fault .noIssuingGroup

/-- The issue of a control or heddle instruction ends an open run (R84), and so does SRSEED's (R137): its lanes stay in
hand until the instruction has issued. -/
def Group.closeRun (g : Group) : Group := { g with run := g.run.map fun r => { r with closed := true } }

/-- Runs an instruction whose issue ends an open latch run, whether it completes, traps or waits (R84, R137). -/
def State.runControl (s : State) (body : State → Go State) : Host.Outcome State Fault Refusal :=
  (s.setMe s.me.closeRun).run body

end Sys2Proof.Machine
end

