-- ==== Sys2Proof/Machine/Operands.lean ====
section
/-! DEFINITION. Operand fields: positions, classes, widths, the window, channels, the register code, the checks of R45
and their order, and the results of pipe instructions with double pick (02_encoding.md R38 to R46, 04_integer.md R89 to
R97, 12_channels.md R314 to R321, 14_contexts.md R378). -/
namespace Sys2Proof.Machine

/-- A use of an operand field: the operand, its width in words (R40), and whether it is a destination. -/
structure Use where
  o : Operand
  w : Nat
  dst : Bool
  deriving DecidableEq, Repr

/-- A 32-bit source. -/
def src (o : Operand) : Use := ⟨o, 1, false⟩
/-- A 32-bit destination. -/
def dst (o : Operand) : Use := ⟨o, 1, true⟩
/-- A source of several words. -/
def srcN (o : Operand) (w : Nat) : Use := ⟨o, w, false⟩
/-- A destination of several words. -/
def dstN (o : Operand) (w : Nat) : Use := ⟨o, w, true⟩

/-- Whether a source is vector-class (R39). A channel takes the class of the execution. -/
def isVec (g : Group) : Operand → Bool
  | .v _ => true
  | .laneid => true
  | .link => true
  | .k n => match g.latches[n.toNat]? with
    | some x => x.vec
    | none => false
  | .s _ => false
  | .chan _ => false
  | .pop _ => false
  | .zero => false
  | .groupid => false
  | .teamid => false
  | .clrank => false
  | .dieid => false

/-- The execution class for a destination and sources (R39, R317): true is vector. -/
def execVec (g : Group) (d : Operand) (srcs : List Operand) : Bool :=
  match d with
  | .v _ => true
  | .s _ => false
  | _ => srcs.any fun o => isVec g o

/-- Whether an operand is a register or zero, with a number that its width allows (R40). -/
def wideOk (w : Nat) : Operand → Bool
  | .v n => decide (n.toNat % w = 0)
  | .s n => decide (n.toNat % w = 0)
  | .zero => true
  | _ => false

/-- Whether an operand is a v or s register. -/
def isReg : Operand → Bool
  | .v _ => true
  | .s _ => true
  | _ => false

/-- Whether an operand is an s register. -/
def isS : Operand → Bool
  | .s _ => true
  | _ => false

/-- Whether an operand is a v register. -/
def isV : Operand → Bool
  | .v _ => true
  | _ => false

/-- Whether an operand is zero. -/
def isZero (o : Operand) : Bool := decide (o = .zero)

/-- The position check of one use (R38, R40, R81). -/
def Use.ok (g : Group) (u : Use) : Bool :=
  if 1 < u.w then wideOk u.w u.o
  else if u.dst then
    match u.o with
    | .v _ => true
    | .s _ => true
    | .chan _ => true
    | .zero => true
    | _ => false
  else
    match u.o with
    | .k n => decide (n.toNat < g.latches.length)
    | _ => true

/-- The absolute vector registers of a use. -/
def Use.vregs (g : Group) (u : Use) : List Nat :=
  match u.o with
  | .v n => (List.range u.w).map fun i => g.wb + n.toNat + i
  | _ => []

/-- The scalar registers of a use. -/
def Use.sregs (u : Use) : List Nat :=
  match u.o with
  | .s n => (List.range u.w).map fun i => n.toNat + i
  | _ => []

/-- The first use outside the window (R378): its absolute number. -/
def windowBreach (g : Group) : List Use → Option Nat
  | [] => none
  | u :: r =>
    match u.o with
    | .v n => if g.nreg ≤ g.wb + n.toNat then some (g.wb + n.toNat) else windowBreach g r
    | _ => windowBreach g r

/-- The core and the table entry that a queue id names (R314). -/
def qidCore (q : Nat) : Nat := bitsOf q 6 9
/-- The queue's entry of its core's table. -/
def qidIndex (q : Nat) : Nat := bitsOf q 0 6
/-- GEN of a queue id. -/
def qidGen (q : Nat) : Nat := bitsOf q 16 16
/-- DEVICE of a queue id. -/
def qidDev (q : Nat) : Nat := bitsOf q 32 16
/-- Whether a queue id names a queue of this device. -/
def State.qidHere (s : State) (q : Nat) : Bool := decide (qidDev q = s.sysv 0x502 % 65536)
/-- A queue of this device. -/
def State.queue (s : State) (c q : Nat) : Queue := (s.core c).queues.read Queue.init q
/-- Replaces a queue. -/
def State.setQueue (s : State) (c q : Nat) (x : Queue) : State :=
  s.setCore c { s.core c with queues := (s.core c).queues.put q x }
/-- Whether the queue that an id of this device names is live in the same generation. -/
def State.qidLive (s : State) (q : Nat) : Bool :=
  let x := s.queue (qidCore q) (qidIndex q)
  x.live && decide (x.gen = qidGen q)

/-- The channel number of an operand. -/
def channelOf : Operand → Option Nat
  | .chan n => some n.toNat
  | .pop n => some n.toNat
  | _ => none

/-- The channel check of one use: the word of a CHANNEL trap (R321). -/
def channelBreach (s : State) (g : Group) (u : Use) : Option Nat :=
  match channelOf u.o with
  | none => none
  | some c =>
    match g.chans.read none c with
    | none => some 1
    | some b =>
      if u.dst then none
      else if !b.pop then some 2
      else if !s.qidLive b.qid then some 3
      else none

/-- The first channel breach. -/
def channelBreaches (s : State) (g : Group) : List Use → Option Nat
  | [] => none
  | u :: r =>
    match channelBreach s g u with
    | some w => some w
    | none => channelBreaches s g r

/-- Whether an operation's destination meets vector or scalar registers. -/
def Op.writes (o : Op) (vs ss : List Nat) : Bool :=
  match o.dst with
  | .v r w => vs.any fun x => decide (r ≤ x ∧ x < r + w)
  | .s r w => ss.any fun x => decide (r ≤ x ∧ x < r + w)
  | .none => false
  | .chan _ _ => false

/-- The deferred trap of a faulted operation, taken at the stopping instruction (R200). -/
def Op.deferred (o : Op) (f : Nat × Nat × Nat × Nat) : Trap :=
  ⟨f.1, some f.2.1, 1, some f.2.2.1, f.2.2.2, some o.pc, false, false⟩

/-- Whether an operation's destination is a queue that a use names (R200, R317). -/
def Op.pushesTo (g : Group) (us : List Use) (o : Op) : Bool :=
  match o.dst with
  | .chan _ q => us.any fun u => match channelOf u.o with
    | some c => (g.chans.read none c).any fun b => decide (b.qid = q)
    | none => false
  | _ => false

/-- A faulted operation behind which another cannot complete: an earlier one of the mem counter and, for an acquire, a fill
(R25, R200, R220). -/
def Group.stuckBehind (g : Group) (o : Op) : Option Op :=
  g.ops.find? fun e => decide (e.seq < o.seq) && !e.done && e.fault.isSome && decide (o.cls = .mem) &&
    (decide (e.cls = .mem) || decide (e.kind = .matrix true ∧ o.order % 2 = 1))

/-- Waits for an operation: one that has faulted stops the group (R200). -/
def awaitOp (o : Op) : Go Unit :=
  match o.fault with
  | some f => .error (.trap (o.deferred f))
  | none => .error .block

/-- Whether a use of operands waits for an operation: one that writes a register of theirs, or a faulted one whose queue they
name (R45, R200). -/
def Op.inWayOf (g : Group) (us : List Use) (o : Op) : Bool :=
  !o.done && (o.writes (us.flatMap (Use.vregs g)) (us.flatMap Use.sregs) || (o.fault.isSome && o.pushesTo g us))

/-- A use of the destination of an outstanding load, atomic, TMV or copy waits for it, and stops the group when it has
faulted (R150, R200, R307); a held transfer stops the group elsewhere (R309). A push to or a pop from the queue of a faulted
load stops it too (R200, R317). DEDUCED (log 151): so does a use of a load that cannot complete behind a faulted one, since
loads complete in issue order (R25). -/
def scoreboard (g : Group) (us : List Use) : Go Unit :=
  match g.ops.find? (Op.inWayOf g us) with
  | none => .ok ()
  | some o => if o.cls = .copy then .error .block else awaitOp ((g.stuckBehind o).getD o)

/-- A key of the register code: vector registers by number, scalar registers from 2000, the predicate set 3000, the
heddle set 3001 (R95). -/
def codeKeys (g : Group) (us : List Use) : List Nat :=
  us.flatMap fun u => Use.vregs g u ++ u.sregs.map (2000 + ·)

/-- The data bytes of a register's code word, by its key: a vector register's 32 words, a scalar register's word, the
predicate set's or the heddle set's words (R95). -/
def Group.codeData (g : Group) (k : Nat) : Bytes :=
  if k < 2000 then g.vregLine k
  else if k < 3000 then leBytes 4 (g.sreg (k - 2000)).toNat
  else if k = 3000 then (List.range 15).flatMap fun i => leBytes 4 (g.preg i).toNat
  else (List.range 12).flatMap fun i => leBytes 4 (g.heddle i).toNat

/-- The generator polynomial of the code, (x − g^0)(x − g^1)(x − g^2)(x − g^3) over GF(2^8) under 0x11D, without its
leading 1 and highest power first (R95). -/
def rsGenerator : List Byte :=
  ((List.range 4).foldl (fun p i => (p ++ [0#8]).zipWith (· ^^^ ·) (0#8 :: p.map fun c => gfMul c (gfShift i 1#8))) [1#8]).drop 1

/-- The 4 check bytes of data bytes: the remainder of the data, its first byte the highest power, over the generator
polynomial (R95). -/
def rsCheck (data : Bytes) : Bytes :=
  data.foldl (fun st d =>
    let f := d ^^^ st.headD 0#8
    (st.drop 1 ++ [0#8]).zipWith (· ^^^ ·) (rsGenerator.map fun c => gfMul c f)) (zeros 4)

/-- A syndrome of a code word: its value at g^j, zero for each of the four roots in a word without error (R95). -/
def rsSyndrome (word : Bytes) (j : Nat) : Byte := word.foldl (fun x b => gfMul x (gfShift j 1#8) ^^^ b) 0#8

/-- A register's code word as the register file stores it: the data and check bytes of its value, changed by the errors
that it has suffered (R95, R96). -/
def Group.storedWord (g : Group) (k : Nat) : Bytes :=
  let data := g.codeData k
  ((data ++ rsCheck data).zipIdx).map fun e =>
    ((g.regErr.read [] k).filter (·.1 = e.2)).foldl (fun x p => x ^^^ p.2) e.1

/-- Decodes registers that are read (R96): up to two wrong bytes are corrected, the corrected word is written back and a
grade-A event counted, and the instruction issues anew; with more, the register is marked poisoned and the reader traps. -/
def readCodes (s : State) : List Nat → Go State
  | [] => .ok s
  | k :: r =>
    let g := s.me
    if g.poison.contains k then trapO causeRegister
    else if (g.regErr.read [] k).isEmpty then readCodes s r
    else if 2 < g.wrongBytes k then .error (.trapIn (Trap.precise causeRegister none) (s.setMe { g with poison := k :: g.poison }))
    else .error (.anew ((s.setMe { g with regErr := g.regErr.erase k }).logEvent (some (unitCore g.core)) (eventRec 1 0 0)))

/-- Register lines that must be present before the instruction proceeds (R380, R381). -/
def presentOr (g : Group) : List Nat → Go Unit
  | [] => .ok ()
  | r :: rs => if g.absent.contains r then .error (.miss r) else presentOr g rs

/-- What an instruction asks of the checks of R45. -/
structure Pre where
  /-- 0 takes no IMX, 1 an immediate (FI), 2 an offset (FM, FA, named F3 members) (R36) -/
  imx : Nat
  /-- the operand fields used, in field order d, a, b -/
  uses : List Use
  /-- predicate and heddle sets read (R95) -/
  codes : List Nat
  /-- vector execution; false is scalar -/
  vec : Bool
  /-- a vector-class source may meet a scalar execution (R39) -/
  mixed : Bool
  /-- a member of LANE: it issues to a vector pipe whatever its destination (R89) -/
  lane : Bool
  /-- field values that are legal (step 1) -/
  legal : Bool
  /-- operand classes that the class chapter asks for (step 2) -/
  operandOk : Bool
  /-- privilege present where it is needed (step 3) -/
  privOk : Bool
  /-- allowed to the group's role (step 4) -/
  roleOk : Bool
  /-- the bundle of a collective instruction is as it must be (step 5) -/
  bundleOk : Bool
  /-- allowed inside a region (R269) -/
  inRegion : Bool
  /-- the destination is written in all 32 lanes whatever the bundle: never a merge (R261) -/
  whole : Bool
  deriving DecidableEq, Repr

/-- A pipe or control instruction without further conditions. -/
def Pre.plain (g : Group) (imx : Nat) (d : Operand) (uses : List Use) : Pre :=
  ⟨imx, uses, [], execVec g d (uses.filterMap fun u => if u.dst then none else some u.o), false, false, true, true, true,
    true, true, true, false⟩

/-- The IMX word before an instruction that does not take it, or with a bad field, is ILLEGAL (R36). -/
def imxOk (g : Group) (kind : Nat) : Bool :=
  match g.imx with
  | none => true
  | some i =>
    match kind with
    | 0 => false
    | 1 => decide (i.toNat / 2 ^ 21 = 0)
    | _ => true

/-- A channel pop or push in an operand field (R269). -/
def usesChannel (us : List Use) : Bool :=
  us.any fun u => match u.o with
    | .pop _ => true
    | .chan _ => u.dst
    | _ => false

/-- Destinations written by fewer than 32 lanes are merged, so their old line is read (R86, R97). -/
def mergedRegs (g : Group) (lanes : List Nat) (us : List Use) : List Nat :=
  if lanes.length = 32 then [] else (us.filter (·.dst)).flatMap (Use.vregs g)
/-- The registers that an instruction's result merges into. -/
def Pre.merged (p : Pre) (g : Group) : List Nat := if p.whole then [] else mergedRegs g g.bundle p.uses

/-- Destinations whose line the open region's checkpoint has not copied yet: it is copied before the first write
(R284). -/
def uncopied (g : Group) (us : List Use) : List Nat :=
  match g.reg.ckpt with
  | none => []
  | some c => ((us.filter (·.dst)).flatMap (Use.vregs g)).filter fun r => c.absent.contains r

/-- The checks of R45 in their order, then the waits for registers, then the region check of step 7. DESIGN CHOICE (log 165): where the
decoding of R96 stands, after the waits and before step 7. -/
def Pre.check (p : Pre) (s : State) : Go State := do
  let g := s.me
  let srcs := p.uses.filter fun u => !u.dst
  must (imxOk g p.imx && p.legal) causeIllegal
  must (p.uses.all (Use.ok g) && p.operandOk && (p.vec || p.mixed || srcs.all fun u => !(isVec g u.o))) causeOperand
  must p.privOk causePriv
  must p.roleOk causeRole
  must p.bundleOk causeConv
  match windowBreach g p.uses with
  | some w => trapW causeWindow w
  | none =>
    match channelBreaches s g p.uses with
    | some w => trapW causeChannel w
    | none => do
      scoreboard g p.uses
      let merged := p.merged g
      presentOr g (srcs.flatMap (Use.vregs g) ++ merged ++ uncopied g p.uses)
      let s ← readCodes s (codeKeys g srcs ++ merged ++ p.codes)
      mustW (g.reg.nest = 0 || (p.inRegion && !usesChannel p.uses)) causeRegion 2
      .ok s

-- Reading ---------------------------------------------------------------------------------------------------------

/-- Word `i` of an operand in lane `l` (R38, R40). Channels are read by `takeEntries`. -/
def Group.wordAt (g : Group) (o : Operand) (i l : Nat) : Word :=
  match o with
  | .v n => g.vreg (g.wb + n.toNat + i) l
  | .s n => g.sreg (n.toNat + i)
  | .k n => match g.latches[n.toNat]? with
    | some x => x.vals.getD l 0#32
    | none => 0#32
  | .laneid => BitVec.ofNat 32 l
  | .groupid => BitVec.ofNat 32 g.groupid
  | .teamid => BitVec.ofNat 32 g.teamid
  | .clrank => BitVec.ofNat 32 g.clrank
  | .dieid => BitVec.ofNat 32 (dieOf g.core)
  | .link => BitVec.ofNat 32 (g.lane l).link.toNat
  | .zero => 0#32
  | .chan _ => 0#32
  | .pop _ => 0#32

/-- The value of an operand of `w` words in lane `l`, low word first (R40). -/
def Group.wide (g : Group) (o : Operand) (w l : Nat) : Nat :=
  (List.range w).foldr (fun i r => (g.wordAt o i l).toNat + 2 ^ 32 * r) 0

/-- The common value of a scalar operand. -/
def Group.scalar (g : Group) (o : Operand) : Word := g.wordAt o 0 g.first

/-- The common value of a scalar pair. -/
def Group.scalar64 (g : Group) (o : Operand) : Nat := g.wide o 2 g.first

/-- Entries at a queue's head that a group does not see: those reserved for another one's instruction, which waits inside
itself (R316). -/
def Queue.hidden (x : Queue) (k : Nat) : Nat := if x.waiters.head? = some k then 0 else x.taken

/-- Takes or peeks the `n` oldest entries of a channel's queue (R316). `before` is the machine before this instruction's
pops, which a peek does not see as gone, and whose order of waiting they keep; a trap at an entry that the bank store cannot
correct removes that entry alone. -/
def takeEntries (s : State) (c n : Nat) (pop : Bool) (before : State) : Go (State × List Word) :=
  match s.me.chans.read none c with
  | none => trapW causeChannel 1
  | some b =>
    let core := qidCore b.qid
    let q := qidIndex b.qid
    let x := if pop then s.queue core q else before.queue core q
    let turn := match (before.queue core q).waiters with
      | [] => true
      | w :: _ => decide (w = s.cur)
    let seen := x.entries.drop ((before.queue core q).hidden s.cur)
    if seen.length < n ∨ (pop ∧ !turn) then (if pop then .error (.queue core q) else .error .block)
    else
      let es := seen.take n
      if pop && es.any (·.2) then .error (.trapIn (Trap.precise causePoison none) (before.setQueue core q { before.queue core q with
          entries := dropFirst (·.2) (before.queue core q).entries }))
      else if pop then
        .ok (s.setQueue core q { x with entries := x.entries.drop n, waiters := x.waiters.filter (· ≠ s.cur), taken := 0 },
          es.map (·.1))
      else .ok (s, es.map (·.1))

/-- The queue that a pop takes from: core and queue. -/
def Group.popQueue (g : Group) : Operand → Option (Nat × Nat)
  | .pop n => (g.chans.read none n.toNat).map fun b => (qidCore b.qid, qidIndex b.qid)
  | _ => none

/-- The entries that an instruction's pops take, each operand with its number, stay reserved for it while it waits inside
itself: it stands first among those that wait for them, no other peek or pop sees them, and they are removed at its
write-back (R316). -/
def State.reservePops (s : State) (us : List (Operand × Nat)) : State :=
  let ps := us.filterMap fun u => (s.me.popQueue u.1).map fun q => (q, u.2)
  ps.foldl (fun s p =>
    let x := s.queue p.1.1 p.1.2
    let n := (ps.filter fun e => e.1 = p.1).foldl (fun n e => n + e.2) 0
    s.setQueue p.1.1 p.1.2 { x with waiters := s.cur :: x.waiters.filter (· ≠ s.cur), taken := n }) s

/-- The operands of an instruction whose sources are all read for one lane. -/
def onceEach (us : List Use) : List (Operand × Nat) := us.map fun u => (u.o, 1)

/-- The words of one source in the executing lanes. -/
def readSource (before s : State) (lanes : List Nat) (o : Operand) : Go (State × List Word) :=
  match o with
  | .chan n => takeEntries s n.toNat lanes.length false before
  | .pop n => takeEntries s n.toNat lanes.length true before
  | o => .ok (s, lanes.map fun l => s.me.wordAt o 0 l)

/-- The words of several sources, in order: a before b (R316). -/
def readSources (before : State) (lanes : List Nat) : State → List Operand → Go (State × List (List Word))
  | s, [] => .ok (s, [])
  | s, o :: r => do
    let (s, x) ← readSource before s lanes o
    let (s, xs) ← readSources before lanes s r
    .ok (s, x :: xs)

/-- The lanes that execute: the bundle in vector execution, its lowest lane in scalar execution. -/
def Group.execLanes (g : Group) (vec : Bool) : List Nat := if vec then g.bundle else g.bundle.take 1

-- Double pick -----------------------------------------------------------------------------------------------------

/-- Slots in service of a pipe, ascending: 0 to 3 are vector pipes, 4 the scalar pipe (R89, R92). -/
def Core.slotsOf (c : Core) (pipe : Nat) : List Nat :=
  (List.range (if pipe = 4 then 2 else 16)).filter fun j => !c.slotRetired.contains (16 * pipe + j)

/-- Vector pipes in service. -/
def Core.pipes (c : Core) : List Nat := (List.range 4).filter fun p => !c.pipesOff.contains p

/-- One value as a pipe slot computes it: exact, or changed by a computation error of the environment (R91). -/
def slotValue (errs : List PipeErr) (pipe slot x : Nat) : List PipeErr × Nat :=
  match errs.find? fun e => e.pipe = pipe ∧ e.slot = slot with
  | none => (errs, x)
  | some e =>
    let rest := dropFirst (fun e => e.pipe = pipe ∧ e.slot = slot) errs
    ((if 1 < e.count then rest ++ [{ e with count := e.count - 1 }] else rest), x ^^^ e.pat.toNat)

/-- One pass: each value at its slot. -/
def pass (errs : List PipeErr) : List (Nat × Nat × Nat) → List PipeErr × List Nat
  | [] => (errs, [])
  | (pipe, slot, x) :: r =>
    let (errs, y) := slotValue errs pipe slot x
    let (errs, ys) := pass errs r
    (errs, y :: ys)

/-- The slot position of R89 and R90: the i-th lane, rotated by `rot`. -/
def slotAt (slots : List Nat) (i rot : Nat) : Nat := slots.getD ((i + rot) % Nat.max slots.length 1) 0

/-- Adds a charge to a slot; at RETIRE_AT the slot retires, then the pipe, then the core (R92). DESIGN CHOICE: a slot
retires when a charge brings its count to RETIRE_AT, so a count that stands at or above it already, because RETIRE_AT was
lowered or the count was written, retires nothing. -/
def State.chargeSlot (s : State) (c pipe slot : Nat) : State :=
  let core := s.core c
  let reg := 0x126 + pipe
  let v := core.sysv reg
  let n := bitsOf v (4 * slot) 4
  let n' := if n < 15 then n + 1 else 15
  let core := core.setSys reg (v - n * 2 ^ (4 * slot) + n' * 2 ^ (4 * slot))
  let s := s.setCore c core
  let at' := bitsOf (core.sysv 0x120) 2 4
  if at' = 0 ∨ n' ≠ at' ∨ core.slotRetired.contains (16 * pipe + slot) then s
  else
    let core : Core := { s.core c with slotRetired := core.slotRetired ++ [16 * pipe + slot] }
    let off := decide (pipe < 4) && decide ((core.slotsOf pipe).length < 8)
    let core := if off then { core with pipesOff := core.pipesOff ++ [pipe] } else core
    let core := { core with coreOff := core.pipes.isEmpty }
    (s.setCore c core).logEvent (some (unitCore c)) (eventRec 2 0 0)

/-- One lane of a mismatch: its results in the three passes, and its slots of the first and the second pass, each a pipe
and a slot (R91). -/
structure PassRow where
  first : Nat
  second : Nat
  third : Nat
  slot1 : Nat × Nat
  slot2 : Nat × Nat
  deriving DecidableEq, Repr

/-- Resolves a mismatch by the third pass, lane by lane: the result that two passes agree on, with a charge to the slot of
the third; a lane without one traps, and the charges of the lanes before it stand (R91). -/
def State.resolve (s : State) (c : Nat) : List PassRow → Go (State × List Nat)
  | [] => .ok (s, [])
  | x :: r =>
    if x.first = x.second then (s.resolve c r).map fun y => (y.1, x.first :: y.2)
    else if x.third = x.first then ((s.chargeSlot c x.slot2.1 x.slot2.2).resolve c r).map fun y => (y.1, x.first :: y.2)
    else if x.third = x.second then ((s.chargeSlot c x.slot1.1 x.slot1.2).resolve c r).map fun y => (y.1, x.second :: y.2)
    else .error (.trapIn (Trap.precise causeMismatch none) s)

/-- The results of a pipe instruction after its passes (R89 to R93). `xs` holds the exact result of each executing
lane. DESIGN CHOICE, where the spec names no pipe or slot: a mismatch of a vector instruction with no other vector pipe in
service traps COMPUTE_MISMATCH; slot 0 of vector pipe 0, where a scalar instruction needs it and it is retired, is the
pipe's lowest slot in service, else slot 0; with both scalar slots retired the first pass runs in scalar slot 0; and the one
result of a LANE member that is computed once stands at slot position 0. -/
def State.doublePick (s : State) (vec : Bool) (xs : List Nat) : Go (State × List Nat) :=
  let c := s.me.core
  let core := s.core c
  if core.pipeErr.isEmpty then .ok (s, xs)
  else
    let ctl := core.sysv 0x120
    let p := core.pipes.headD 0
    let vs := core.slotsOf p
    let ss := core.slotsOf 4
    let place1 := fun i => if vec then (p, slotAt vs i 0) else (4, ss.headD 0)
    let place2 := fun i => if vec then (p, slotAt vs i 1)
      else if ss.length < 2 then (0, (core.slotsOf 0).headD 0) else (4, ss.getD 1 1)
    let q := if vec then (core.pipes.drop 1).headD p else 0
    let qs := core.slotsOf q
    let idx := xs.zipIdx
    let (errs, first) := pass core.pipeErr (idx.map fun e => let k := place1 e.2; (k.1, k.2, e.1))
    if !bitOf ctl 0 then .ok (s.setCore c { core with pipeErr := errs }, first)
    else
      let (errs, second) := pass errs (idx.map fun e => let k := place2 e.2; (k.1, k.2, e.1))
      let s := s.setCore c { core with pipeErr := errs }
      if first = second then .ok (s, first)
      else if !bitOf ctl 1 ∨ (vec ∧ core.pipes.length < 2) then .error (.trapIn (Trap.precise causeMismatch none) s)
      else
        let (errs, third) := pass errs (idx.map fun e => (q, slotAt qs e.2 0, e.1))
        let s := s.setCore c { s.core c with pipeErr := errs }
        let rows := (first.zip (second.zip third)).zipIdx.map fun e =>
          (⟨e.1.1, e.1.2.1, e.1.2.2, place1 e.2, place2 e.2⟩ : PassRow)
        (s.resolve c rows).map fun y => (y.1.logEvent (some (unitCore c)) (eventRec 1 0 0), y.2)

/-- The results of a pipe instruction whose sources have been read. `before` is the machine before that: a COMPUTE_MISMATCH
cancels what its pops have reserved, and leaves the entries at the head of their queues (R91, R316). -/
def State.picked (before s : State) (vec : Bool) (xs : List Nat) : Go (State × List Nat) :=
  match s.doublePick vec xs with
  | .ok r => .ok r
  | .error e => match before.doublePick vec xs with
    | .ok _ => .error e
    | .error e => .error e

-- Writing ---------------------------------------------------------------------------------------------------------

/-- A register write covers 32 lanes: the line is allocated whole and replaces a poisoned one (R96, R380). -/
def Group.fullLine (g : Group) (r : Nat) : Group :=
  { g with absent := g.absent.filter (· ≠ r), lines := g.lines.filter (· ≠ r), poison := g.poison.filter (· ≠ r), regErr := g.regErr.erase r }

/-- Writes one word of a vector register in some lanes. -/
def Group.writeLanes (g : Group) (r : Nat) (lanes : List Nat) (xs : List Word) : Group :=
  let g := if lanes.length = 32 then g.fullLine r else g
  (lanes.zip xs).foldl (fun g e => g.setVreg r e.1 e.2) g

/-- The place of a push in its group's issue order (R318): that of the load whose result it pushes, else its own. -/
def Op.pushPlace (o : Op) : Nat := if o.scope = 0 then o.seq else o.scope - 1

/-- Whether a push of a group to a queue waits for an earlier one (R318): a push on its way, or a load or an atomic whose
result goes to the queue. -/
def Group.pushBefore (g : Group) (place qid : Nat) : Bool :=
  g.ops.any fun o => !o.done && (match o.kind, o.dst with
    | .push q _ _, _ => decide (q = qid) && decide (o.pushPlace < place)
    | _, .chan _ q => decide (q = qid) && decide (o.seq < place)
    | _, _ => false)

/-- Entries of a queue that loads and atomics have reserved for their results (R317). -/
def State.reserved (s : State) (qid : Nat) : Nat :=
  (s.groups.map fun e => (e.2.ops.map fun o => match o.dst with
    | .chan _ q => if q = qid ∧ !o.done then o.accs.length else 0
    | _ => 0).foldl (· + ·) 0).foldl (· + ·) 0

/-- Remote pushes of a group, and loads and atomics that will make one (R318). -/
def State.pushesOut (s : State) (g : Group) : Nat :=
  (g.ops.filter fun o => !o.done && (match o.kind, o.dst with
    | .push _ _ _, _ => true
    | _, .chan _ q => !(s.qidHere q && decide (qidCore q = g.core))
    | _, _ => false)).length

/-- A push is refused (R319): the fence status and its binding, if the channel still has it, take it. -/
def State.refusePush (s : State) (c qid : Nat) : State :=
  let g := s.me
  s.setMe { g with
    fence := fenceAdd g.fence 2
    chans := match g.chans.read none c with
      | some b => if b.qid = qid then g.chans.put c (some { b with failed := Nat.min 255 (b.failed + 1) }) else g.chans
      | none => g.chans }

/-- Pushes entries to a queue (R317, R318): at once on the issuing core, as an operation of the msg counter elsewhere. For the
result of a load, `load` is its place in issue order; the load has reserved its entries. DESIGN CHOICE (log 112): a local
push that an earlier push of its group to the queue has still to precede blocks its bundle. -/
def State.pushTo (s : State) (c qid : Nat) (xs : List Word) (cls : Nat) (load : Option Nat) : Go State :=
  let g := s.me
  let core := qidCore qid
  let q := s.queue core (qidIndex qid)
  if s.qidHere qid && decide (core = g.core) then
    if !s.qidLive qid then .ok (s.refusePush c qid)
    else if g.pushBefore (load.getD g.seq) qid then .error .block
    else if load.isNone ∧ 2 ^ q.logcap < q.entries.length + s.reserved qid + xs.length then .error .block
    else .ok (s.setQueue core (qidIndex qid) { q with entries := q.entries ++ xs.map fun x => (x, false) })
  else if (load.isNone ∧ 16 ≤ s.pushesOut g) ∨ 4095 ≤ g.outstanding .msg then .error .block
  else
    .ok (s.setMe { g with
      ops := g.ops ++ [{ Op.base g.seq .msg (.push qid xs cls) g.pc with code := c, scope := load.elim 0 (· + 1) }]
      seq := g.seq + 1 })

/-- Pushes entries through a channel. -/
def State.push (s : State) (c : Nat) (xs : List Word) (cls : Nat) : Go State :=
  match s.me.chans.read none c with
  | none => trapW causeChannel 1
  | some b => s.pushTo c b.qid xs cls none

/-- A load or an atomic with a channel destination takes `n` free entries at issue, or one of the places of remote pushes;
while there are too few, it blocks (R317, R318). -/
def State.chanRoom (s : State) (d : Dst) (n : Nat) : Go Unit :=
  match d with
  | .chan _ qid =>
    let q := s.queue (qidCore qid) (qidIndex qid)
    if s.qidHere qid && decide (qidCore qid = s.me.core) then
      awaits (!s.qidLive qid || decide (q.entries.length + s.reserved qid + n ≤ 2 ^ q.logcap))
    else awaits (decide (n = 0) || decide (s.pushesOut s.me < 16))
  | _ => .ok ()

/-- Writes a 32-bit result of the executing lanes to a destination field (R38, R317). -/
def State.writeResult (s : State) (d : Operand) (lanes : List Nat) (xs : List Word) : Go State :=
  match d with
  | .v n => .ok (s.setMe (s.me.writeLanes (s.me.wb + n.toNat) lanes xs))
  | .s n => .ok (s.setMe (s.me.setSreg n.toNat (xs.headD 0#32)))
  | .chan n => s.push n.toNat xs 1
  | _ => .ok s

/-- Word `i` of a wide value. -/
def wordOf (x i : Nat) : Word := BitVec.ofNat 32 (x / 2 ^ (32 * i))

/-- Writes a result of `w` words to a destination field: register groups and zero only (R40). -/
def Group.writeWide (g : Group) (d : Operand) (w : Nat) (lanes : List Nat) (xs : List Nat) : Group :=
  match d with
  | .v n => (List.range w).foldl (fun g i => g.writeLanes (g.wb + n.toNat + i) lanes (xs.map fun x => wordOf x i)) g
  | .s n => (List.range w).foldl (fun g i => g.setSreg (n.toNat + i) (wordOf (xs.headD 0) i)) g
  | _ => g

-- The end of an instruction ---------------------------------------------------------------------------------------

/-- The latch marks that an instruction's sources read. -/
def readTags (g : Group) (us : List Use) : List Nat :=
  us.filterMap fun u => match u.o with
    | .k n => (g.latches[n.toNat]?).map (·.tag)
    | _ => none

/-- The open run after one more instruction (R82): closed when every nw = 1 result has been read, after the third
instruction past the latest nw = 1 producer, or after the eighth. -/
def LatchRun.step (r : LatchRun) (nw : Bool) (tag : Nat) (read : List Nat) : Option LatchRun × Bool :=
  let unread := (r.unread.filter fun t => !read.contains t) ++ (if nw then [tag] else [])
  let since := if nw then 0 else r.since + 1
  let count := r.count + 1
  if unread.isEmpty ∨ since = 3 ∨ count = 8 then (none, decide (count = 8) && !unread.isEmpty)
  else (some { r with unread := unread, since := since, count := count }, false)

/-- The run after an instruction: opened by an nw = 1 producer, or one step on. `g0` is the group as it issued. -/
def Group.countRun (g g0 : Group) (nw : Bool) (read : List Nat) : Group :=
  match g.run with
  | some r =>
    if r.closed then { g with run := none, runFull := false }
    else
      let (run, full) := r.step nw g0.nextTag read
      { g with run := run, runFull := full }
  | none =>
    if nw then { g with run := some ⟨g0.pc, maskOfLanes g0.bundle, 1, 0, [g0.nextTag], g0.sr, false⟩, runFull := false }
    else { g with runFull := false }

/-- A producer shifts the latches (R80). -/
def Group.shift (g : Group) (nw vec : Bool) (vals : List Word) : Group :=
  let x : Latch := ⟨vec, vals, if nw then g.nextTag else 0⟩
  { g with latches := x :: g.latches.take 3, nextTag := g.nextTag + 1 }

/-- The bundle's lanes go to the word after the instruction. -/
def Group.advance (g : Group) (lanes : List Nat) : Group :=
  { g.mapLanes lanes (fun x => { x with pc := g.nextPc x.pc }) with imx := none, aged := none }

/-- Notes the step at which the lines of vector operands were used (R380). -/
def Group.touch (g g0 : Group) (us : List Use) (n : Nat) : Group :=
  { g with used := (us.flatMap (Use.vregs g0)).foldl (fun t r => t.put r n) g.used }

/-- The end of an instruction that is no latch producer and no control instruction. -/
def State.finish (s : State) (g0 : Group) (us : List Use) : State :=
  let g := s.me.advance g0.bundle
  s.setMe ((g.countRun g0 false (readTags g0 us)).touch g0 us (s.tick + 1))

/-- The end of a pipe instruction with a 32-bit result. It shifts the latches when it is a producer: when it writes, or
with nw = 1 would write, a register through its d field (R80). `vals` are the results of the executing lanes. -/
def State.finishPipe (s : State) (g0 : Group) (us : List Use) (nw vec : Bool) (d : Operand) (lanes : List Nat)
    (vals : List Word) : State :=
  let all := (List.range 32).map fun l => if vec then
      (match (lanes.zip vals).find? fun e => e.1 = l with
        | some e => e.2
        | none => 0#32)
    else vals.headD 0#32
  let g := (if nw || isReg d then s.me.shift nw vec all else s.me).advance g0.bundle
  s.setMe ((g.countRun g0 nw (readTags g0 us)).touch g0 us (s.tick + 1))

/-- A control or heddle instruction ends an open run and makes the latches invalid (R81, R84). -/
def Group.control (g : Group) : Group := { g with latches := [], run := none, runFull := false }

/-- The end of a control or heddle instruction whose lanes all go to the next word. -/
def State.finishControl (s : State) (g0 : Group) : State := s.setMe (s.me.advance g0.bundle).control

/-- An nw = 1 producer after a run that closed at its eighth instruction with a result unread is ILLEGAL (R82). -/
def runLegal (g : Group) (nw : Bool) : Bool := !(nw && g.run.isNone && g.runFull)

/-- A pipe instruction with a 32-bit result: checks, sources, result, double pick, write-back, latches.
`f` gives the results of the executing lanes from the words of the sources. -/
def State.pipe (s : State) (p : Pre) (nw : Bool) (d : Operand) (srcs : List Operand)
    (f : Group → List Nat → List (List Word) → List Word) : Go State := do
  let g0 := s.me
  let s ← { p with legal := p.legal && runLegal g0 nw }.check s
  let lanes := g0.execLanes p.vec
  let s0 := s
  let (s, xs) ← readSources s lanes s srcs
  let (s, ys) ← s0.picked s (p.vec || p.lane) ((f g0 lanes xs).map (·.toNat))
  let ws := ys.map (BitVec.ofNat 32)
  let s ← s.writeResult d lanes ws
  .ok (s.finishPipe g0 p.uses nw p.vec d lanes ws)

/-- The words of the sources, lane by lane. -/
def perLane (f : List Word → Word) (lanes : List Nat) (xs : List (List Word)) : List Word :=
  (List.range lanes.length).map fun i => f (xs.map fun x => x.getD i 0#32)

/-- The values of sources of one or more words in the executing lanes (R40). -/
def readWides (before : State) (lanes : List Nat) : State → List (Operand × Nat) → Go (State × List (List Nat))
  | s, [] => .ok (s, [])
  | s, (o, w) :: r => do
    let (s, x) ← if w = 1 then (do
        let (s, x) ← readSource before s lanes o
        .ok (s, x.map (·.toNat))) else .ok (s, lanes.map fun l => s.me.wide o w l)
    let (s, xs) ← readWides before lanes s r
    .ok (s, x :: xs)

/-- A pipe instruction whose destination is `w` words wide and which is no latch producer (R80, R106). -/
def State.pipeWide (s : State) (p : Pre) (d : Operand) (w : Nat) (srcs : List (Operand × Nat))
    (f : List Nat → Nat) : Go State := do
  let g0 := s.me
  let s ← p.check s
  let lanes := g0.execLanes p.vec
  let s0 := s
  let (s, xs) ← readWides s lanes s srcs
  let (s, ys) ← s0.picked s p.vec ((List.range lanes.length).map fun i => f (xs.map fun x => x.getD i 0))
  .ok ((s.setMe (s.me.writeWide d w lanes ys)).finish g0 p.uses)

/-- The immediate of an FI instruction: extended from 11 bits, or with IMX the 21 bits above it (R35, R36). -/
def immediate (g : Group) (signed : Bool) (i : BitVec 11) : Word :=
  match g.imx with
  | some x => BitVec.ofNat 32 (x.toNat % 2 ^ 21 * 2 ^ 11 + i.toNat)
  | none => if signed then i.signExtend 32 else i.setWidth 32

/-- The byte offset of an instruction that takes one (R36). -/
def Group.offset (g : Group) : Int :=
  match g.imx with
  | some x => x.toInt
  | none => 0

/-- An instruction `op d, a, b` on 32-bit words (R99). -/
def State.alu2 (s : State) (nw : Bool) (d a b : Operand) (f : Word → Word → Word) :
    Host.Outcome State Fault Refusal :=
  s.run fun s => s.pipe (Pre.plain s.me 0 d [dst d, src a, src b]) nw d [a, b] fun _ => perLane fun
    | [x, y] => f x y
    | _ => 0#32

/-- An instruction `op d, a` on 32-bit words. -/
def State.alu1 (s : State) (nw : Bool) (d a : Operand) (f : Word → Word) : Host.Outcome State Fault Refusal :=
  s.run fun s => s.pipe (Pre.plain s.me 0 d [dst d, src a]) nw d [a] fun _ => perLane fun
    | [x] => f x
    | _ => 0#32

/-- An instruction `op d, a, imm` (R109). -/
def State.aluImm (s : State) (nw signed : Bool) (d a : Operand) (i : BitVec 11) (f : Word → Word → Word) :
    Host.Outcome State Fault Refusal :=
  s.run fun s =>
    let k := immediate s.me signed i
    s.pipe (Pre.plain s.me 1 d [dst d, src a]) nw d [a] fun _ => perLane fun
      | [x] => f x k
      | _ => 0#32

/-- An instruction that reads its d field as a third source: 0 with nw = 1 (R100). -/
def State.alu3 (s : State) (nw : Bool) (d a b : Operand) (f : Word → Word → Word → Word) :
    Host.Outcome State Fault Refusal :=
  s.run fun s =>
    let uses := if nw then [dst d, src a, src b] else [dst d, src a, src b, src d]
    s.pipe { Pre.plain s.me 0 d uses with operandOk := nw || isReg d } nw d [a, b, if nw then .zero else d]
      fun _ => perLane fun
        | [x, y, z] => f x y z
        | _ => 0#32

/-- Writes predicate bits of the bundle's lanes and no others (R107, R108). -/
def Group.writePred (g : Group) (n : Nat) (bits : List (Nat × Bool)) : Group :=
  g.setPreg n (maskOf fun l => match bits.find? fun e => e.1 = l with
    | some e => e.2
    | none => Word.has (g.preg n) l)

/-- A compare into a predicate: one bit per active lane, or one bit for all of them in scalar execution (R108). -/
def State.compare (s : State) (p : Pre) (n : Nat) (srcs : List (Operand × Nat)) (f : List Nat → Bool) : Go State := do
  let g0 := s.me
  let s ← p.check s
  let lanes := g0.execLanes p.vec
  let s0 := s
  let (s, xs) ← readWides s lanes s srcs
  let (s, ys) ← s0.picked s p.vec ((List.range lanes.length).map fun i => b2n (f (xs.map fun x => x.getD i 0)))
  let bits := if p.vec then lanes.zip (ys.map (·.testBit 0)) else g0.bundle.map fun l => (l, (ys.headD 0).testBit 0)
  .ok ((s.setMe (s.me.writePred n bits)).finish g0 p.uses)

end Sys2Proof.Machine
end

