-- ==== Sys2Proof/Machine/Flags.lean ====
section
/-! DEFINITION. The conditions that write predicate bits, and the predicate operations (R107, R108). Predicates are the
only flags of the Y7: no arithmetic instruction writes one. -/
namespace Sys2Proof.Machine

/-- The conditions of ICMP by code: eq, ne, lt, le, gt, ge signed; ltn, len, gtn, gen unsigned (R42, R108). `w` is the
width in bits. -/
def condition (w cond x y : Nat) : Bool :=
  let sx := sext w x
  let sy := sext w y
  let x := x % 2 ^ w
  let y := y % 2 ^ w
  match cond with
  | 0 => decide (x = y)
  | 1 => decide (x ≠ y)
  | 2 => decide (sx < sy)
  | 3 => decide (sx ≤ sy)
  | 4 => decide (sy < sx)
  | 5 => decide (sy ≤ sx)
  | 6 => decide (x < y)
  | 7 => decide (x ≤ y)
  | 8 => decide (y < x)
  | _ => decide (y ≤ x)

/-- The ICMP code of a CMPI condition: its code 7 is gen (R35). -/
def cmpiCode (c : Nat) : Nat := if c = 7 then 9 else c

/-- A predicate operation: bit l of the destination for each active lane l (R107). DESIGN CHOICE (log 166): it runs in a vector pipe;
R39 gives predicates no class. -/
def State.predOp (s : State) (d : BitVec 4) (f : Group → Nat → Bool) : Host.Outcome State Fault Refusal :=
  s.run fun s => do
    let g0 := s.me
    let p : Pre := { Pre.plain g0 0 .zero [] with vec := true, codes := [3000] }
    let s ← p.check s
    let (s, ys) ← s.doublePick true (g0.bundle.map fun l => b2n (f g0 l))
    .ok ((s.setMe (s.me.writePred d.toNat (g0.bundle.zip (ys.map (·.testBit 0))))).finish g0 [])

end Sys2Proof.Machine
end

