-- ==== Sys2Proof/Machine/Integer.lean ====
section
/-! DEFINITION. Selection, predicates, integer arithmetic, logic, bits, wide arithmetic, compares, moves and immediates
(04_integer.md, R101 to R109). -/
namespace Sys2Proof.Machine

-- The computations ------------------------------------------------------------------------------------------------

/-- |Signed(a)|, wrapping (R102). -/
def intAbs (a : Word) : Word := trunc32 a.toInt.natAbs
/-- Signed minimum. -/
def intMin (a b : Word) : Word := if a.toInt ≤ b.toInt then a else b
/-- Signed maximum. -/
def intMax (a b : Word) : Word := if a.toInt ≤ b.toInt then b else a
/-- Unsigned minimum. -/
def natMin (a b : Word) : Word := if a.toNat ≤ b.toNat then a else b
/-- Unsigned maximum. -/
def natMax (a b : Word) : Word := if a.toNat ≤ b.toNat then b else a
/-- |Signed(a) − Signed(b)|. -/
def intAbsDiff (a b : Word) : Word := trunc32 (a.toInt - b.toInt).natAbs
/-- A signed result clamped to 32 bits. -/
def satInt (x : Int) : Word := trunc32 (clamp (-2147483648) 2147483647 x)
/-- An unsigned result clamped to 32 bits. -/
def satNat (x : Int) : Word := trunc32 (clamp 0 4294967295 x)
/-- Byte i of a word. -/
def byteOf (a : Word) (i : Nat) : Nat := a.toNat / 2 ^ (8 * i) % 256
/-- The sum of the bytes' absolute differences (R102). -/
def sumAbsDiff (a b : Word) : Nat :=
  (List.range 4).foldl (fun r i => r + ((byteOf a i : Int) - (byteOf b i : Int)).natAbs) 0
/-- Shift left by Nat(b), 0 from 32 on (R103). -/
def shiftL (a b : Word) : Word := if b.toNat < 32 then a <<< b.toNat else 0#32
/-- Logical shift right. -/
def shiftR (a b : Word) : Word := if b.toNat < 32 then a >>> b.toNat else 0#32
/-- Arithmetic shift right, filled by the sign from 32 on. -/
def shiftA (a b : Word) : Word := trunc32 (a.toInt / (2 : Int) ^ (Nat.min b.toNat 32))
/-- Rotate left by c mod 32. -/
def rotL (a : Word) (c : Nat) : Word := (a <<< (c % 32)) ||| (a >>> ((32 - c % 32) % 64))
/-- DIV of R104. -/
def intDiv (a b : Word) : Word :=
  if b = 0#32 then 0xFFFFFFFF#32
  else if a = 0x80000000#32 ∧ b = 0xFFFFFFFF#32 then 0x80000000#32
  else trunc32 (a.toInt.tdiv b.toInt)
/-- DIVN of R104. -/
def natDiv (a b : Word) : Word := if b = 0#32 then 0xFFFFFFFF#32 else BitVec.ofNat 32 (a.toNat / b.toNat)
/-- REM of R104. -/
def intRem (a b : Word) : Word :=
  if b = 0#32 then a
  else if a = 0x80000000#32 ∧ b = 0xFFFFFFFF#32 then 0#32
  else trunc32 (a.toInt - b.toInt * a.toInt.tdiv b.toInt)
/-- REMN of R104. -/
def natRem (a b : Word) : Word := if b = 0#32 then a else BitVec.ofNat 32 (a.toNat % b.toNat)
/-- Bit i of a word. -/
def bit (a : Word) (i : Nat) : Bool := a.toNat.testBit i
/-- Leading zeros (R105). -/
def countLead (a : Word) : Word := BitVec.ofNat 32 (if a = 0#32 then 32 else 31 - a.toNat.log2)
/-- The lowest set bit from bit i on, over n bits. -/
def lowestBit (a : Word) : Nat → Nat → Nat
  | 0, i => i
  | n + 1, i => if bit a i then i else lowestBit a n (i + 1)
/-- Trailing zeros. -/
def countTrail (a : Word) : Word := BitVec.ofNat 32 (lowestBit a 32 0)
/-- The number of 1 bits. -/
def popCount (a : Word) : Word := BitVec.ofNat 32 ((List.range 32).filter (bit a)).length
/-- Bit i to bit 31 − i. -/
def bitRev (a : Word) : Word := maskOf fun i => bit a (31 - i)
/-- The position and width of a bit field (R105). -/
def field (b : Word) : Nat × Nat :=
  let pos := b.toNat % 32
  let len := Nat.min (b.toNat / 256 % 64) 32
  (pos, Nat.min len (32 - pos))
/-- BFE: the field, zero-extended. -/
def fieldGet (a b : Word) : Word := let (pos, w) := field b; BitVec.ofNat 32 (bitsOf a.toNat pos w)
/-- BFES: the field, sign-extended; 0 for no bits. -/
def fieldGetS (a b : Word) : Word :=
  let (pos, w) := field b
  if w = 0 then 0#32 else trunc32 (sext w (bitsOf a.toNat pos w))
/-- BFI: the low bits of a into the field of d. -/
def fieldPut (a b d : Word) : Word :=
  let (pos, w) := field b
  BitVec.ofNat 32 (d.toNat - bitsOf d.toNat pos w * 2 ^ pos + a.toNat % 2 ^ w * 2 ^ pos)
/-- One result byte of BMIX over the byte below it (R105). -/
def mixByte (a b d : Word) (i below : Nat) : Nat :=
  if bit b (8 + i) then byteOf d i
  else if bit b (12 + i) then (if i ≠ 0 ∧ 128 ≤ below then 255 else 0)
  else byteOf a (b.toNat / 2 ^ (2 * i) % 4)
/-- BMIX. -/
def mixBytes (a b d : Word) : Word :=
  let r0 := mixByte a b d 0 0
  let r1 := mixByte a b d 1 r0
  let r2 := mixByte a b d 2 r1
  let r3 := mixByte a b d 3 r2
  BitVec.ofNat 32 (r0 + 256 * r1 + 65536 * r2 + 16777216 * r3)

-- SEL and MOVE ----------------------------------------------------------------------------------------------------

/-- SEL (R101). -/
def execSel (nw : Bool) (d a b : Operand) (p : BitVec 4) (s : State) : Host.Outcome State Fault Refusal :=
  s.run fun s => s.pipe { Pre.plain s.me 0 d [dst d, src a, src b] with codes := [3000] } nw d [a, b] fun g lanes xs =>
    (lanes.zipIdx).map fun e =>
      match xs with
      | [x, y] => if Word.has (g.preg p.toNat) e.1 then x.getD e.2 0#32 else y.getD e.2 0#32
      | _ => 0#32
/-- MOV (R101). -/
def execMov (nw : Bool) (d a : Operand) (s : State) : Host.Outcome State Fault Refusal := s.alu1 nw d a fun x => x
/-- ACTIVE (R101, R110): a scalar destination takes the mask too. -/
def execActive (nw : Bool) (d : Operand) (s : State) : Host.Outcome State Fault Refusal :=
  s.run fun s => s.pipe (Pre.plain s.me 0 d [dst d]) nw d [] fun g lanes _ => lanes.map fun _ => maskOfLanes g.bundle

-- IARITH ----------------------------------------------------------------------------------------------------------

/-- ADD (R102). -/
def execAdd (nw : Bool) (d a b : Operand) (s : State) : Host.Outcome State Fault Refusal := s.alu2 nw d a b fun x y => x + y
/-- SUB (R102). -/
def execSub (nw : Bool) (d a b : Operand) (s : State) : Host.Outcome State Fault Refusal := s.alu2 nw d a b fun x y => x - y
/-- MIN (R102). -/
def execMin (nw : Bool) (d a b : Operand) (s : State) : Host.Outcome State Fault Refusal := s.alu2 nw d a b intMin
/-- MAX (R102). -/
def execMax (nw : Bool) (d a b : Operand) (s : State) : Host.Outcome State Fault Refusal := s.alu2 nw d a b intMax
/-- MINN (R102). -/
def execMinn (nw : Bool) (d a b : Operand) (s : State) : Host.Outcome State Fault Refusal := s.alu2 nw d a b natMin
/-- MAXN (R102). -/
def execMaxn (nw : Bool) (d a b : Operand) (s : State) : Host.Outcome State Fault Refusal := s.alu2 nw d a b natMax
/-- ABS (R102). -/
def execAbs (nw : Bool) (d a : Operand) (s : State) : Host.Outcome State Fault Refusal := s.alu1 nw d a intAbs
/-- ABSDIFF (R102). -/
def execAbsdiff (nw : Bool) (d a b : Operand) (s : State) : Host.Outcome State Fault Refusal := s.alu2 nw d a b intAbsDiff
/-- ADDSAT (R102). -/
def execAddsat (nw : Bool) (d a b : Operand) (s : State) : Host.Outcome State Fault Refusal :=
  s.alu2 nw d a b fun x y => satInt (x.toInt + y.toInt)
/-- SUBSAT (R102). -/
def execSubsat (nw : Bool) (d a b : Operand) (s : State) : Host.Outcome State Fault Refusal :=
  s.alu2 nw d a b fun x y => satInt (x.toInt - y.toInt)
/-- ADDSATN (R102). -/
def execAddsatn (nw : Bool) (d a b : Operand) (s : State) : Host.Outcome State Fault Refusal :=
  s.alu2 nw d a b fun x y => satNat (x.toNat + y.toNat)
/-- SUBSATN (R102). -/
def execSubsatn (nw : Bool) (d a b : Operand) (s : State) : Host.Outcome State Fault Refusal :=
  s.alu2 nw d a b fun x y => satNat ((x.toNat : Int) - y.toNat)
/-- SAD (R102). -/
def execSad (nw : Bool) (d a b : Operand) (s : State) : Host.Outcome State Fault Refusal :=
  s.alu3 nw d a b fun x y z => BitVec.ofNat 32 (z.toNat + sumAbsDiff x y)

-- LOGIC -----------------------------------------------------------------------------------------------------------

/-- AND (R103). -/
def execAnd (nw : Bool) (d a b : Operand) (s : State) : Host.Outcome State Fault Refusal := s.alu2 nw d a b fun x y => x &&& y
/-- OR (R103). -/
def execOr (nw : Bool) (d a b : Operand) (s : State) : Host.Outcome State Fault Refusal := s.alu2 nw d a b fun x y => x ||| y
/-- XOR (R103). -/
def execXor (nw : Bool) (d a b : Operand) (s : State) : Host.Outcome State Fault Refusal := s.alu2 nw d a b fun x y => x ^^^ y
/-- ANDN (R103). -/
def execAndn (nw : Bool) (d a b : Operand) (s : State) : Host.Outcome State Fault Refusal := s.alu2 nw d a b fun x y => x &&& ~~~y
/-- ORN (R103). -/
def execOrn (nw : Bool) (d a b : Operand) (s : State) : Host.Outcome State Fault Refusal := s.alu2 nw d a b fun x y => x ||| ~~~y
/-- XNOR (R103). -/
def execXnor (nw : Bool) (d a b : Operand) (s : State) : Host.Outcome State Fault Refusal := s.alu2 nw d a b fun x y => ~~~(x ^^^ y)
/-- SHL (R103). -/
def execShl (nw : Bool) (d a b : Operand) (s : State) : Host.Outcome State Fault Refusal := s.alu2 nw d a b shiftL
/-- SHR (R103). -/
def execShr (nw : Bool) (d a b : Operand) (s : State) : Host.Outcome State Fault Refusal := s.alu2 nw d a b shiftR
/-- SAR (R103). -/
def execSar (nw : Bool) (d a b : Operand) (s : State) : Host.Outcome State Fault Refusal := s.alu2 nw d a b shiftA
/-- ROL (R103). -/
def execRol (nw : Bool) (d a b : Operand) (s : State) : Host.Outcome State Fault Refusal :=
  s.alu2 nw d a b fun x y => rotL x y.toNat
/-- ROR (R103). -/
def execRor (nw : Bool) (d a b : Operand) (s : State) : Host.Outcome State Fault Refusal :=
  s.alu2 nw d a b fun x y => rotL x (32 - y.toNat % 32)

-- MULDIV ----------------------------------------------------------------------------------------------------------

/-- MUL (R104). -/
def execMul (nw : Bool) (d a b : Operand) (s : State) : Host.Outcome State Fault Refusal := s.alu2 nw d a b fun x y => x * y
/-- MULH (R104). -/
def execMulh (nw : Bool) (d a b : Operand) (s : State) : Host.Outcome State Fault Refusal :=
  s.alu2 nw d a b fun x y => trunc32 (x.toInt * y.toInt / 4294967296)
/-- MULHN (R104). -/
def execMulhn (nw : Bool) (d a b : Operand) (s : State) : Host.Outcome State Fault Refusal :=
  s.alu2 nw d a b fun x y => BitVec.ofNat 32 (x.toNat * y.toNat / 4294967296)
/-- MAD (R104). -/
def execMad (nw : Bool) (d a b : Operand) (s : State) : Host.Outcome State Fault Refusal := s.alu3 nw d a b fun x y z => x * y + z
/-- DIV (R104). -/
def execDiv (nw : Bool) (d a b : Operand) (s : State) : Host.Outcome State Fault Refusal := s.alu2 nw d a b intDiv
/-- DIVN (R104). -/
def execDivn (nw : Bool) (d a b : Operand) (s : State) : Host.Outcome State Fault Refusal := s.alu2 nw d a b natDiv
/-- REM (R104). -/
def execRem (nw : Bool) (d a b : Operand) (s : State) : Host.Outcome State Fault Refusal := s.alu2 nw d a b intRem
/-- REMN (R104). -/
def execRemn (nw : Bool) (d a b : Operand) (s : State) : Host.Outcome State Fault Refusal := s.alu2 nw d a b natRem

-- BITS ------------------------------------------------------------------------------------------------------------

/-- CLZ (R105). -/
def execClz (nw : Bool) (d a : Operand) (s : State) : Host.Outcome State Fault Refusal := s.alu1 nw d a countLead
/-- CTZ (R105). -/
def execCtz (nw : Bool) (d a : Operand) (s : State) : Host.Outcome State Fault Refusal := s.alu1 nw d a countTrail
/-- POPC (R105). -/
def execPopc (nw : Bool) (d a : Operand) (s : State) : Host.Outcome State Fault Refusal := s.alu1 nw d a popCount
/-- BREV (R105). -/
def execBrev (nw : Bool) (d a : Operand) (s : State) : Host.Outcome State Fault Refusal := s.alu1 nw d a bitRev
/-- BFE (R105). -/
def execBfe (nw : Bool) (d a b : Operand) (s : State) : Host.Outcome State Fault Refusal := s.alu2 nw d a b fieldGet
/-- BFES (R105). -/
def execBfes (nw : Bool) (d a b : Operand) (s : State) : Host.Outcome State Fault Refusal := s.alu2 nw d a b fieldGetS
/-- BFI (R105). -/
def execBfi (nw : Bool) (d a b : Operand) (s : State) : Host.Outcome State Fault Refusal := s.alu3 nw d a b fieldPut
/-- BMIX (R105). -/
def execBmix (nw : Bool) (d a b : Operand) (s : State) : Host.Outcome State Fault Refusal := s.alu3 nw d a b mixBytes

-- WIDE ------------------------------------------------------------------------------------------------------------

/-- A 64-bit result of two sources of `wa` and `wb` words (R106). -/
def State.wide2 (s : State) (d a b : Operand) (wa wb : Nat) (f : Nat → Nat → Nat) : Host.Outcome State Fault Refusal :=
  s.run fun s => s.pipeWide (Pre.plain s.me 0 d [dstN d 2, srcN a wa, srcN b wb]) d 2 [(a, wa), (b, wb)] fun
    | [x, y] => f x y % 2 ^ 64
    | _ => 0
/-- A 64-bit pattern of an integer. -/
def pat64 (x : Int) : Nat := (x % (2 : Int) ^ 64).toNat
/-- ADD64 (R106). -/
def execAdd64 (d a b : Operand) (s : State) : Host.Outcome State Fault Refusal := s.wide2 d a b 2 2 fun x y => x + y
/-- SUB64 (R106). -/
def execSub64 (d a b : Operand) (s : State) : Host.Outcome State Fault Refusal :=
  s.wide2 d a b 2 2 fun x y => pat64 ((x : Int) - y)
/-- SHL64 (R106). -/
def execShl64 (d a b : Operand) (s : State) : Host.Outcome State Fault Refusal :=
  s.wide2 d a b 2 1 fun x c => if c < 64 then x * 2 ^ c else 0
/-- SHR64 (R106). -/
def execShr64 (d a b : Operand) (s : State) : Host.Outcome State Fault Refusal :=
  s.wide2 d a b 2 1 fun x c => if c < 64 then x / 2 ^ c else 0
/-- SAR64 (R106). -/
def execSar64 (d a b : Operand) (s : State) : Host.Outcome State Fault Refusal :=
  s.wide2 d a b 2 1 fun x c => pat64 (sext 64 x / (2 : Int) ^ (Nat.min c 64))
/-- MUL64 (R106). -/
def execMul64 (d a b : Operand) (s : State) : Host.Outcome State Fault Refusal :=
  s.wide2 d a b 1 1 fun x y => pat64 (sext 32 x * sext 32 y)
/-- MUL64N (R106). -/
def execMul64n (d a b : Operand) (s : State) : Host.Outcome State Fault Refusal := s.wide2 d a b 1 1 fun x y => x * y
/-- LEA64 (R106). -/
def execLea64 (d a b : Operand) (s : State) : Host.Outcome State Fault Refusal :=
  s.wide2 d a b 2 1 fun x y => pat64 ((x : Int) + sext 32 y)
/-- MOV64 (R101). -/
def execMov64 (d a : Operand) (s : State) : Host.Outcome State Fault Refusal :=
  s.run fun s => s.pipeWide (Pre.plain s.me 0 d [dstN d 2, srcN a 2]) d 2 [(a, 2)] fun
    | [x] => x
    | _ => 0

-- PRED ------------------------------------------------------------------------------------------------------------

/-- PAND (R107). -/
def execPand (d a b : BitVec 4) (s : State) : Host.Outcome State Fault Refusal :=
  s.predOp d fun g l => Word.has (g.preg a.toNat) l && Word.has (g.preg b.toNat) l
/-- POR (R107). -/
def execPor (d a b : BitVec 4) (s : State) : Host.Outcome State Fault Refusal :=
  s.predOp d fun g l => Word.has (g.preg a.toNat) l || Word.has (g.preg b.toNat) l
/-- PXOR (R107). -/
def execPxor (d a b : BitVec 4) (s : State) : Host.Outcome State Fault Refusal :=
  s.predOp d fun g l => Word.has (g.preg a.toNat) l != Word.has (g.preg b.toNat) l
/-- PANDN (R107). -/
def execPandn (d a b : BitVec 4) (s : State) : Host.Outcome State Fault Refusal :=
  s.predOp d fun g l => Word.has (g.preg a.toNat) l && !Word.has (g.preg b.toNat) l
/-- PNOT (R107). -/
def execPnot (d a : BitVec 4) (s : State) : Host.Outcome State Fault Refusal :=
  s.predOp d fun g l => !Word.has (g.preg a.toNat) l
/-- PMOV (R107). -/
def execPmov (d a : BitVec 4) (s : State) : Host.Outcome State Fault Refusal :=
  s.predOp d fun g l => Word.has (g.preg a.toNat) l
/-- PCLR (R107). -/
def execPclr (d : BitVec 4) (s : State) : Host.Outcome State Fault Refusal := s.predOp d fun _ _ => false

-- Compares --------------------------------------------------------------------------------------------------------

/-- The class of a compare: vector when any source is vector-class (R108). Its bits are merged into the predicate set,
whose code word is read (R95, R96). -/
def comparePre (g : Group) (imx : Nat) (uses : List Use) : Pre := { Pre.plain g imx .zero uses with codes := [3000] }
/-- CMP (R108). -/
def execCmp (p : BitVec 4) (a b : Operand) (c : BitVec 4) (s : State) : Host.Outcome State Fault Refusal :=
  s.run fun s => s.compare (comparePre s.me 0 [src a, src b]) p.toNat [(a, 1), (b, 1)] fun
    | [x, y] => condition 32 c.toNat x y
    | _ => false
/-- CMP64 (R108). -/
def execCmp64 (p : BitVec 4) (a b : Operand) (c : BitVec 4) (s : State) : Host.Outcome State Fault Refusal :=
  s.run fun s => s.compare (comparePre s.me 0 [srcN a 2, srcN b 2]) p.toNat [(a, 2), (b, 2)] fun
    | [x, y] => condition 64 c.toNat x y
    | _ => false
/-- CMPI (R108). -/
def execCmpi (c : BitVec 3) (p : BitVec 4) (a : Operand) (i : BitVec 11) (s : State) :
    Host.Outcome State Fault Refusal :=
  s.run fun s =>
    let k := immediate s.me true i
    s.compare (comparePre s.me 1 [src a]) p.toNat [(a, 1)] fun
      | [x] => condition 32 (cmpiCode c.toNat) x k.toNat
      | _ => false

-- Immediates ------------------------------------------------------------------------------------------------------

/-- ADDI (R109). -/
def execAddi (nw : Bool) (d a : Operand) (i : BitVec 11) (s : State) : Host.Outcome State Fault Refusal :=
  s.aluImm nw true d a i fun x y => x + y
/-- ANDI (R109). -/
def execAndi (nw : Bool) (d a : Operand) (i : BitVec 11) (s : State) : Host.Outcome State Fault Refusal :=
  s.aluImm nw false d a i fun x y => x &&& y
/-- ORI (R109). -/
def execOri (nw : Bool) (d a : Operand) (i : BitVec 11) (s : State) : Host.Outcome State Fault Refusal :=
  s.aluImm nw false d a i fun x y => x ||| y
/-- XORI (R109). -/
def execXori (nw : Bool) (d a : Operand) (i : BitVec 11) (s : State) : Host.Outcome State Fault Refusal :=
  s.aluImm nw false d a i fun x y => x ^^^ y
/-- MULI (R109). -/
def execMuli (nw : Bool) (d a : Operand) (i : BitVec 11) (s : State) : Host.Outcome State Fault Refusal :=
  s.aluImm nw true d a i fun x y => x * y
/-- MOVI (R109). -/
def execMovi (nw : Bool) (d : Operand) (i : BitVec 11) (s : State) : Host.Outcome State Fault Refusal :=
  s.run fun s =>
    let k := immediate s.me true i
    s.pipe (Pre.plain s.me 1 d [dst d]) nw d [] fun _ lanes _ => lanes.map fun _ => k
/-- SHLI (R109): takes no IMX (R36). -/
def execShli (nw : Bool) (d a : Operand) (c : BitVec 5) (s : State) : Host.Outcome State Fault Refusal :=
  s.alu1 nw d a fun x => shiftL x (c.setWidth 32)
/-- SHRI (R109). -/
def execShri (nw : Bool) (d a : Operand) (c : BitVec 5) (s : State) : Host.Outcome State Fault Refusal :=
  s.alu1 nw d a fun x => shiftR x (c.setWidth 32)
/-- SARI (R109). -/
def execSari (nw : Bool) (d a : Operand) (c : BitVec 5) (s : State) : Host.Outcome State Fault Refusal :=
  s.alu1 nw d a fun x => shiftA x (c.setWidth 32)

end Sys2Proof.Machine
end

