-- ==== Sys2Proof/Machine/Lanes.lean ====
section
/-! DEFINITION. The LANE instructions: exchanges between the lanes of a bundle (04_integer.md, R110 to R112). -/
namespace Sys2Proof.Machine

/-- A source of the shuffles and RDLANE: v, s, zero, laneid or link (R110). -/
def shuffleSource : Operand → Bool
  | .v _ => true
  | .s _ => true
  | .zero => true
  | .laneid => true
  | .link => true
  | _ => false

/-- Whether an operand may stand where a scalar-class source is asked for; a channel takes the class of the execution
(R39). -/
def scalarSource (g : Group) (vec : Bool) (o : Operand) : Bool := !isVec g o && !(vec && (channelOf o).isSome)

/-- The value of a source in every lane of the bundle: a scalar source is broadcast (R39, R110). `xs` holds what was
read in the executing lanes. -/
def bundleVals (g : Group) (o : Operand) (xs : List Word) : List Word :=
  if (channelOf o).isSome then
    (if xs.length = g.bundle.length then xs else g.bundle.map fun _ => xs.headD 0#32)
  else g.bundle.map fun l => g.wordAt o 0 l

/-- The checks of a LANE member that needs a v-register destination (R110). With nw = 1 its class is that of its sources,
as for any destination zero (R39): a scalar execution takes the result of the lowest active lane (DEDUCED). -/
def laneVec (g : Group) (nw : Bool) (d : Operand) (uses : List Use) : Pre :=
  { Pre.plain g 0 d uses with lane := true, operandOk := nw || isV d }

/-- The checks of a LANE member that takes a scalar destination with a vector source (R110). -/
def laneMixed (g : Group) (d : Operand) (uses : List Use) : Pre :=
  { Pre.plain g 0 d uses with mixed := true, lane := true }

/-- A shuffle: lane l takes the value of lane `pick l b[l]` (R111). -/
def State.shuffle (s : State) (nw : Bool) (d a b : Operand) (pick : Nat → Nat → Nat) :
    Host.Outcome State Fault Refusal :=
  s.run fun s =>
    let p := laneVec s.me nw d [dst d, src a, src b]
    s.pipe { p with operandOk := p.operandOk && shuffleSource a } nw d [b] fun g lanes xs =>
      (lanes.zipIdx).map fun e => g.wordAt a 0 (pick e.1 ((xs.headD []).getD e.2 0#32).toNat)

/-- BALLOT (R111). -/
def execBallot (nw : Bool) (d : Operand) (p : BitVec 4) (s : State) : Host.Outcome State Fault Refusal :=
  s.run fun s => s.pipe { laneMixed s.me d [dst d] with codes := [3000] } nw d [] fun g lanes _ =>
    lanes.map fun _ => maskOf fun j => g.bundle.contains j && Word.has (g.preg p.toNat) j
/-- PFROM (R111): bit l of a to lane l of the predicate. -/
def execPfrom (p : BitVec 4) (a : Operand) (s : State) : Host.Outcome State Fault Refusal :=
  s.run fun s => do
    let g0 := s.me
    let pre := { Pre.plain g0 0 .zero [src a] with codes := [3000] }
    let s ← pre.check s
    let s0 := s
    let (s, x) ← readSource s s (g0.execLanes pre.vec) a
    let vals := bundleVals g0 a x
    let (s, ys) ← s0.picked s true ((g0.bundle.zip vals).map fun e => b2n (bit e.2 e.1))
    .ok ((s.setMe (s.me.writePred p.toNat (g0.bundle.zip (ys.map (·.testBit 0))))).finish g0 [src a])
/-- MATCH (R111). -/
def execMatch (nw : Bool) (d a : Operand) (s : State) : Host.Outcome State Fault Refusal :=
  s.run fun s => s.pipe (laneVec s.me nw d [dst d, src a]) nw d [a] fun g lanes xs =>
    let vs := g.bundle.zip (bundleVals g a (xs.headD []))
    (vs.filter fun e => lanes.contains e.1).map fun e => maskOfLanes ((vs.filter fun f => f.2 = e.2).map (·.1))
/-- PSUM (R111). -/
def execPsum (nw : Bool) (d a : Operand) (s : State) : Host.Outcome State Fault Refusal :=
  s.run fun s => s.pipe (laneVec s.me nw d [dst d, src a]) nw d [a] fun g lanes xs =>
    let vs := g.bundle.zip (bundleVals g a (xs.headD []))
    lanes.map fun l => vs.foldl (fun r e => if e.1 < l then r + e.2 else r) 0#32
/-- PSUMI (R111). -/
def execPsumi (nw : Bool) (d a : Operand) (s : State) : Host.Outcome State Fault Refusal :=
  s.run fun s => s.pipe (laneVec s.me nw d [dst d, src a]) nw d [a] fun g lanes xs =>
    let vs := g.bundle.zip (bundleVals g a (xs.headD []))
    lanes.map fun l => vs.foldl (fun r e => if e.1 ≤ l then r + e.2 else r) 0#32
/-- The operation of LRED by code (R112). -/
def lredOp (o : Nat) (x y : Word) : Word :=
  match o with
  | 0 => x + y
  | 1 => intMin x y
  | 2 => intMax x y
  | 3 => natMin x y
  | 4 => natMax x y
  | 5 => x &&& y
  | 6 => x ||| y
  | _ => x ^^^ y
/-- LRED (R111, R112). -/
def execLred (nw : Bool) (d a : Operand) (o : BitVec 3) (s : State) : Host.Outcome State Fault Refusal :=
  s.run fun s => s.pipe (laneMixed s.me d [dst d, src a]) nw d [a] fun g lanes xs =>
    let r := match bundleVals g a (xs.headD []) with
      | [] => 0#32
      | v :: vs => vs.foldl (lredOp o.toNat) v
    lanes.map fun _ => r
/-- SHFL (R111). -/
def execShfl (nw : Bool) (d a b : Operand) (s : State) : Host.Outcome State Fault Refusal :=
  s.shuffle nw d a b fun _ n => n % 32
/-- SHFLUP (R111). -/
def execShflup (nw : Bool) (d a b : Operand) (s : State) : Host.Outcome State Fault Refusal :=
  s.shuffle nw d a b fun l n => if n ≤ l then l - n else l
/-- SHFLDN (R111). -/
def execShfldn (nw : Bool) (d a b : Operand) (s : State) : Host.Outcome State Fault Refusal :=
  s.shuffle nw d a b fun l n => if l + n ≤ 31 then l + n else l
/-- SHFLX (R111). -/
def execShflx (nw : Bool) (d a b : Operand) (s : State) : Host.Outcome State Fault Refusal :=
  s.shuffle nw d a b fun l n => l ^^^ (n % 32)
/-- RDLANE (R111): b is scalar-class. -/
def execRdlane (nw : Bool) (d a b : Operand) (s : State) : Host.Outcome State Fault Refusal :=
  s.run fun s =>
    let g0 := s.me
    let p := laneMixed g0 d [dst d, src a, src b]
    s.pipe { p with operandOk := shuffleSource a && scalarSource g0 p.vec b } nw d [b] fun g lanes xs =>
      lanes.map fun _ => g.wordAt a 0 (((xs.headD []).headD 0#32).toNat % 32)
/-- WRLANE (R111): a and b are scalar-class; one lane of d is written, active or not. DESIGN CHOICE: its one result is
computed at slot position 0. -/
def execWrlane (nw : Bool) (d a b : Operand) (s : State) : Host.Outcome State Fault Refusal :=
  s.run fun s => do
    let g0 := s.me
    let uses := if nw then [dst d, src a, src b] else [dst d, src a, src b, src d]
    let p := laneVec g0 nw d uses
    let s ← { p with
      operandOk := p.operandOk && scalarSource g0 p.vec a && scalarSource g0 p.vec b, legal := runLegal g0 nw }.check s
    let s0 := s
    let (s, xs) ← readSources s (g0.bundle.take 1) s [a, b]
    let l := ((xs.getD 1 []).headD 0#32).toNat % 32
    let (s, ys) ← s0.picked s true [((xs.headD []).headD 0#32).toNat]
    let x : Word := BitVec.ofNat 32 (ys.headD 0)
    let lanes := g0.execLanes p.vec
    let vals := lanes.map fun j => if j = l then x else if nw then 0#32 else g0.wordAt d 0 j
    let s := match d with
      | .v n => s.setMe (s.me.setVreg (g0.wb + n.toNat) l x)
      | _ => s
    .ok (s.finishPipe g0 uses nw p.vec d lanes vals)
/-- ELECT (R111). -/
def execElect (nw : Bool) (d : Operand) (s : State) : Host.Outcome State Fault Refusal :=
  s.run fun s =>
    let p := laneMixed s.me d [dst d]
    s.pipe p nw d [] fun g lanes _ =>
      if p.vec then lanes.map fun l => if l = g.first then 1#32 else 0#32
      else lanes.map fun _ => BitVec.ofNat 32 g.first

end Sys2Proof.Machine
end

