-- ==== Sys2Proof/Machine/Control.lean ====
section
/-! DEFINITION. Control, heddle, item and window instructions (03_control.md R58 to R79; 14_contexts.md R379). -/
namespace Sys2Proof.Machine

/-- The checks of a control instruction: no class rule of its own beyond its operands. -/
def controlPre (g : Group) (uses : List Use) : Pre := { Pre.plain g 0 .zero uses with mixed := true }

/-- The value of a 32-bit scalar-class source, a channel popped or peeked once (R39, R316). -/
def scalarRead (s : State) (o : Operand) : Go (State × Word) := do
  let (s, x) ← readSource s s (s.me.bundle.take 1) o
  .ok (s, x.headD 0#32)

/-- Moves lanes to targets (R64, R67). -/
def Group.jump (g : Group) (ts : List (Nat × Dword)) : Group :=
  { g with lanes := (g.lanes.zipIdx).map fun e => match ts.find? fun t => t.1 = e.2 with
      | some t => { e.1 with pc := t.2 }
      | none => e.1 }

/-- PC + 4 × disp (R32). -/
def branchTarget (pc : Dword) (n : Nat) (disp : BitVec n) : Dword := pc + BitVec.ofInt 64 (4 * disp.toInt)

/-- BRT and BRF (R64). -/
def State.branch (s : State) (sense : Bool) (p : BitVec 4) (disp : BitVec 22) : Host.Outcome State Fault Refusal :=
  s.runControl fun s => do
    let g0 := s.me
    let s ← { controlPre g0 [] with codes := [3000] }.check s
    let g := s.me
    let ts := g0.bundle.map fun l =>
      (l, if Word.has (g.preg p.toNat) l = sense then branchTarget g0.pc 22 disp else g0.pc + 4#64)
    .ok (s.setMe { (g.jump ts).control with aged := none })
/-- BRT (R64). -/
def execBrt (p : BitVec 4) (disp : BitVec 22) (s : State) : Host.Outcome State Fault Refusal := s.branch true p disp
/-- BRF (R64). -/
def execBrf (p : BitVec 4) (disp : BitVec 22) (s : State) : Host.Outcome State Fault Refusal := s.branch false p disp
/-- CALL (R64). -/
def execCall (disp : BitVec 26) (s : State) : Host.Outcome State Fault Refusal :=
  s.runControl fun s => do
    let g0 := s.me
    let s ← (controlPre g0 []).check s
    let t := branchTarget g0.pc 26 disp
    let g := s.me.mapLanes g0.bundle fun x => { x with pc := t, link := g0.pc + 4#64 }
    .ok (s.setMe { g.control with aged := none })

/-- Transfers control to register values (R28, R67): ALIGN precedes every effect. -/
def State.transfer (s : State) (g0 : Group) (link : Bool) (t : Nat → Nat) : Go State := do
  must (g0.bundle.all fun l => t l % 4 = 0) causeAlign
  let g := if link then s.me.mapLanes g0.bundle fun x => { x with link := g0.pc + 4#64 } else s.me
  .ok (s.setMe { (g.jump (g0.bundle.map fun l => (l, BitVec.ofNat 64 (t l)))).control with aged := none })
/-- BRX (R67). -/
def execBrx (a : Operand) (s : State) : Host.Outcome State Fault Refusal :=
  s.runControl fun s => do
    let g0 := s.me
    let s ← (controlPre g0 [srcN a 2]).check s
    s.transfer g0 false (s.me.wide a 2)
/-- CALLX (R67). -/
def execCallx (a : Operand) (s : State) : Host.Outcome State Fault Refusal :=
  s.runControl fun s => do
    let g0 := s.me
    let s ← (controlPre g0 [srcN a 2]).check s
    s.transfer g0 true (s.me.wide a 2)
/-- RET through the link register (R67). -/
def execRet (s : State) : Host.Outcome State Fault Refusal :=
  s.runControl fun s => do
    let g0 := s.me
    let s ← (controlPre g0 []).check s
    s.transfer g0 false fun l => (g0.lane l).link.toNat
/-- RET with a target pair (R67). -/
def execRetTargetPair (a : Operand) (s : State) : Host.Outcome State Fault Refusal :=
  s.runControl fun s => do
    let g0 := s.me
    let s ← (controlPre g0 [srcN a 2]).check s
    s.transfer g0 false (s.me.wide a 2)
/-- RET with a saved low word (R67). -/
def execRetLowWord (b : Operand) (s : State) : Host.Outcome State Fault Refusal :=
  s.runControl fun s => do
    let g0 := s.me
    let s ← { controlPre g0 [src b] with operandOk := isReg b }.check s
    s.transfer g0 false fun l => (g0.lane l).link.toNat / 2 ^ 32 * 2 ^ 32 + (s.me.wordAt b 0 l).toNat

-- Heddles ---------------------------------------------------------------------------------------------------------

/-- Whether a lane is parked on a heddle. -/
def Group.parkedOn (g : Group) (h l : Nat) : Bool := decide ((g.lane l).st = .parked h)

/-- The release check on a heddle (R79). -/
def Group.release (g : Group) (h : Nat) : Group :=
  let m := g.heddle h
  let all := (lanesOf m).all (g.parkedOn h)
  let out := (List.range 32).filter fun l => g.parkedOn h l && (all || !Word.has m l)
  g.mapLanes out fun x => { x with st := .live, pc := x.pc + 4#64 }

/-- A heddle instruction that writes one heddle and lets every lane go on; `check` asks for the release check. -/
def State.heddleOp (s : State) (h : BitVec 4) (check : Bool) (f : Group → Word → Word) :
    Host.Outcome State Fault Refusal :=
  s.runControl fun s => do
    let g0 := s.me
    let s ← { controlPre g0 [] with codes := [3001] }.check s
    let g := (s.me.advance g0.bundle).control
    let g := g.setHeddle h.toNat (f g0 (g.heddle h.toNat))
    .ok (s.setMe (if check then g.release h.toNat else g))
/-- HJOIN (R74). -/
def execHjoin (h : BitVec 4) (s : State) : Host.Outcome State Fault Refusal :=
  s.heddleOp h false fun g m => m ||| maskOfLanes g.bundle
/-- HLEAVE (R74, R79). -/
def execHleave (h : BitVec 4) (s : State) : Host.Outcome State Fault Refusal :=
  s.heddleOp h true fun g m => m &&& ~~~maskOfLanes g.bundle
/-- HCLR (R74, R79). -/
def execHclr (h : BitVec 4) (s : State) : Host.Outcome State Fault Refusal := s.heddleOp h true fun _ _ => 0#32
/-- HSET (R74, R79). -/
def execHset (a : Operand) (h : BitVec 4) (s : State) : Host.Outcome State Fault Refusal :=
  s.runControl fun s => do
    let g0 := s.me
    let s ← { controlPre g0 [src a] with operandOk := !isVec g0 a, codes := [3001] }.check s
    let (s, x) ← scalarRead s a
    let g := (s.me.advance g0.bundle).control
    .ok (s.setMe ((g.setHeddle h.toNat x).release h.toNat))
/-- A group with parked lanes and no live lane traps TIMEOUT at the HWAIT of its lowest parked lane (R62). -/
def State.checkLive (s : State) (k : Nat) : State :=
  let g := s.group k
  if !g.liveLanes.isEmpty then s
  else
    match (List.range 32).find? g.isParked with
    | none => s
    | some l =>
      let h := match (g.lane l).st with
        | .parked h => h
        | .live => 0
        | .exited => 0
      s.takeTrap k ⟨causeTimeout, some (0x10000 + h), 0, some 0xFF, 0, some (g.lane l).pc, false, false⟩

/-- HWAIT (R75, R79). -/
def execHwait (h : BitVec 4) (s : State) : Host.Outcome State Fault Refusal :=
  s.runControl fun s => do
    let g0 := s.me
    let s ← { controlPre g0 [] with codes := [3001] }.check s
    let m := s.me.heddle h.toNat
    let g := s.me.mapLanes (g0.bundle.filter fun l => Word.has m l) fun x => { x with st := .parked h.toNat }
    let g := g.mapLanes (g0.bundle.filter fun l => !Word.has m l) fun x => { x with pc := x.pc + 4#64 }
    .ok ((s.setMe { (g.control).release h.toNat with aged := none }).checkLive s.cur)
/-- A heddle value to a register (R74): not a latch producer (R80). -/
def State.heddleGet (s : State) (d : Operand) (h : BitVec 4) (f : Word → Word) : Host.Outcome State Fault Refusal :=
  s.runControl fun s => do
    let g0 := s.me
    let s ← { controlPre g0 [dst d] with operandOk := isReg d, codes := [3001] }.check s
    let x := f (s.me.heddle h.toNat)
    let s ← s.writeResult d (g0.execLanes (isV d)) ((g0.execLanes (isV d)).map fun _ => x)
    .ok (s.finishControl g0)
/-- HGET (R74). -/
def execHget (d : Operand) (h : BitVec 4) (s : State) : Host.Outcome State Fault Refusal := s.heddleGet d h fun x => x
/-- HCOUNT (R74). -/
def execHcount (d : Operand) (h : BitVec 4) (s : State) : Host.Outcome State Fault Refusal := s.heddleGet d h popCount

-- Exit, yield, sleep, nop -----------------------------------------------------------------------------------------

/-- The trap of an imprecise record of matrix or copy (R152, R167, R310): it names the instruction that caused it. -/
def imprecTrap (r : FaultRec) : Trap :=
  ⟨r.cause, some r.word, 2, some 0xFF, r.va, some (BitVec.ofNat 64 r.pc), false, false⟩

/-- An imprecise record of a class stops the group at its next wait on the class (R152, R167, R310). -/
def noImprecise (g : Group) (c : Cls) : Go Unit :=
  match g.imprec.find? fun e => e.1 = c with
  | some e => .error (.trap (imprecTrap e.2))
  | none => .ok ()

/-- A load, atomic, fill or transfer that has faulted stops the group at a completion point, and so does a record of a
transfer (R200, R309, R310). -/
def faultedOps (g : Group) : Go Unit :=
  match g.ops.find? fun o => o.fault.isSome with
  | some o =>
    match o.fault with
    | some f => .error (.trap (o.deferred f))
    | none => .ok ()
  | none => noImprecise g .copy

/-- EXIT (R68): the active lanes exit and leave every heddle; inside a region it traps (R269). -/
def execExit (s : State) : Host.Outcome State Fault Refusal :=
  s.runControl fun s => do
    let g0 := s.me
    let s ← { controlPre g0 [] with codes := [3001] }.check s
    faultedOps g0
    mustW (g0.reg.nest = 0) causeRegion 6
    let m := maskOfLanes g0.bundle
    let g := (s.me.mapLanes g0.bundle fun x => { x with st := .exited }).control
    let g := (List.range 12).foldl (fun g h => g.setHeddle h (g.heddle h &&& ~~~m)) g
    let g := (List.range 12).foldl (fun g h => g.release h) g
    .ok ((s.setMe { g with aged := none }).checkLive s.cur)
/-- YIELD (R69): the group issues again only after each other ready group of its core; the round robin of R359 places
it last. DESIGN CHOICE: that "each other ready group" means those of the group's own priority, since R359 lets no group of a
lower priority issue while one of a higher priority is ready. -/
def execYield (s : State) : Host.Outcome State Fault Refusal :=
  s.runControl fun s => do
    let g0 := s.me
    let s ← (controlPre g0 []).check s
    let core := s.core g0.core
    let s := s.setCore g0.core { core with last := core.last.put (s.task g0.task).prio (s.cur + 1) }
    .ok (s.finishControl g0)
/-- SLEEP (R70): a count of 0 acts as YIELD. A NOPRE section that will outlast its limit asleep is closed (R363). -/
def execSleep (a : Operand) (s : State) : Host.Outcome State Fault Refusal :=
  s.runControl fun s => do
    let g0 := s.me
    let s ← { controlPre g0 [src a] with operandOk := !isVec g0 a }.check s
    let (s, x) ← scalarRead s a
    let n := x.toNat % 2 ^ 24
    let core := s.core g0.core
    let s := if n = 0 then s.setCore g0.core { core with last := core.last.put (s.task g0.task).prio (s.cur + 1) } else s
    let late := s.me.nopre && decide (Config.noprelimit ≤ n)
    .ok ((s.setMe { s.me with sleep := n, sleepCount := n, nopre := s.me.nopre && !late, overrun := s.me.overrun || late }).finishControl g0)
/-- NOP (R70). -/
def execNop (s : State) : Host.Outcome State Fault Refusal :=
  s.runControl fun s => do
    let g0 := s.me
    let s ← (controlPre g0 []).check s
    .ok (s.finishControl g0)

/-- IMX has no effect of its own: the step issues it together with the word that follows (R36). -/
def execImx (i : BitVec 26) (s : State) : Host.Outcome State Fault Refusal :=
  s.run fun s => do
    must s.me.imx.isNone causeIllegal
    .ok (s.setMe { s.me with imx := some i })

-- Items -----------------------------------------------------------------------------------------------------------

/-- The empty item. -/
def emptyItem : Word := 0xFFFFFFFF#32

/-- Takes items for `n` receivers in queue order (R72): each gets an item, the empty item of a closed queue, or
nothing yet. -/
def takeItems (t : Team) : Nat → Team × List (Option (Word × Bool))
  | 0 => (t, [])
  | n + 1 =>
    match t.items with
    | x :: r =>
      let (t, xs) := takeItems { t with items := r } n
      (t, some (x, true) :: xs)
    | [] =>
      let (t, xs) := takeItems t n
      (t, (if t.itemClosed ∨ t.itemCap = 0 then some (emptyItem, false) else none) :: xs)

/-- The body of ITEMHEAD and ITEMNEXT (R72, R73): `next` tells where a lane that received goes, by whether it got a
queued item. A delivery to some of 32 lanes merges the vector line, which is read first (R86, R97). -/
def State.items (s : State) (g0 : Group) (d : Operand) (next : Bool → Dword) : Go State := do
  let lanes := g0.execLanes (isV d)
  let (t, got) := takeItems (s.team g0.team) lanes.length
  let taken := (lanes.zip got).filterMap fun e => e.2.map fun x => (e.1, x)
  awaits (!taken.isEmpty)
  let merged := mergedRegs g0 (taken.map (·.1)) [dst d]
  presentOr g0 merged
  let s ← readCodes s merged
  let s := s.setTeam g0.team t
  let s ← s.writeResult d (taken.map (·.1)) (taken.map fun e => e.2.1)
  let moves := if isV d then taken.map fun e => (e.1, next e.2.2)
    else g0.bundle.map fun l => (l, match taken with
      | e :: _ => next e.2.2
      | [] => g0.pc)
  let stay := if isV d then maskOfLanes (lanes.filter fun l => !(taken.map (·.1)).contains l) else 0#32
  .ok (s.setMe { ((s.me.jump moves).control) with
    aged := none, itemWait := (g0.itemWait &&& ~~~maskOfLanes g0.bundle) ||| stay })
/-- ITEMHEAD (R72). DESIGN CHOICE (log 164): the item head is recorded once an item or a closed queue's answer has been delivered; a
bundle that waits whole has recorded none. -/
def execItemhead (d : Operand) (s : State) : Host.Outcome State Fault Refusal :=
  s.runControl fun s => do
    let g0 := s.me
    let s ← { controlPre g0 [dst d] with operandOk := isReg d, inRegion := false }.check s
    let s ← s.items g0 d fun _ => g0.pc + 4#64
    .ok (s.setMe { s.me with ihead := some (g0.pc + 4#64) })
/-- ITEMNEXT (R73). DESIGN CHOICE: that the missing item head, which makes it ILLEGAL, is found after steps 2 to 6 of R45
and not among the checks of step 1. -/
def execItemnext (d : Operand) (s : State) : Host.Outcome State Fault Refusal :=
  s.runControl fun s => do
    let g0 := s.me
    let s ← { controlPre g0 [dst d] with operandOk := isReg d, inRegion := false }.check s
    match g0.ihead with
    | none => trapO causeIllegal
    | some h => s.items g0 d fun item => if item then h else g0.pc + 4#64

-- The register window ---------------------------------------------------------------------------------------------

/-- WBASE and WBADD (R379): `f` gives the new base from the old one and the source. -/
def State.window (s : State) (d a : Operand) (f : Nat → Word → Int) : Host.Outcome State Fault Refusal :=
  s.runControl fun s => do
    let g0 := s.me
    let s ← { controlPre g0 [dst d, src a] with operandOk := !isVec g0 a && (isS d || isZero d) }.check s
    let (s, x) ← scalarRead s a
    let n := f g0.wb x
    mustW (n % 8 = 0 && decide (0 ≤ n) && decide (n ≤ (g0.nreg : Int) - 8)) causeWindow (trunc32 n).toNat
    let s ← s.writeResult d (g0.bundle.take 1) [BitVec.ofNat 32 g0.wb]
    .ok ((s.setMe { s.me with wb := n.toNat }).finishControl g0)
/-- WBASE (R379). -/
def execWbase (d a : Operand) (s : State) : Host.Outcome State Fault Refusal := s.window d a fun _ x => x.toNat
/-- WBADD (R379). -/
def execWbadd (d a : Operand) (s : State) : Host.Outcome State Fault Refusal := s.window d a fun wb x => wb + x.toInt

end Sys2Proof.Machine
end

