-- ==== Sys2Proof/Machine/Access.lean ====
section
/-! DEFINITION. What every memory access shares: address forms and their checks, scratch, the write-combining buffer,
forwarding from a group's own writes, outstanding requests, releases and acquires
(07_memory.md R171 to R202; 08_ordering.md R219 to R224). -/
namespace Sys2Proof.Machine

-- Address forms ---------------------------------------------------------------------------------------------------

/-- Where a lane address leads (R171 to R173). -/
inductive Place where
  | va (a : Nat)
  /-- the team's key and the byte offset in its allocation -/
  | scratch (t off : Nat)
  | linear (a : Nat)
  deriving DecidableEq, Repr

/-- A precise trap that names the lane and its address (R387). -/
def trapAt {α : Type} (cause : Nat) (word : Option Nat) (lane va : Nat) : Go α :=
  .error (.trap ⟨cause, word, 0, some lane, va, none, false, false⟩)

/-- Whether an address is a scratch address (R171). -/
def isScratch (a : Nat) : Bool := decide (a / 2 ^ 60 = 0xF)

/-- The breach of R171 and R173, if any: cause and word. `need` is 1 where only a virtual address is accepted, 2 where
only a scratch address is, else 0 (R171). -/
def formFault (lin wr : Bool) (need a : Nat) : Option (Nat × Nat) :=
  if lin then
    if 2 ^ 41 ≤ a then some (causeProt, 2)
    else if bitOf a 40 then none
    else if Config.lastPage < a / 2 ^ 16 then some (causeProt, 6)
    else if wr && inTables a then some (causeProt, 7)
    else none
  else if isScratch a then (if need = 1 then some (causeProt, 4) else none)
  else if 2 ^ 52 ≤ a then some (causeProt, 1)
  else if need = 2 then some (causeProt, 3)
  else none

/-- Teams of a cluster of the group's task (R346). -/
def State.clusterTeams (s : State) (g : Group) : Nat := (s.task g.task).record.w * (s.task g.task).record.h

/-- The key of the team with a teamid in the group's cluster (R348). -/
def State.clusterTeam (s : State) (g : Group) (n : Nat) : Nat := teamKey g.task (g.clrank * s.clusterTeams g + n)

/-- The word of a SCRATCH_BOUNDS trap for the form of a scratch address (R172). -/
def State.scratchForm (s : State) (g : Group) (a : Nat) : Option Nat :=
  if 1 < bitsOf a 56 4 then some 0x80000001
  else if bitsOf a 56 4 = 1 ∧ s.clusterTeams g ≤ bitsOf a 52 4 then some 0x80000002
  else if bitsOf a 22 30 ≠ 0 then some 0x80000003
  else none

/-- Where a well-formed address leads. -/
def State.placeAt (s : State) (g : Group) (lin : Bool) (a : Nat) : Place :=
  if lin then .linear a
  else if isScratch a then
    .scratch (if bitsOf a 56 4 = 0 then g.team else s.clusterTeam g (bitsOf a 52 4)) (bitsOf a 0 22)
  else .va a

/-- The least-word breach among lanes: word, lane, address. -/
def leastBreach (xs : List (Nat × Nat × Nat)) : Option (Nat × Nat × Nat) := minBy (·.1) xs

/-- The address checks of step 7, in the order form, alignment, scratch form, scratch bounds
(R171 to R173, R186, R192). -/
def State.checkAddrs (s : State) (g : Group) (lin wr : Bool) (need w : Nat) (ts : List (Nat × Nat)) :
    Go (List (Nat × Place)) :=
  match ts.find? fun t => (formFault lin wr need t.2).isSome with
  | some t =>
    match formFault lin wr need t.2 with
    | some (c, x) => trapAt c (some x) t.1 t.2
    | none => .ok []
  | none =>
    match ts.find? fun t => t.2 % w ≠ 0 with
    | some t => trapAt causeAlign none t.1 t.2
    | none =>
      let scr := if lin then [] else ts.filter fun t => isScratch t.2
      let forms := scr.filterMap fun t => (s.scratchForm g t.2).map fun x => (x, t.1, t.2)
      match leastBreach forms with
      | some (x, _, _) =>
        let t := forms.headD (0, 0, 0)
        trapAt causeScratch (some x) t.2.1 t.2.2
      | none =>
        let size := (s.team g.team).scratchSize
        let beyond := scr.filterMap fun t =>
          let o := bitsOf t.2 0 22
          if size < o + w then some (Nat.max o size, t.1, t.2) else none
        match leastBreach beyond with
        | some (x, _, _) =>
          let t := beyond.headD (0, 0, 0)
          trapAt causeScratch (some x) t.2.1 t.2.2
        | none => .ok (ts.map fun t => (t.1, s.placeAt g lin t.2))

-- Scratch ---------------------------------------------------------------------------------------------------------

/-- TSIZE and the offset of the item ring in a team's save area (R349). -/
def saveSizes (r : LaunchRec) : Nat × Nat :=
  let ring := 0x110000 + roundUp 0x10000 (128 * r.scratch)
  (ring + (if r.itemq = 0 then 0 else roundUp 0x10000 (4 * 2 ^ r.itemq)), ring)

/-- The save area of a team (R348). -/
def State.saveBase (s : State) (t : Nat) : Nat :=
  let tm := s.team t
  let r := (s.task tm.task).record
  r.tsave + tm.tidx * (saveSizes r).1

/-- A byte of a team's scratch (R188). -/
def State.scratchByte (s : State) (t off : Nat) : Byte := (s.team t).scratch.read 0#8 off

/-- Writes bytes of a team's scratch: at the bank, and to the save area of a team that is written out (R188). -/
def State.scratchWrite (s : State) (t off : Nat) (bs : Bytes) : State :=
  let tm := s.team t
  let s := s.setTeam t { tm with scratch := Tab.writeFrom 0#8 tm.scratch off bs }
  if tm.resident then s
  else
    match s.vwrite (some tm.core) (s.task tm.task).record.asid (s.saveBase t + 0x110000 + off) bs true with
    | .ok s => s
    | .error _ => s

/-- Whether a scratch line is full (R189). -/
def State.lineFull (s : State) (t line : Nat) : Bool := (s.team t).full.read false line

/-- Sets the full/empty bit of a scratch line. -/
def State.setFullBit (s : State) (t line : Nat) (b : Bool) : State :=
  let tm := s.team t
  s.setTeam t { tm with full := tm.full.write false line b }

-- Outstanding requests --------------------------------------------------------------------------------------------

/-- Loads that have not completed (R195). -/
def Group.loadsOut (g : Group) : Nat :=
  (g.ops.filter fun o => !o.done && (match o.kind with
    | .load _ _ => true
    | _ => false)).length

/-- Room for one more request in the core's table (R195, R376). -/
def State.tableRoom (s : State) (g : Group) (held : Bool) : Bool :=
  (!held || decide (g.heldCount < 48)) && decide (s.coreRequests g.core < 4096)
/-- Room for one more request of the mem counter (R195, R228, R376). -/
def State.requestRoom (s : State) (g : Group) (held : Bool) : Bool := decide (g.outstanding .mem < 4095) && s.tableRoom g held

/-- Every access of an operation has been served or has failed; the first faulting lane gives the deferred fault
(R200). -/
def Op.settle (o : Op) : Op :=
  let failed := o.accs.filterMap fun a => match a.st with
    | .failed c w => some (c, w, a.lane, a.addr)
    | _ => none
  let open' := o.accs.any fun a => match a.st with
    | .got => false
    | .failed _ _ => false
    | _ => true
  match failed with
  | f :: _ => if open' || o.fault.isSome then o else { o with fault := some f }
  | [] => o

/-- Replaces accesses of an operation. -/
def Op.mapAccs (o : Op) (p : Acc → Bool) (f : Acc → Acc) : Op :=
  Op.settle { o with accs := o.accs.map fun a => if p a then f a else a }

/-- Whether an operation still has an access to this line that is not performed (R242). -/
def Op.pendingAt (o : Op) (line : Nat) : Bool :=
  !o.done && o.accs.any fun a => decide (a.addr / 128 = line) && decide (a.st ≠ .got)

/-- Whether an operation is an atomic or a reduction. -/
def Op.isAtomic (o : Op) : Bool :=
  match o.kind with
  | .atom _ _ => true
  | .cas _ => true
  | .red _ _ => true
  | _ => false

/-- Whether an access has still to be performed; a RED whose hold at the router has ended stands at `.walk` (R250). -/
def Acc.unperformed (a : Acc) : Bool :=
  match a.st with
  | .wait => true
  | .walk => true
  | .held => true
  | .degraded _ => true
  | _ => false

/-- Whether a request or a replay of a restore has still to be performed (R383). One that has failed again, that is held
behind open regions, or that has left the device counts as performed. -/
def Group.undone (g : Group) (q : Nat) : Bool :=
  (g.ops.any fun o => decide (o.seq = q) && !o.done && o.fault.isNone &&
      (decide (o.kind = .matrix true) || o.accs.any Acc.unperformed)) ||
    g.parts.any fun p => p.ops.contains q && decide (p.st = .wait ∨ p.st = .walk)

/-- Whether an operation has its turn: the requests and replays of a restore are performed in their original issue order
(R383). -/
def Group.mayRedo (g : Group) (q : Nat) : Bool :=
  decide (g.sched ≠ .active) || !(g.again.any fun e => e.1 = q) ||
    !((g.again.takeWhile fun e => e.1 ≠ q).any fun e => g.undone e.1)

/-- The place of an operation in its group's issue order: a replay has that of the write it repeats (R383). -/
def Group.placeOf (g : Group) (q : Nat) : Nat := g.places.read q q
/-- Whether an operation was issued before another (R216, R242). -/
def Group.earlier (g : Group) (a b : Nat) : Bool :=
  decide (g.placeOf a < g.placeOf b) || (decide (g.placeOf a = g.placeOf b) && decide (a < b))

/-- Whether an earlier load of the group of this line has not been served (R216). -/
def Group.loadBefore (g : Group) (seq line : Nat) : Bool :=
  g.ops.any fun o => g.earlier o.seq seq && !o.done && (match o.kind with
    | .load _ _ => true
    | _ => false) && o.accs.any fun a => decide (a.addr / 128 = line) && (match a.st with
      | .wait => true
      | .walk => true
      | .degraded _ => true
      | _ => false)

/-- Whether an earlier atomic of the group to this line has not been performed (R216, R242). -/
def Group.atomicBefore (g : Group) (seq line : Nat) : Bool :=
  g.ops.any fun o => g.earlier o.seq seq && o.isAtomic && o.pendingAt line

-- The group's own writes on their way -----------------------------------------------------------------------------

/-- Whether a write in flight is one whose bytes the group's own reads see (R196): not a reduction's, and not a copy's. -/
def PartKind.seen : PartKind → Bool
  | .store => true
  | .strel => true
  | .tst => true
  | .copy _ => false
  | .red _ _ => false

/-- Whether a write in flight belongs to a transfer. -/
def PartKind.isCopy : PartKind → Bool
  | .copy _ => true
  | .store => false
  | .strel => false
  | .tst => false
  | .red _ _ => false

/-- A write of a chain has failed (R459): the status that its LAST takes. -/
def Group.chainFails (g : Group) (seq status : Nat) : Group :=
  if g.chainSeq ≤ seq then { g with chainBad := Nat.max g.chainBad status } else g

/-- The bytes of one line among the group's own writes that have not completed, the latest first found (R196). -/
def Group.ownByte (g : Group) (cls team line o : Nat) : Option Byte :=
  let ps := g.parts.foldl (fun r p =>
    if p.kind.seen ∧ p.cls = cls ∧ p.team = team ∧ p.line = line then (match p.bytes.read none o with
      | some b => some b
      | none => r) else r) none
  if cls = 0 then
    match (g.wcb.find? fun w => w.line = line).bind fun w => w.bytes.read none o with
    | some b => some b
    | none => ps
  else ps

/-- The forwarded bytes of an access as pairs of a mark and a byte, taken when the load issues (R196). -/
def Group.forwarded (g : Group) (cls team a w : Nat) : Bytes :=
  (List.range w).flatMap fun i => match g.ownByte cls team (a / 128) (a % 128 + i) with
    | some b => [1#8, b]
    | none => [0#8, 0#8]

/-- The bytes that an access returns: forwarded where marked, else those served. -/
def Acc.merge (a : Acc) (w : Nat) (served : Nat → Byte) : Bytes :=
  (List.range w).map fun i => if a.op1.getD (2 * i) 0#8 = 1#8 then a.op1.getD (2 * i + 1) 0#8 else served i

/-- Adds bytes to a line table. -/
def putBytes (t : Tab (Option Byte)) (o : Nat) (bs : Bytes) : Tab (Option Byte) :=
  Tab.writeFrom none t o (bs.map some)

/-- The writes of an instruction gathered by line: class, team, line, bytes; a later lane wins (R188, R194). -/
def gather : List (Nat × Nat × Nat × Tab (Option Byte)) → List (Place × Bytes) →
    List (Nat × Nat × Nat × Tab (Option Byte))
  | acc, [] => acc
  | acc, (p, bs) :: r =>
    let (c, t, a) := match p with
      | .va a => (0, 0, a)
      | .scratch t o => (1, t, o)
      | .linear a => (2, 0, a)
    let same := fun (e : Nat × Nat × Nat × Tab (Option Byte)) => decide (e.1 = c ∧ e.2.1 = t ∧ e.2.2.1 = a / 128)
    let acc := if acc.any same then replaceFirst same (fun e => (e.1, e.2.1, e.2.2.1, putBytes e.2.2.2 (a % 128) bs)) acc
      else acc ++ [(c, t, a / 128, putBytes [] (a % 128) bs)]
    gather acc r

/-- The open REL or STREL that holds writes to a line, the latest (R219). -/
def Group.heldBy (g : Group) (cls team line : Nat) : Option Nat :=
  (g.rels.reverse.find? fun r => r.lines.contains (cls, team, line)).map (·.id)

/-- Whether a REL or STREL that is older than an operation, and still open, holds its accesses to a line (R219). -/
def Group.lineHeld (g : Group) (seq line : Nat) : Bool :=
  g.rels.any fun r => decide (r.seq ≤ seq) && r.lines.contains (0, 0, line)

/-- Whether an open REL or STREL holds one of these places: a scratch atomic waits at issue (R219). -/
def Group.relHolds (g : Group) (ps : List Place) : Bool :=
  ps.any fun p => (match p with
    | .va a => g.heldBy 0 0 (a / 128)
    | .scratch t o => g.heldBy 1 t (o / 128)
    | .linear a => g.heldBy 2 0 (a / 128)).isSome

/-- Drains one line of the buffer (R197): the core's L1 copy takes the bytes (R182). -/
def Group.drainLine (g : Group) (line : Nat) : Group :=
  match g.wcb.find? fun w => w.line = line with
  | none => g
  | some w =>
    { g with
      wcb := g.wcb.filter fun x => x.line ≠ line
      parts := g.parts ++ [w.part g.newId .wait] }

/-- Drains the buffer lines that an access overlaps (R151, R198): none when a drain must wait. -/
def drainOver (g : Group) : List Nat → Option Group
  | [] => some g
  | l :: r =>
    if g.wcb.any fun w => w.line = l then (if 16 ≤ g.drained then none else drainOver (g.drainLine l) r) else drainOver g r

/-- Merges one line's bytes of a store into the buffer; none when a drain must wait (R197). -/
def Group.mergeLine (g : Group) (seq line : Nat) (pc : Dword) (bytes : Tab (Option Byte)) (fresh : Bool)
    (ret : Nat) : Option Group :=
  let put := fun (g : Group) => if g.wcb.any fun w => w.line = line then
      { g with wcb := g.wcb.map fun w => if w.line = line then
          { w with bytes := bytes.foldl (fun t e => t.put e.1 e.2) w.bytes, ops := w.ops ++ [seq], ret := ret } else w }
    else { g with wcb := g.wcb ++ [⟨line, bytes, [seq], pc, ret⟩] }
  let full := decide (4 ≤ g.wcb.length) && !(g.wcb.any fun w => w.line = line)
  if (full || fresh) && decide (16 < g.drained + b2n full + b2n fresh) then none
  else
    let g := put (if full then (match g.wcb with
      | w :: _ => g.drainLine w.line
      | [] => g) else g)
    let whole := match g.wcb.find? fun w => w.line = line with
      | some w => decide (128 ≤ (w.bytes.filter fun e => e.2.isSome).length)
      | none => false
    if (fresh || whole) && decide (g.drained < 16) then some (g.drainLine line) else some g

/-- Adds a held write (R219). -/
def Group.holdPart (g : Group) (k : PartKind) (cls team line : Nat) (bytes : Tab (Option Byte)) (seq : Nat) (pc : Dword)
    (rel : Option Nat) (full : Bool) : Group :=
  { g with parts := g.parts ++ [⟨g.newId, k, cls, team, line, bytes, [], [seq], pc, .wait, rel, full, 0⟩] }

-- The core's L1 ---------------------------------------------------------------------------------------------------

/-- Lines that the cache banks of a core hold (R182, R184). -/
def Core.l1Room (c : Core) : Nat := 1024 * (c.banksIn 0).length

/-- A copy of the line at its home slice replaces the core's L1 copy, if it has one (R182, R216, R217). -/
def State.refreshL1 (s : State) (c k : Nat) (l : Line) : State :=
  let core := s.core c
  let old := core.l1.read Line.absent k
  if old.present then s.setCore c { core with l1 := core.l1.put k { l with dirty := false, ret := old.ret } } else s

/-- Puts a line into the L1 of a core under a retention (R183); a full L1 displaces a line that is the next victim, where
there is one, and which one is a free value. DESIGN CHOICE: the L1 is one set, since the spec gives it none. -/
def State.fillL1 (s : State) (c k ret : Nat) (l : Line) : State :=
  let core := s.core c
  let old := core.l1.erase k
  let l := { l with dirty := false, ret := if ret = 1 then 1 else 0 }
  if ret = 3 then s.refreshL1 c k l
  else if old.length < core.l1Room then s.setCore c { core with l1 := old.insert k l }
  else
    let next := old.filter fun e => e.2.ret = 1
    let vs := if next.isEmpty then old else next
    let j := Config.freeNat s.free % Nat.max vs.length 1
    let out := (vs.drop j).headD (0, Line.absent)
    { s.setCore c { core with l1 := (old.erase out.1).insert k l } with free := s.free + 1 }

/-- Bytes written by the group of a core reach its L1 copy (R182). -/
def State.updateL1 (s : State) (c k : Nat) (bytes : Tab (Option Byte)) : State :=
  let core := s.core c
  let l := core.l1.read Line.absent k
  if l.present then s.setCore c { core with l1 := core.l1.put k { l.merge bytes l.ret with dirty := false } }
  else s

/-- Removes lines of a core's L1. -/
def State.dropL1 (s : State) (c : Nat) (p : Nat → Bool) : State :=
  let core := s.core c
  s.setCore c { core with l1 := core.l1.filter fun e => !p e.1 }

-- Acquires and releases -------------------------------------------------------------------------------------------

/-- A later access waits for an acquire carrier that has not completed, and stops at a faulted load that the carrier
waits on (R200, R220). -/
def gateAccess (g : Group) : Go Unit :=
  match g.ops.find? fun o => !o.done && o.cls = .mem && o.order % 2 = 1 with
  | none => .ok ()
  | some a =>
    match g.ops.find? fun o => decide (o.seq ≤ a.seq) && o.fault.isSome with
    | none => .error .block
    | some o =>
      match o.fault with
      | some f => .error (.trap (o.deferred f))
      | none => .error .block

/-- The object word of an address, and its region (R212): base and size. -/
def State.regionOf (s : State) (asid a : Nat) : Nat × Nat :=
  let x := a / 8 * 8
  match s.binds.find? fun b => b.asid = asid ∧ b.obj = x with
  | some b => (b.base, 2 ^ b.log)
  | none => (x, 8)

/-- The L1 lines that an acquire invalidates on a core: those of the address space that overlap a reach (R220). -/
def State.sweep (s : State) (c asid : Nat) (reach : List (Nat × Nat)) : State :=
  s.dropL1 c fun k => decide (k / 2 ^ 45 = asid) && reach.any fun r =>
    decide (r.1 < 128 * (k % 2 ^ 45 + 1)) && decide (128 * (k % 2 ^ 45) < r.1 + r.2)

/-- The reach of an acquire that covers all memory. -/
def allMemory : List (Nat × Nat) := [(0, 2 ^ 52)]

/-- The end of an acquire carrier (R220): no invalidation at team scope. -/
def State.acquire (s : State) (g : Group) (scope : Nat) (reach : List (Nat × Nat)) : State :=
  if scope = 0 then s else s.sweep g.core g.asid reach

/-- An acquire carrier waits until every earlier load has returned; a faulted one stops the group (R200, R220). -/
def loadsReturned (g : Group) : Go Unit := do
  faultedOps g
  awaits (g.ops.all fun o => o.done || (match o.kind with
    | .load _ _ => false
    | .atom _ _ => false
    | .cas _ => false
    | .matrix fill => !fill
    | _ => true))

/-- Whether a store still has a write that a scope waits for: one that left the device is waited for at sys scope only
(R219, R230). -/
def Group.storeOpen (g : Group) (seq scope : Nat) : Bool :=
  g.wcb.any (fun w => w.ops.contains seq) ||
    g.parts.any fun p => p.ops.contains seq && (decide (scope = 3) || (match p.st with
      | .ext _ => false
      | _ => true))

/-- Whether a matrix operation is a TST whose write has not completed (R151, R219). -/
def State.tstOpen (s : State) (k : Nat) (o : Op) (g : Group) : Bool :=
  decide (o.kind = .matrix false) && !o.done &&
    (((s.core g.core).arr ++ (s.team g.team).savedArr).any (fun e => decide (e.g = k) && decide (e.seq = o.seq) && (match e.kind with
      | .tst _ _ _ _ _ => true
      | _ => false)) || g.parts.any fun p => p.ops.contains o.seq)

/-- Whether an earlier access that a release covers has not finished (R219). -/
def State.uncovered (s : State) (k scope : Nat) (o : Op) : Bool :=
  let g := s.group k
  match o.kind with
  | .load _ _ => !o.done
  | .store => if o.slot = 0 then g.storeOpen o.seq scope else !o.done
  | .atom _ _ => !o.done
  | .cas _ => !o.done
  | .red _ _ => !o.done
  | .matrix fill => (fill && !o.done) || s.tstOpen k o g
  | .wbl _ _ _ => false
  | .copy => false
  | .tred _ _ _ => false
  | .push _ _ _ => false
  | .region => false
  | .instant => false

/-- Whether a TST writes to a line (R151, R158). -/
def ArrKind.tstLine (line : Nat) : ArrKind → Bool
  | .tst y _ base st _ => (List.range 128).any fun r =>
    decide ((base + r * st) / 128 ≤ line) && decide (line < (base + r * st) / 128 + (Ty.ofCode y).width / 8)
  | _ => false

/-- Whether a TST of a group that is older than an operation, and has not sent its writes yet, writes to a line
(R151, R198). -/
def State.tstBefore (s : State) (k seq line : Nat) : Bool :=
  let g := s.group k
  ((s.core g.core).arr ++ (s.team g.team).savedArr).any fun e =>
    decide (e.g = k) && g.earlier e.seq seq && e.kind.tstLine line

/-- The rows that a fill reads: addresses and length (R157). -/
def ArrKind.rows : ArrKind → List Nat × Nat
  | .tld _ base st => ((List.range 128).map fun r => base + r * st, 128)
  | .tldx w _ base st => ((List.range (256 / 2 ^ w)).map fun q => base + q * st, 64 * 2 ^ w)
  | .tlds _ _ base => ((List.range 8).map fun r => base + 128 * r, 128)
  | _ => ([], 0)

/-- Whether a fill reads from a line (R157). -/
def ArrKind.readsLine (k : ArrKind) (line : Nat) : Bool :=
  k.rows.1.any fun a => decide (a / 128 ≤ line) && decide (line ≤ (a + k.rows.2 - 1) / 128)

/-- Whether a fill of a group that is older than an operation reads from a line (R151, R216). -/
def State.fillBefore (s : State) (k seq line : Nat) : Bool :=
  let g := s.group k
  ((s.core g.core).arr ++ (s.team g.team).savedArr).any fun e => decide (e.g = k) && g.earlier e.seq seq && e.kind.readsLine line

/-- Whether a fill waits for an earlier fill or TST of its group that reads or writes one of its lines (R151, R216). -/
def ArrEntry.fillAfter (x e : ArrEntry) : Bool :=
  decide (x.g = e.g) && decide (x.seq < e.seq) && e.kind.rows.1.any fun a =>
    (List.range (e.kind.rows.2 / 128 + 1)).any fun i => x.kind.tstLine (a / 128 + i) || x.kind.readsLine (a / 128 + i)

/-- Whether a read of `n` bytes that an instruction makes itself has to wait for the group's own earlier loads, atomics and
TST writes of its lines (R216). -/
def State.ownPending (s : State) (va n : Nat) : Bool :=
  let g := s.me
  (List.range (n / 128 + 2)).any fun i => decide (128 * (va / 128 + i) < va + n) &&
    (g.atomicBefore g.seq (va / 128 + i) || g.loadBefore g.seq (va / 128 + i) || s.tstBefore s.cur g.seq (va / 128 + i))

/-- The oldest operation of a write in flight, which gives its place in issue order. -/
def Part.first (p : Part) : Nat := p.ops.foldl Nat.min (p.ops.headD 0)

/-- The line address of a write as the group would form it: virtual, scratch (R171), or linear. -/
def Group.partAddr (g : Group) (p : Part) : Nat :=
  if p.cls = 1 then
    0xF * 2 ^ 60 + (if p.team = g.team then 0 else 2 ^ 56 + (p.team + g.teamid - g.team) % 16 * 2 ^ 52) + 128 * p.line
  else 128 * p.line

/-- The STORE_FAULT trap of the first record of a group's queue (R201, R401). -/
def storeFaultTrap (g : Group) (e : SfEntry) : Trap :=
  ⟨causeStore, some e.word, 2, some 0xFF, g.partAddr e.part, some e.pc, false, false⟩

/-- The precise STORE_FAULT of a blocking release, of SDRAIN and of a barrier arrival (R206, R219). -/
def noRecords (g : Group) : Go Unit :=
  match g.sfq with
  | e :: _ => .error (.trap (storeFaultTrap g e))
  | [] => .ok ()

/-- Whether a release of a scope waits for a write in flight (R219): one that left the device at sys scope only, and one of a
copy never (R223). -/
def Part.covered (scope : Nat) (p : Part) : Bool :=
  !p.kind.isCopy && (decide (scope = 3) || (match p.st with
    | .ext _ => false
    | _ => true))

/-- The wait of a release carrier that blocks its bundle (R219). -/
def State.releaseWait (s : State) (scope : Nat) : Go State := do
  let s := s.drainGroup s.cur
  let g := s.me
  faultedOps g
  if g.parts.any (Part.covered scope) || g.ops.any fun o => s.uncovered s.cur scope o then .error (.after s)
  else do
    noRecords g
    .ok s

/-- The earliest failed covered write among the group's store-fault records, in issue order, with its cause (R219). -/
def Group.failedFirst (g : Group) : Option (Nat × Nat) :=
  minBy (·.1) ((g.sfq ++ g.sfwait).map fun e => (e.part.first, e.word % 256))

/-- A REL or a STREL (R219): its lines hold later writes until every covered access has finished. A record that stands in
the queue as it issues is of a covered write. -/
def State.openRelease (s : State) (scope : Nat) (lines : List (Nat × Nat × Nat)) : State :=
  let s := s.drainGroup s.cur
  let g := s.me
  let id := g.rels.foldl (fun n r => Nat.max n r.id) 0 + 1
  let ops := (g.ops.filter fun o => s.uncovered s.cur scope o).map (·.seq)
  let parts := (g.parts.filter (Part.covered scope)).map (·.id)
  s.setMe { g with rels := g.rels ++ [⟨id, lines, ops, parts, scope, g.failedFirst, g.seq⟩] }

/-- An atomic that a release with a failed covered write holds is not performed (R219): a reduction is recorded behind it
(R201); and DESIGN CHOICE: one with a result, which no record can name, takes the underlying cause as its deferred fault,
POISON for a dead path. -/
def Op.failHeld (r : RelWait) (c : Nat) (o : Op) : Op :=
  let here := fun (a : Acc) => r.lines.contains (0, 0, a.addr / 128) && (decide (a.st = .wait) || decide (a.st = .walk))
  if !o.isAtomic || o.done || decide (o.seq < r.seq) then o
  else if o.cls = .red then { o with accs := o.accs.map fun a => if here a then { a with st := .failed c 256 } else a }
  else o.mapAccs here fun a => { a with st := .failed (if c = 0 then causePoison else c) 0 }

/-- The covered accesses of open releases that have finished are taken off; a release with none left lets its held
writes go, or fails them behind a failed covered write (R219). -/
def State.settleRels (s : State) (k : Nat) : State :=
  let g := s.group k
  let rels := g.rels.map fun r => { r with
    ops := r.ops.filter fun q => g.ops.any fun o => decide (o.seq = q) && s.uncovered k r.scope o
    parts := r.parts.filter fun q => g.parts.any fun p => decide (p.id = q) && p.covered r.scope }
  let complete := rels.filter fun r => r.ops.isEmpty && r.parts.isEmpty
  let ops := complete.foldl (fun os r => match r.bad with
    | some (_, c) => os.map (Op.failHeld r c)
    | none => os) g.ops
  let parts := g.parts.map fun p =>
    match p.rel.bind fun q => complete.find? fun r => r.id = q with
    | none => p
    | some r =>
      match r.bad with
      | some (_, c) => { p with rel := none, st := .failed c 256 }
      | none => { p with rel := none }
  s.setGroup k { g with rels := rels.filter fun r => !(r.ops.isEmpty && r.parts.isEmpty), parts := parts, ops := ops }

/-- The origins of merged REDs complete with the request that carried them, or fail with it (R251). -/
def State.settleOrigins (s : State) (st : AccSt) : List (Nat × Nat × Nat) → State
  | [] => s
  | (k, seq, lane) :: r =>
    let g := s.group k
    let s := s.setGroup k (g.setOp seq fun o =>
      { o with accs := o.accs.map fun a => if a.lane = lane ∧ a.st = .merged then { a with st := st } else a })
    State.settleOrigins s st r

/-- Room on the mem counter (R228). -/
def counterRoom (g : Group) : Go Unit := awaits (decide (g.outstanding .mem < 4095))
/-- What follows every change of a group's operations and writes: completions, retirement, releases, and drains that waited
(R197, R219, R228). -/
def State.settle (s : State) (k : Nat) : State :=
  let s := s.setGroup k (s.group k).settleOps
  (s.settleRels k).sendLines k

/-- An operation that is complete as it issues takes its place on the mem counter, where it retires after the older ones
(R228). -/
def State.countInstant (s : State) (pc : Dword) : State :=
  let g := s.me
  (s.setMe { g with
    ops := g.ops ++ [{ Op.base g.seq .mem .instant pc with done := true }], seq := g.seq + 1 }).settle s.cur

end Sys2Proof.Machine
end

