-- ==== Sys2Proof/Machine/Memory.lean ====
section
/-! DEFINITION. Loads, stores, LDACQ and STREL, MEMC, and the steps of the memory path
(07_memory.md R191 to R208; 08_ordering.md R226; 10_regions.md R270, R271, R287). -/
namespace Sys2Proof.Machine

-- Issue of loads and stores ---------------------------------------------------------------------------------------

/-- The address forms of R191: LDV and STV, LDS and STS, LDL and STL. -/
inductive Form where
  | vec | one | line
  deriving DecidableEq, Repr

/-- The width in bytes of a size code (R33). -/
def widthOf (z : Nat) : Nat :=
  match z with
  | 0 => 1
  | 1 => 1
  | 2 => 2
  | 3 => 2
  | 4 => 4
  | 5 => 8
  | _ => 16

/-- The registers of a data field of a width (R191, R246). -/
def regsOf (w : Nat) : Nat := if w ≤ 4 then 1 else w / 4

/-- base + offset, modulo 2^64. -/
def addAddr (base : Nat) (off : Int) : Nat := (((base : Int) + off) % (2 : Int) ^ 64).toNat

/-- The lanes that access data and their addresses (R191, R193). -/
def Group.targets (g : Group) (f : Form) (p : BitVec 4) (a : Operand) (w : Nat) : List (Nat × Nat) :=
  let ls := (match f with
    | .one => g.bundle.take 1
    | _ => g.bundle).filter fun l => Word.has (g.preg p.toNat) l
  ls.map fun l => (l, addAddr (g.wide a 2 l + (match f with
    | .line => l * w
    | _ => 0)) g.offset)

/-- The operand classes of R191; with `order`, those of LDACQ and STREL, whose address pair may be zero (R40, R226). -/
def formOk (g : Group) (f : Form) (load order : Bool) (d a : Operand) : Bool :=
  match f with
  | .vec => isV a && (!load || !isS d)
  | .one => (isS a || (order && isZero a)) && !isVec g d
  | .line => isS a

/-- Where a load's result goes. -/
def Group.dstOf (g : Group) (d : Operand) (words : Nat) : Dst :=
  match d with
  | .v n => .v (g.wb + n.toNat) words
  | .s n => .s n.toNat words
  | .chan n => match g.chans.read none n.toNat with
    | some b => .chan n.toNat b.qid
    | none => .none
  | _ => .none

/-- The region slot + 1 of the group's accesses, 0 outside a region and in a serial region (R270, R286). -/
def Group.regionSlot (g : Group) : Nat := if 0 < g.reg.nest ∧ !g.reg.serial then g.reg.slot + 1 else 0

/-- The key of the line of an address in the group's address space. -/
def Group.key (g : Group) (a : Nat) : Nat := lineKey g.asid (a / 128)

/-- One lane's access of a load: scratch and linear accesses are answered at once, and so is a stale-tolerant load that
hits the L1; the others go to the home slice (R25, R173, R188, R217). -/
def State.loadAcc (s : State) (g : Group) (fresh : Bool) (w : Nat) (e : (Nat × Nat) × Nat × Place) : Acc :=
  let l := e.1.1
  let addr := e.1.2
  match e.2.2 with
  | .scratch t o =>
    let a : Acc := ⟨l, addr, .got, [], g.forwarded 1 t o w, [], []⟩
    { a with data := a.merge w fun i => s.scratchByte t (o + i) }
  | .linear p =>
    let bs := (List.range w).map fun i =>
      if bitOf p 40 then (if s.viewOk (bitsOf p 36 4) (bitsOf p 0 36 + i) then some (s.viewByte (bitsOf p 36 4) (bitsOf p 0 36 + i))
        else none)
      else some (s.linearByte (p + i))
    if bs.any (·.isNone) then ⟨l, addr, .failed causePage 0, [], [], [], []⟩
    else
      let bs := bs.map fun b => b.getD none
      if bs.any (·.isNone) then ⟨l, addr, .failed causePoison 0, [], [], [], []⟩
      else
        let a : Acc := ⟨l, addr, .got, [], g.forwarded 2 0 p w, [], []⟩
        { a with data := a.merge w fun i => (bs.getD i none).getD 0#8 }
  | .va v =>
    let a : Acc := ⟨l, addr, .wait, [], g.forwarded 0 0 v w, [], []⟩
    let line := (s.core g.core).l1.read Line.absent (g.key v)
    let hit := !fresh && decide (g.regionSlot = 0) && line.present && !g.atomicBefore g.seq (v / 128) &&
      !g.loadBefore g.seq (v / 128) && !s.fillBefore s.cur g.seq (v / 128)
    if !hit then a
    else
      match line.marks with
      | none => a
      | some m =>
        if m.allow false false g.priv then
          { a with st := .got, data := a.merge w fun i => line.bytes.read 0#8 (v % 128 + i) }
        else { a with st := .failed causeProt (s.leafLevel g.asid v + 0x30) }

/-- The scratch lines that a load's lanes read (R190). -/
def scratchLines (ps : List (Nat × Place)) : List (Nat × Nat) :=
  ps.filterMap fun e => match e.2 with
    | .scratch t o => some (t, o / 128)
    | _ => none

/-- Registers of a destination that are written by fewer than 32 lanes merge with their old line, which must be present and
decodes (R86, R96, R97, R193, R380). -/
def State.mergeDst (s : State) (d : Use) (n : Nat) : Go State :=
  if n = 32 then .ok s
  else do
    presentOr s.me (Use.vregs s.me d)
    readCodes s (Use.vregs s.me d)

/-- The lines of device memory that linear accesses of `w` bytes read (R173, R209). -/
def State.linearLines (s : State) (w : Nat) (ps : List Place) : List Nat :=
  (ps.flatMap fun p => match p with
    | .linear a => if bitOf a 40 then s.viewSpots (bitsOf a 36 4) (bitsOf a 0 36) else [a / 128, (a + w - 1) / 128]
    | _ => []).eraseDups

/-- A load (R193, R226): `acq` is the scope of an LDACQ. An LDL to a scalar destination makes every guarded lane's access,
and the destination takes the value of the lowest active lane, if that lane loads (notes/assumptions/18.md). -/
def State.load (s : State) (f : Form) (p : BitVec 4) (d a : Operand) (z ret : Nat) (fresh lin wait : Bool)
    (acq : Option Nat) : Go State := do
  let g0 := s.me
  let w := widthOf z
  let uses := [dstN d (regsOf w), srcN a 2]
  let s ← { controlPre g0 uses with
    imx := 2, codes := [3000], operandOk := formOk g0 f true acq.isSome d a, privOk := !lin || g0.priv
    inRegion := !lin && acq.isNone }.check s
  let g := s.me
  gateAccess g
  if acq.isSome then faultedOps g else .ok ()
  let ts := g.targets f p a w
  if acq.isSome && ts.isEmpty then do
    counterRoom g
    loadsReturned g
    .ok (((s.acquire g (acq.getD 0) allMemory).countInstant g0.pc).finish g0 uses)
  else do
    let ps ← s.checkAddrs g lin false 0 w ts
    let s ← s.mergeDst (dstN d (regsOf w)) ts.length
    awaits (!wait || (scratchLines ps).all fun e => s.lineFull e.1 e.2)
    awaits (decide (g.loadsOut < 32) && s.requestRoom g true)
    let accs := (ts.zip ps).map (s.loadAcc g fresh w)
    let s := s.noteReads (s.linearLines w (ps.map (·.2)))
    let to' := if isS d && decide (ts.head?.map (·.1) ≠ some g.first) then .none else g.dstOf d (regsOf w)
    s.chanRoom to' accs.length
    let op : Op := { Op.base g.seq .mem (.load w (z = 1 || z = 3)) g0.pc with
      accs := accs, dst := to', code := (encodeOperand d).toNat, fresh := fresh || acq.isSome
      lin := lin, ret := ret, scope := acq.getD 0, order := if acq.isSome then 1 else 0, slot := g.regionSlot }
    .ok ((s.setMe { g with ops := g.ops ++ [op.settle], seq := g.seq + 1 }).finish g0 uses)

/-- A linear store within one sector (R173). -/
def State.linearWrite (s : State) (line : Nat) (bytes : Tab (Option Byte)) : State :=
  let s := if inTables (128 * line) then s else s.noteStripe (line / 4)
  s.writeSector line ((List.range 128).map fun i => bytes.read none i) false

/-- Performs a scratch write of one line, with its full bit (R188, R189). -/
def State.scratchLine (s : State) (t line : Nat) (bytes : Tab (Option Byte)) (full : Bool) : State :=
  let s := bytes.foldl (fun s e => match e.2 with
    | some b => s.scratchWrite t (128 * line + e.1) [b]
    | none => s) s
  if full then s.setFullBit t line true else s

/-- Whether a virtual line of the group's address space lies at a physical line. -/
def State.liesAt (s : State) (g : Group) (line pline : Nat) : Bool :=
  match s.translate g.asid (128 * line) false false true with
  | .mem pa _ => decide (pa / 128 = pline)
  | _ => false

/-- A linear store to a physical line (R173, R198): lines of the buffer that lie there drain first, and it waits until
such writes on their way have been performed. A store to a view writes nothing (R199). -/
def State.linearLine (s : State) (line : Nat) (bytes : Tab (Option Byte)) : Go State :=
  let g := s.me
  if 2 ^ 33 ≤ line then .ok s
  else
    match g.wcb.find? fun w => s.liesAt g w.line line with
    | some w => .error (if g.drained < 16 then .after (s.setMe (g.drainLine w.line)) else .block)
    | none =>
      if g.parts.any fun p => decide (p.cls = 0) && (decide (p.st = .wait) || decide (p.st = .held)) && s.liesAt g p.line line
      then .error .block
      else .ok (s.linearWrite line bytes)

/-- One gathered line of a store (R188, R197, R219): held behind an open release, written to scratch, written by
linear access, or merged into the buffer. -/
def State.storeLine (s : State) (seq : Nat) (pc : Dword) (fresh full : Bool) (ret : Nat)
    (e : Nat × Nat × Nat × Tab (Option Byte)) : Go State :=
  let g := s.me
  let (c, t, line, bytes) := e
  match g.heldBy c t line with
  | some r =>
    if 48 ≤ g.heldCount then .error .block
    else .ok (s.setMe (g.holdPart .store c t line bytes seq pc (some r) (full && decide (c = 1))))
  | none =>
    if c = 1 then .ok (s.scratchLine t line bytes full)
    else if c = 2 then s.linearLine line bytes
    else
      match g.mergeLine seq line pc bytes fresh ret with
      | none => .error .block
      | some h => if 4096 < s.coreRequests g.core + (h.parts.length - g.parts.length) then .error .block else .ok (s.setMe h)

/-- The lines of a store one after another, until one must wait (R197): what has been done, and how many lines. -/
def State.storeSome (s : State) (seq : Nat) (pc : Dword) (fresh full : Bool) (ret : Nat) :
    Nat → List (Nat × Nat × Nat × Tab (Option Byte)) → State × Nat
  | n, [] => (s, n)
  | n, e :: r =>
    match s.storeLine seq pc fresh full ret e with
    | .ok s => s.storeSome seq pc fresh full ret (n + 1) r
    | .error (.after s) => (s, n)
    | .error _ => (s, n)

/-- A store that must wait inside itself, for a drain of its lines or of a line in its way (R197, R198): the lines done so
far stand, its operation counts from its issue, and what its channel sources name stays reserved for it (R316). -/
def State.storeWaits (s : State) (op : Op) (pc : Dword) (full : Bool)
    (pops : List (Operand × Nat)) (ls : List (Nat × Nat × Nat × Tab (Option Byte))) : State :=
  let n := match s.me.storing with
    | some x => x.2
    | none => 0
  let s := if s.me.storing.isSome then s
    else s.setMe { s.me with ops := s.me.ops ++ [op], seq := s.me.seq + 1, storing := some (op.seq, 0) }
  let (s, m) := s.storeSome op.seq pc op.fresh full op.ret n (ls.drop n)
  (s.setMe { s.me with storing := some (op.seq, m) }).reservePops pops

/-- The data of a store in each of some lanes: the low bytes of the source (R194). -/
def storeData (lanes : List Nat) (xs : List Nat) (w l : Nat) : Bytes :=
  match (lanes.zip xs).find? fun e => e.1 = l with
  | some e => leBytes w e.2
  | none => leBytes w 0

/-- A store (R194, R226): `rel` is the scope of a STREL. -/
def State.store (s : State) (f : Form) (p : BitVec 4) (d a : Operand) (z ret : Nat) (fresh lin full : Bool)
    (rel : Option Nat) : Go State := do
  let g0 := s.me
  let w := widthOf z
  let uses := [srcN d (regsOf w), srcN a 2]
  let s ← { controlPre g0 uses with
    imx := 2, codes := [3000], operandOk := formOk g0 f false rel.isSome d a, privOk := !lin || g0.priv
    inRegion := !lin && rel.isNone }.check s
  let g := s.me
  gateAccess g
  let ts := g.targets f p a w
  let ps ← s.checkAddrs g lin true 0 w ts
  mustW (g.reg.nest = 0 || (scratchLines ps).isEmpty) causeRegion 2
  awaits (g.storing.isSome || s.requestRoom g false)
  let lanes := match f with
    | .one => g0.bundle.take 1
    | _ => g0.bundle
  match rel with
  | some scope =>
    faultedOps g
    if ts.isEmpty then do
      let s ← s.releaseWait scope
      let (s, _) ← readWides s lanes s [(d, regsOf w)]
      .ok ((s.countInstant g0.pc).finish g0 uses)
    else do
      awaits (decide (g.heldCount + (gather [] (ps.map fun e => (e.2, ([] : Bytes)))).length ≤ 48))
      let objs := ps.map fun e => match e.2 with
        | .va a => (0, 0, a / 128)
        | .scratch t o => (1, t, o / 128)
        | .linear a => (2, 0, a / 128)
      let s := s.openRelease scope objs.eraseDups
      let (s, xs) ← readWides s lanes s [(d, regsOf w)]
      let g := s.me
      let ls := gather [] (ps.map fun e => (e.2, storeData lanes (xs.headD []) w e.1))
      let id := g.rels.foldl (fun n r => Nat.max n r.id) 0
      let g := ls.foldl (fun g e => g.holdPart .strel e.1 e.2.1 e.2.2.1 e.2.2.2 g.seq g0.pc (some id)
        (full && decide (e.1 = 1))) g
      let g := { g with ops := g.ops ++ [{ Op.base g.seq .mem .store g0.pc with scope := scope, order := 2 }], seq := g.seq + 1 }
      .ok (((s.setMe g).finish g0 uses).settle s.cur)
  | none =>
    let slot := g.regionSlot
    if 0 < slot then do
      awaits (decide ((g.ops.filter fun o => o.heldKind = some 2).length < 16) && decide (g.heldCount < 48))
      let (s, xs) ← readWides s lanes s [(d, regsOf w)]
      let accs := ts.map fun t => (⟨t.1, t.2, .wait, [], storeData lanes (xs.headD []) w t.1, [], []⟩ : Acc)
      let op : Op := { Op.base g.seq .mem .store g0.pc with accs := accs, slot := slot, ret := ret, done := ts.isEmpty }
      .ok (((s.setMe { s.me with ops := s.me.ops ++ [op], seq := g.seq + 1 }).finish g0 uses).settle s.cur)
    else do
      let s0 := s
      let (s, xs) ← readWides s lanes s [(d, regsOf w)]
      let ls := gather [] (ps.map fun e => (e.2, storeData lanes (xs.headD []) w e.1))
      let op : Op := { Op.base g.seq .mem .store g0.pc with
        lin := lin, ret := ret, fresh := fresh
        fault := if lin then (ts.find? fun t => bitOf t.2 40).map fun t => (causeView, 0, t.1, t.2) else none }
      match g.storing with
      | none =>
        match foldM (fun s e => State.storeLine s op.seq g0.pc fresh full ret e) s ls with
        | .ok s => .ok (((s.setMe { s.me with ops := s.me.ops ++ [op], seq := g.seq + 1 }).finish g0 uses).settle s.cur)
        | .error _ => .error (.after (s0.storeWaits op g0.pc full [(d, lanes.length)] ls))
      | some (q, n) =>
        match foldM (fun s e => State.storeLine s q g0.pc fresh full ret e) s (ls.drop n) with
        | .ok s => .ok (((s.setMe { s.me with storing := none }).finish g0 uses).settle s.cur)
        | .error _ => .error (.after (s0.storeWaits { op with seq := q } g0.pc full [(d, lanes.length)] ls))

/-- LDV (R191, R193). -/
def execLdv (g : BitVec 4) (d a : Operand) (z : BitVec 3) (r : BitVec 2) (fresh lin w : Bool) (s : State) :
    Host.Outcome State Fault Refusal := s.run fun s => s.load .vec g d a z.toNat r.toNat fresh lin w none
/-- LDS (R191, R193). -/
def execLds (g : BitVec 4) (d a : Operand) (z : BitVec 3) (r : BitVec 2) (fresh lin w : Bool) (s : State) :
    Host.Outcome State Fault Refusal := s.run fun s => s.load .one g d a z.toNat r.toNat fresh lin w none
/-- LDL (R191, R193). -/
def execLdl (g : BitVec 4) (d a : Operand) (z : BitVec 3) (r : BitVec 2) (fresh lin w : Bool) (s : State) :
    Host.Outcome State Fault Refusal := s.run fun s => s.load .line g d a z.toNat r.toNat fresh lin w none
/-- STV (R191, R194). -/
def execStv (g : BitVec 4) (d a : Operand) (z : BitVec 3) (r : BitVec 2) (fresh lin w : Bool) (s : State) :
    Host.Outcome State Fault Refusal := s.run fun s => s.store .vec g d a z.toNat r.toNat fresh lin w none
/-- STS (R191, R194). -/
def execSts (g : BitVec 4) (d a : Operand) (z : BitVec 3) (r : BitVec 2) (fresh lin w : Bool) (s : State) :
    Host.Outcome State Fault Refusal := s.run fun s => s.store .one g d a z.toNat r.toNat fresh lin w none
/-- STL (R191, R194). -/
def execStl (g : BitVec 4) (d a : Operand) (z : BitVec 3) (r : BitVec 2) (fresh lin w : Bool) (s : State) :
    Host.Outcome State Fault Refusal := s.run fun s => s.store .line g d a z.toNat r.toNat fresh lin w none
/-- LDACQ (R226): as LDV with a vector pair, as LDS with a scalar pair. -/
def execLdacq (g : BitVec 4) (d a : Operand) (z : BitVec 3) (sc : BitVec 2) (w : Bool) (s : State) :
    Host.Outcome State Fault Refusal :=
  s.run fun s => s.load (if isV a then .vec else .one) g d a z.toNat 0 true false w (some sc.toNat)
/-- STREL (R226): as STV with a vector pair, as STS with a scalar pair. -/
def execStrel (g : BitVec 4) (d a : Operand) (z : BitVec 3) (sc : BitVec 2) (w : Bool) (s : State) :
    Host.Outcome State Fault Refusal :=
  s.run fun s => s.store (if isV a then .vec else .one) g d a z.toNat 0 false false w (some sc.toNat)

-- The path of a load ----------------------------------------------------------------------------------------------

/-- What an access leaves at its home slice for later: the binding of the object, for an acquire (R221, R226). -/
def State.bindingBytes (s : State) (asid a : Nat) : Bytes :=
  match s.binds.find? fun b => b.asid = asid ∧ b.obj = a / 8 * 8 with
  | some b => leBytes 8 b.base ++ leBytes 8 (2 ^ b.log)
  | none => leBytes 8 (a / 8 * 8) ++ leBytes 8 8

/-- The reply of the home slice with a line: the load's accesses to that line take their bytes, region accesses go on
to the batten, and the L1 takes or refreshes its copy (R25, R182, R183, R270). -/
def State.serveLine (s : State) (k : Nat) (o : Op) (line : Nat) (l : Line) : State :=
  let g := s.group k
  let w := match o.kind with
    | .load w _ => w
    | _ => 0
  let here := fun (a : Acc) => decide (a.addr / 128 = line) && (match a.st with
    | .wait => true
    | .walk => true
    | .degraded _ => true
    | _ => false)
  if l.poison then s.setGroup k (g.setOp o.seq fun o => o.mapAccs here fun a => { a with st := .failed causePoison 0 })
  else if 0 < o.slot then s.setGroup k (g.setOp o.seq fun o => o.mapAccs here fun a => { a with st := .batten })
  else
    let s := s.setGroup k (g.setOp o.seq fun o => o.mapAccs here fun a =>
      { a with st := .got, data := a.merge w fun i => l.bytes.read 0#8 (a.addr % 128 + i)
               op2 := if o.order % 2 = 1 then s.bindingBytes g.asid a.addr else [] })
    if o.fresh then s.refreshL1 g.core (lineKey g.asid line) l else s.fillL1 g.core (lineKey g.asid line) o.ret l

/-- The accesses of an operation to a line end in a fault. -/
def State.failLine (s : State) (k seq line cause word : Nat) : State :=
  (s.setGroup k ((s.group k).setOp seq fun o => o.mapAccs
    (fun a => decide (a.addr / 128 = line) && (match a.st with
      | .wait => true
      | .walk => true
      | .degraded _ => true
      | _ => false))
    fun a => { a with st := .failed cause word })).appendFrame k

/-- The accesses of an operation to a line go to another place on the path. -/
def State.moveLine (s : State) (k seq line : Nat) (from' to' : AccSt) : State :=
  s.setGroup k ((s.group k).setOp seq fun o => o.mapAccs
    (fun a => decide (a.addr / 128 = line) && decide (a.st = from')) fun a => { a with st := to' })

/-- What the home slice or the translation home answered to a load or a region store. -/
def State.answer (s : State) (k : Nat) (o : Op) (line : Nat) (from' : AccSt) : Fetch → State
  | .line s' l => s'.serveLine k o line l
  | .fail c w => s.failLine k o.seq line c w
  | .ext x =>
    if 0 < o.slot then s.failLine k o.seq line causeRegion 7
    else
      let host := match x with
        | .peer _ _ _ => false
        | _ => true
      let (s, live) := s.extLive (s.group k).core x
      if live then
        let here := o.accs.filter fun a => decide (a.addr / 128 = line) && decide (a.st = from')
        let w := match o.kind with
          | .load w _ => w
          | _ => 0
        let s := here.foldl (fun s a => s.sendRead ⟨(s.group k).core, o.slack, some (k, o.seq)⟩ .load (a.addr % 128) w [] x) s
        s.moveLine k o.seq line from' (.ext host)
      else s.failLine k o.seq line causePoison 0

/-- Whether an operation travels the load path: a load, or a region store (R25, R271). -/
def Op.onPath (o : Op) : Bool :=
  !o.done && (match o.kind with
    | .load _ _ => true
    | .store => decide (0 < o.slot)
    | _ => false)

/-- Whether an operation writes. -/
def Op.isStore (o : Op) : Bool := decide (o.kind = .store)
/-- Whether an operation is a store of a region (R271). -/
def Op.isRegionStore (o : Op) : Bool := o.isStore && decide (0 < o.slot)

/-- HOME_SLICE_REQUEST (R25 step 5, R180, R183, R216, R468): a request, after the group's earlier loads of the line, is looked up; a hit is checked and answered, a miss goes to
the translation home, and a way is made free for its block, from among the next victims (`victim` names a line of one); a request that no path is left for fails (R337). -/
def execHomeSliceRequest (k seq line : Nat) (victim : Option Nat) (s : State) : Host.Outcome State Fault Refusal :=
  let g := s.group k
  match g.op seq with
  | none => .next s
  | some o =>
    let waits := o.accs.any fun a => decide (a.addr / 128 = line) && decide (a.st = .wait)
    if !(waits && o.onPath && decide (g.sched = .active)) || g.atomicBefore seq line || g.loadBefore seq line ||
        s.fillBefore k seq line || !g.mayRedo seq || s.rehashHolds g.core (128 * line) (some (k, seq)) || s.locked (lineKey g.asid line) then
      .next s
    else
      let key := lineKey g.asid line
      let s := if victim.isSome && decide (o.ret ≠ 3) && !s.hasBlock key then s.makeRoom key victim else s
      let l := s.l2Line (lineKey g.asid line)
      if !s.homePath g.core (128 * line) then .next (s.failLine k seq line causePoison 0)
      else if !l.present || l.marks.isNone then .next (s.moveLine k seq line .wait .walk)
      else .next (s.answer k o line .wait (s.fetch g.asid line o.isStore false g.priv o.ret))

/-- TRANSLATION_WALK (R25 steps 6 and 7, R177): the page is translated; a sector with an erasure waits for its degraded
read, and the line is filled and answered otherwise. -/
def execTranslationWalk (k seq line : Nat) (s : State) : Host.Outcome State Fault Refusal :=
  let g := s.group k
  match g.op seq with
  | none => .next s
  | some o =>
    let walks := o.accs.any fun a => decide (a.addr / 128 = line) && decide (a.st = .walk)
    if !(walks && o.onPath && decide (g.sched = .active)) || s.locked (lineKey g.asid line) then .next s
    else
      let missing := !(s.l2Line (lineKey g.asid line)).present
      match s.translate g.asid (128 * line) o.isStore false g.priv with
      | .mem pa _ =>
        if missing && s.degraded (pa / 128) then
          .next ((s.tlbFill g.asid (128 * line)).moveLine k seq line .walk (.degraded (pa / 128)))
        else .next (s.answer k o line .walk (s.fetch g.asid line o.isStore false g.priv o.ret))
      | _ => .next (s.answer k o line .walk (s.fetch g.asid line o.isStore false g.priv o.ret))

/-- Ext of R193 on the bytes of one lane. -/
def extend (w : Nat) (signed : Bool) (bs : Bytes) : Nat :=
  if signed then (trunc32 (sext (8 * w) (leNat bs))).toNat else leNat bs

/-- The value of one lane's result. -/
def Op.resultOf (o : Op) (a : Acc) : Nat :=
  match o.kind with
  | .load w sg => extend w sg a.data
  | _ => leNat a.data

/-- Whether an operation writes a result when it completes: loads and atomics with a result (R193, R245). -/
def Op.returns (o : Op) : Bool :=
  match o.kind with
  | .load _ _ => true
  | .atom _ _ => true
  | .cas _ => true
  | _ => false

/-- Writes the result of a completed load or atomic (R25 step 8, R193, R245, R246). -/
def State.deliver (s : State) (o : Op) : Go State :=
  let lanes := o.accs.map (·.lane)
  let xs := o.accs.map o.resultOf
  match o.dst with
  | .none => .ok s
  | .v r n => .ok (s.setMe ((List.range n).foldl (fun g i => g.writeLanes (r + i) lanes (xs.map fun x => wordOf x i)) s.me))
  | .s r n =>
    match xs with
    | [] => .ok s
    | x :: _ => .ok (s.setMe ((List.range n).foldl (fun g i => g.setSreg (r + i) (wordOf x i)) s.me))
  | .chan c qid => if xs.isEmpty then .ok s else s.pushTo c qid (xs.map (BitVec.ofNat 32)) 1 (some o.seq)

/-- Whether a register line that a result merges into is absent. -/
def Op.needsLine (o : Op) (g : Group) : Option Nat :=
  match o.dst with
  | .v r n => if o.accs.length = 32 ∨ o.accs.isEmpty then none else ((List.range n).map (r + ·)).find? fun x => g.absent.contains x
  | _ => none

/-- The register line that a group waits for (R381): that of its bundle, else that of a result which merges into it. -/
def Group.lineWanted (g : Group) : Option Nat :=
  match g.missing with
  | some r => some r
  | none => (g.ops.filter fun o => !o.done && o.returns).findSome? fun o => o.needsLine g

/-- A load or an atomic is complete when every lane has been served and every earlier one is complete (R25); an acquire also
waits for the fills before it, which are loads of the group (R151, R220). -/
def Group.completes (g : Group) (o : Op) : Bool :=
  !o.done && o.returns && decide (o.slot = 0 ∨ o.accs.all fun a => a.st = .got) &&
    (o.accs.all fun a => decide (a.st = .got)) &&
    (g.ops.all fun e => decide (o.seq ≤ e.seq) || e.done || !(e.returns || (decide (o.order % 2 = 1) && decide (e.kind = .matrix true)))) &&
    (o.needsLine g).isNone

/-- The reach of an acquire read: the regions of its objects as their replies carried them (R221). -/
def Op.reach (o : Op) : List (Nat × Nat) :=
  o.accs.filterMap fun a => if a.op2.isEmpty then none else some (leNat (a.op2.take 8), leNat (a.op2.drop 8))

/-- The completion of an operation with a result: its destination is written, an acquire takes effect, the counter
retires it (R220, R228). -/
def State.completeOp (s : State) (k : Nat) (o : Op) : State :=
  let old := s.cur
  match State.deliver { s with cur := k } o with
  | .error _ => s
  | .ok s' =>
    let s' := { s' with cur := old }
    let g := s'.group k
    let s' := if o.order % 2 = 1 then s'.acquire g o.scope o.reach else s'
    (s'.setGroup k ((s'.group k).setOp o.seq fun o => { o with done := true })).settle k

/-- LOAD_COMPLETION (R25 step 8). -/
def execLoadCompletion (k seq : Nat) (s : State) : Host.Outcome State Fault Refusal :=
  let g := s.group k
  match g.op seq with
  | none => .next s
  | some o => if g.completes o && decide (g.sched = .active) then .next (s.completeOp k o) else .next s

-- The path of a store ---------------------------------------------------------------------------------------------

/-- WCB_LINE_DRAIN (R195, R197): a line of the buffer that is full, or that is needed because its group is not running, is
sent to its home slice; so is a line whose drain has waited for a request. -/
def execWcbLineDrain (k line : Nat) (s : State) : Host.Outcome State Fault Refusal :=
  let g := s.group k
  match g.wcb.find? fun w => w.line = line with
  | none => .next (if g.parts.any fun p => p.queued && decide (p.line = line) then s.sendLines k else s)
  | some w =>
    let whole := decide (128 ≤ (w.bytes.filter fun e => e.2.isSome).length)
    let needed := g.blocked || decide (g.sched ≠ .active) || g.liveLanes.isEmpty
    if (whole || needed) && decide (g.drained < 16) && decide (s.coreRequests g.core < 4096) then .next ((s.setGroup k (g.drainLine line)).settle k) else .next s

/-- Whether two sets of bytes meet. -/
def meets (a b : Tab (Option Byte)) : Bool := a.any fun e => e.2.isSome && (b.read none e.1).isSome

/-- A write of the group goes to its home slice after every earlier write, atomic and load of the group to the same
bytes (R197, R242). -/
def Group.mayWrite (g : Group) (p : Part) : Bool :=
  let before := g.parts.filter fun q => g.earlier q.first p.first || (decide (q.first = p.first) && decide (q.id < p.id))
  let last := p.ops.foldl Nat.max 0
  !(before.any fun q => decide (q.cls = p.cls ∧ q.team = p.team ∧ q.line = p.line) && meets q.bytes p.bytes) &&
    !(decide (p.cls = 0) && g.atomicBefore (p.ops.foldl Nat.min last) p.line) &&
    !(decide (p.cls = 0) && g.ops.any fun o => g.earlier o.seq last && o.onPath && !o.isStore &&
      o.accs.any fun a => decide (a.st ≠ .got) && decide (a.addr / 128 = p.line) &&
        (List.range (match o.kind with
          | .load w _ => w
          | _ => 0)).any fun i => (p.bytes.read none (a.addr % 128 + i)).isSome)

/-- The first entry among a group's store-fault records that holds some of the same bytes (R201). -/
def Group.recordOver (g : Group) (p : Part) : Option SfEntry :=
  (g.sfq ++ g.sfwait).find? fun e => decide (e.part.cls = p.cls ∧ e.part.team = p.team ∧ e.part.line = p.line) &&
    meets e.part.bytes p.bytes

/-- Fold11 and the two signature bits of a line (R268). -/
def signature (asid line : Nat) : List Nat :=
  let l := asid * 2 ^ 45 + line
  let rev := (List.range 61).foldl (fun r i => if bitOf l i then r + 2 ^ (60 - i) else r) 0
  [foldBits 11 6 l, foldBits 11 6 rev]

/-- Occupied region slots. -/
def Batten.list (b : Batten) : List (Nat × RSlot) :=
  b.slots.filterMap fun e => e.2.map fun r => (e.1, r)

/-- Whether a write from outside a region to a line is held (R287). -/
def State.regionHolds (s : State) (asid line : Nat) : Bool :=
  s.batten.versions.any (fun v => decide (v.key = lineKey asid line)) ||
    s.batten.list.any fun e => (signature asid line).all fun b => e.2.sig.contains b

/-- A task's write has left the device: EXT is set, and unsettled records of grade C become D (R388). -/
def State.setExt (s : State) (slot : Nat) : State :=
  let t := s.task slot
  if t.ext then s
  else
    let up := fun (r : FaultRec) => { r with ext := true, grade := gradeExt true r.grade }
    let mine := fun (r : FaultRec) => decide (r.task = t.gen * 256 + slot) && decide (r.grade = 3)
    let bad := s.fqWait.any mine || s.groups.any fun e => decide (e.2.task = slot) &&
      (e.2.hrec.any mine || e.2.trapWait.any mine || (e.2.inTrap && mine e.2.trec))
    let s := s.setTask slot { t with ext := true, grade := if bad then Nat.max t.grade 4 else t.grade }
    { s with
      groups := s.groups.map fun e => if e.2.task = slot then (e.1, { e.2 with
        hrec := e.2.hrec.map up, trapWait := e.2.trapWait.map up, trec := if e.2.inTrap then up e.2.trec else e.2.trec }) else e
      fqWait := s.fqWait.map fun r => if r.task = t.gen * 256 + slot then up r else r }

/-- Replaces a write in flight. -/
def Group.setPart (g : Group) (id : Nat) (f : Part → Part) : Group :=
  { g with parts := g.parts.map fun p => if p.id = id then f p else p }

/-- Removes a write in flight. -/
def Group.dropPart (g : Group) (id : Nat) : Group := { g with parts := g.parts.filter fun p => p.id ≠ id }

/-- The state of a write in flight after a change. -/
def State.partTo (s : State) (k id : Nat) (st : AccSt) : State :=
  s.setGroup k ((s.group k).setPart id fun p => { p with st := st })

/-- Performs a write that may be performed: at the bank, by linear access, or at the home slice, where a write that
leads outside the device goes to its port, or fails where no path is left (R188, R215, R337, R341, R442, R468). -/
def State.performPart (s : State) (k : Nat) (p : Part) : State :=
  let g := s.group k
  if p.cls = 1 then ((s.scratchLine p.team p.line p.bytes p.full).setGroup k (g.dropPart p.id)).settle k
  else if p.cls = 2 then ((s.linearWrite p.line p.bytes).setGroup k (g.dropPart p.id)).settle k
  else
    match s.homeWrite g.asid p.line p.bytes g.priv p.ret with
    | .line s' _ =>
      let s' := s'.updateL1 g.core (lineKey g.asid p.line) p.bytes
      (s'.setGroup k ((s'.group k).dropPart p.id)).settle k
    | .fail c w => s.partTo k p.id (.failed c w)
    | .ext x =>
      let host := match x with
        | .peer _ _ _ => false
        | _ => true
      let (s, live) := s.extLive g.core x
      if live then
        (((s.setExt g.task).partTo k p.id (.ext host)).sendLine { s.hardware g.core with by' := some (k, p.first) } p.bytes x).settle k
      else s.partTo k p.id (.failed 0 0)

/-- STORE_WRITE_AT_HOME (R197, R201, R215, R287, R468): a drained line is checked and performed; it is recorded behind a
failed line with some of the same bytes, and held behind open regions. -/
def execStoreWriteAtHome (k id : Nat) (s : State) : Host.Outcome State Fault Refusal :=
  let g := s.group k
  match g.parts.find? fun p => p.id = id with
  | none => .next s
  | some p =>
    if p.st ≠ .wait ∨ p.rel.isSome ∨ !g.mayWrite p ∨ !g.mayRedo p.first ∨
        (p.cls = 0 ∧ (s.rehashHolds g.core (128 * p.line) none ∨ s.tstBefore k p.first p.line)) then .next s
    else
      match g.recordOver p with
      | some e => .next (s.partTo k id (.failed (e.word % 256) 256))
      | none =>
        if p.cls = 0 ∧ !s.homePath g.core (128 * p.line) then .next (s.partTo k id (.failed 0 0))
        else if p.cls = 0 ∧ s.regionHolds g.asid p.line then
          match s.fetch g.asid p.line true false g.priv p.ret with
          | .fail c w => .next (s.partTo k id (.failed c w))
          | .line s' _ => .next (s'.partTo k id .held)
          | .ext _ => .next (s.performPart k p)
        else .next (s.performPart k p)

/-- HELD_WRITE_RELEASE (R287): a write held behind open regions is performed once they have ended, without a further
check. -/
def execHeldWriteRelease (k id : Nat) (s : State) : Host.Outcome State Fault Refusal :=
  let g := s.group k
  match g.parts.find? fun p => p.id = id with
  | none => .next s
  | some p =>
    if p.st ≠ .held ∨ s.regionHolds g.asid p.line then .next s
    else
      let key := lineKey g.asid p.line
      let s := (s.commitLine key p.bytes (if p.ret = 3 then 0 else p.ret)).updateL1 g.core key p.bytes
      .next ((s.setGroup k ((s.group k).dropPart id)).settle k)

/-- The bits of the fence status for an underlying cause (R230): DEAD, REFUSED, FAULT. POISON has none. -/
def fenceBits (cause : Nat) : Nat :=
  if cause = 0 then 1 else if cause = causeLanding then 4 else if cause = causePoison then 0 else 2

/-- Operations fail: each is marked, and counts once in the fence status (R228, R230). -/
def Group.failOps (g : Group) (seqs : List Nat) (bits : Nat) : Group :=
  let n := (g.ops.filter fun o => seqs.contains o.seq && !o.failed).length
  { g with
    fence := fenceNote g.fence bits n
    ops := g.ops.map fun o => if seqs.contains o.seq then { o with failed := true } else o }

/-- Failures of a group that is not resident reach the fence status in its frame, which a restore may take from there (R230,
R375, R384). -/
def State.fenceToFrame (s : State) (k bits n : Nat) : State :=
  let g := s.group k
  if g.sched = .active ∨ g.sched = .done ∨ g.sched = .killed ∨ g.fresh ∨ (bits = 0 ∧ n = 0) then s
  else
    let va := s.frameBase g + 0x2E8
    match s.vread (some g.core) g.asid va 4 true with
    | .error _ => s
    | .ok (s, b) => match s.vwrite (some g.core) g.asid va (leBytes 4 (fenceNote (leNat b) bits n)) true with
      | .ok s => s
      | .error _ => s

/-- Operations of a group fail: each is marked and counts once in the fence status, on the core and in the frame of a group
that is not resident (R228, R230, R384). -/
def State.failOps (s : State) (k : Nat) (seqs : List Nat) (bits : Nat) : State :=
  let g := s.group k
  let n := (g.ops.filter fun o => seqs.contains o.seq && !o.failed).length
  (s.setGroup k (g.failOps seqs bits)).fenceToFrame k bits n

/-- A failed write joins the group's store-fault records (R201): operation by operation it completes with its failure,
and an open release that covers it remembers the earliest. -/
def State.recordPart (s : State) (k : Nat) (p : Part) (cause word : Nat) : State :=
  let g := s.group k
  if g.sched = .killed ∨ g.sched = .done then (s.setGroup k (g.dropPart p.id)).settle k
  else
  let entry : SfEntry := ⟨cause + (if word = 256 then 256 else 0), p.pc, { p with st := .wait, rel := none }, g.core⟩
  let first := p.first
  let rels := g.rels.map fun r =>
    if r.parts.contains p.id ∨ r.ops.any fun q => p.ops.contains q then
      { r with parts := r.parts.filter (· ≠ p.id), bad := match r.bad with
        | some (n, c) => if first < n then some (first, cause) else some (n, c)
        | none => some (first, cause) }
    else r
  let s := (s.setGroup k (g.dropPart p.id)).failOps k p.ops (fenceBits cause)
  let g := s.group k
  let g := { g with
    rels := rels, sfnew := true
    sfq := if g.sfq.length < 16 then g.sfq ++ [entry] else g.sfq
    sfwait := if g.sfq.length < 16 then g.sfwait else g.sfwait ++ [entry] }
  ((s.setGroup k g).settle k).appendFrame k

/-- STORE_FAULT_RECORD_ARRIVAL (R201): the oldest failed write of the group. -/
def execStoreFaultRecordArrival (k : Nat) (s : State) : Host.Outcome State Fault Refusal :=
  let g := s.group k
  match g.parts.find? fun p => match p.st with
    | .failed _ _ => true
    | _ => false with
  | none => .next s
  | some p =>
    match p.st with
    | .failed c w => .next (s.recordPart k p c w)
    | _ => .next s

/-- STORE_FAULT (R201): the trap at the group's first issue after a record arrives. -/
def execStoreFault (k : Nat) (s : State) : Host.Outcome State Fault Refusal :=
  let g := s.group k
  match g.sfq with
  | [] => .next s
  | e :: _ =>
    if g.sfnew && decide (g.sched = .active) then
      .next ((s.setGroup k { g with sfnew := false }).takeTrap k (storeFaultTrap g e))
    else .next s

/-- DEFERRED_LOAD_FAULT (R200, R285): a group blocked behind a faulted access, or whose region store has faulted, stops
at its next issue. -/
def execDeferredLoadFault (k : Nat) (s : State) : Host.Outcome State Fault Refusal :=
  let g := s.group k
  match g.ops.find? fun o => !o.done && o.fault.isSome && (g.blocked || o.isRegionStore) with
  | none => .next s
  | some o =>
    match o.fault with
    | none => .next s
    | some f =>
      if decide (g.sched ≠ .active) || s.lineBusy g.core g.asid (s.frameBase g) (frameSize g.nreg g.rgn) then .next s
      else if o.isRegionStore then .next (s.takeTrap k (o.deferred f))
      else .next (s.setGroup k { g with blocked := false })

/-- SCRATCH_WAIT_END (R190): a bundle that waited for scratch lines issues its load again. -/
def execScratchWaitEnd (k : Nat) (s : State) : Host.Outcome State Fault Refusal :=
  .next (s.setGroup k { s.group k with blocked := false })

/-- A push ends without being appended (R319): bit 2 refused, bit 0 dead; its binding counts it. -/
def State.pushFailed (s : State) (k : Nat) (o : Op) (bit : Nat) : State :=
  let g := s.group k
  let qid := match o.kind with
    | .push q _ _ => q
    | _ => 0
  let chans := match g.chans.read none o.code with
    | some b => if b.qid = qid then g.chans.put o.code (some { b with failed := Nat.min 255 (b.failed + 1) }) else g.chans
    | none => g.chans
  s.setGroup k ({ g with fence := fenceAdd g.fence bit, chans := chans }.setOp o.seq fun o => { o with done := true, failed := true })

-- MEMC ------------------------------------------------------------------------------------------------------------

/-- The addresses of a MEMC instruction: one per active lane for a vector pair, one for a scalar pair (R203). -/
def Group.pairTargets (g : Group) (a : Operand) : List (Nat × Nat) :=
  (if isV a then g.bundle else g.bundle.take 1).map fun l => (l, addAddr (g.wide a 2 l) g.offset)

/-- The checks of a MEMC member with an address pair. -/
def memcPre (g : Group) (uses : List Use) (imx : Nat) : Pre :=
  { controlPre g uses with imx := imx }

/-- Brings a line into the L2, and into the core's L1 at level 0; a fault drops the prefetch (R204). One of a line that a commit
or a slice handoff holds is not served (R276, R423), and no program sees that (R204). -/
def State.prefetch (s : State) (g : Group) (l1 : Bool) (ret : Nat) (a : Nat) : State :=
  if 2 ^ 52 ≤ a ∨ s.lineBusy g.core g.asid a 1 then s
  else
    match s.fetch g.asid (a / 128) false false g.priv ret with
    | .line s' l => if l1 && !l.poison then s'.fillL1 g.core (g.key a) ret l else s'
    | _ => s

/-- PREF (R204). -/
def execPref (a : Operand) (r : BitVec 2) (v : Bool) (s : State) : Host.Outcome State Fault Refusal :=
  s.run fun s => do
    let g0 := s.me
    let s ← (memcPre g0 [srcN a 2] 2).check s
    let s := (s.me.pairTargets a).foldl (fun s t => s.prefetch g0 (!v) r.toNat t.2) s
    .ok (s.finish g0 [srcN a 2])

/-- INVL of lines (R204). -/
def execInvl (a : Operand) (s : State) : Host.Outcome State Fault Refusal :=
  s.run fun s => do
    let g0 := s.me
    let s ← (memcPre g0 [srcN a 2] 2).check s
    let ts := s.me.pairTargets a
    let _ ← s.checkAddrs s.me false false 0 1 (ts.filter fun t => !isScratch t.2)
    let keys := (ts.filter fun t => !isScratch t.2).map fun t => g0.key t.2
    .ok ((s.dropL1 g0.core fun k => keys.contains k).finish g0 [srcN a 2])

/-- INVL of every line of the group's ASID (R203); as a form of INVL it takes an offset, which names nothing (R36). -/
def execInvlAll (s : State) : Host.Outcome State Fault Refusal :=
  s.run fun s => do
    let g0 := s.me
    let s ← (memcPre g0 [] 2).check s
    .ok ((s.dropL1 g0.core fun k => k / 2 ^ 45 = g0.asid).finish g0 [])

/-- Whether a line lies in a stripe block that overlaps a range (R205). -/
def inBlocks (base stop line : Nat) : Bool := decide (base / 512 ≤ line / 4) && decide (line / 4 ≤ (stop - 1) / 512)

/-- WBL (R205): it drains the buffer, and counts until the home slices have done its blocks. A count of 0 does nothing. -/
def execWbl (inv : Bool) (a b : Operand) (s : State) : Host.Outcome State Fault Refusal :=
  s.run fun s => do
    let g0 := s.me
    let uses := [srcN a 2, src b]
    let s ← { controlPre g0 uses with imx := 2, operandOk := !isV a && !isVec g0 b, inRegion := false }.check s
    let (s, n) ← scalarRead s b
    gateAccess s.me
    counterRoom s.me
    if n = 0#32 then .ok ((s.countInstant g0.pc).finish g0 uses)
    else do
      let base := addAddr (s.me.scalar64 a) s.me.offset
      let stop := base + n.toNat
      must (!isScratch base) causeOperand
      if 2 ^ 52 ≤ base ∨ 2 ^ 52 < stop then trapAt causeProt (some 1) s.me.first base
      else
        let g := s.me.drain
        .ok ((s.setMe { g with
          ops := g.ops ++ [Op.base g.seq .mem (.wbl base stop inv) g0.pc], seq := g.seq + 1 }).finish g0 uses)

/-- A WBL at the home slices (R205), after the group's own earlier writes to its blocks: the modified sectors of every
block of the range are written back, and the lines are removed with invalidation. Unmapped pages are skipped. A repair of a row
or a bucket that moves holds it (R423, R428). -/
def execWblPerform (k seq : Nat) (s : State) : Host.Outcome State Fault Refusal :=
  let g := s.group k
  match g.op seq with
  | none => .next s
  | some o =>
    match o.kind with
    | .wbl base stop inv =>
      let own := g.parts.any fun p => decide (p.cls = 0) && decide (p.first < seq) && inBlocks base stop p.line &&
        decide (p.st = .wait ∨ p.st = .walk ∨ p.st = .held)
      if o.done || own then .next s
      else
        let hit := fun (q : Nat) => decide (q / 2 ^ 45 = g.asid) && inBlocks base stop (q % 2 ^ 45)
        let keys := s.l2.keys.filter hit
        if keys.any (fun q => s.repairHolds q || s.rehashHolds g.core (128 * (q % 2 ^ 45)) none) then .next s
        else
        let s := keys.foldl (fun s q => if (s.l2Line q).dirty then (s.noteBlock q).writeBack q else s) s
        let s := if inv then
            (keys.foldl (fun s q => if (s.l2Line q).dirty then s else s.dropL2 q) s).dropL1 g.core hit
          else s
        .next ((s.setGroup k ((s.group k).setOp seq fun o => { o with done := true })).settle k)
    | _ => .next s

/-- The wait of SDRAIN (R202, R206): the buffer is drained, every earlier store has completed or been recorded, and no
record is left; a completion point of faulted loads (R200). -/
def State.waitAsSdrain (s : State) : Go State := do
  let s := s.setMe s.me.drain
  faultedOps s.me
  if s.me.ops.any fun o => o.isStore && !o.done then .error (.after s)
  else do
    noRecords s.me
    .ok s

/-- SDRAIN (R206). -/
def execSdrain (s : State) : Host.Outcome State Fault Refusal :=
  s.run fun s => do
    let g0 := s.me
    let s ← { controlPre g0 [] with inRegion := false }.check s
    let s ← s.waitAsSdrain
    .ok (s.finish g0 [])

/-- SETE and SETF (R206). -/
def State.setBits (s : State) (a : Operand) (b : Bool) : Go State := do
  let g0 := s.me
  let s ← (memcPre g0 [srcN a 2] 0).check s
  gateAccess s.me
  let ps ← s.checkAddrs s.me false true 2 1 (s.me.pairTargets a)
  mustW (g0.reg.nest = 0) causeRegion 2
  awaits (!(s.me.parts.any fun p => decide (p.cls = 1) && ps.any fun e => match e.2 with
    | .scratch t o => decide (p.team = t ∧ p.line = o / 128)
    | _ => false))
  counterRoom s.me
  let s := ps.foldl (fun s e => match e.2 with
    | .scratch t o => s.setFullBit t (o / 128) b
    | _ => s) s
  .ok ((s.countInstant g0.pc).finish g0 [srcN a 2])
/-- SETE (R206). -/
def execSete (a : Operand) (s : State) : Host.Outcome State Fault Refusal := s.run fun s => s.setBits a false
/-- SETF (R206). -/
def execSetf (a : Operand) (s : State) : Host.Outcome State Fault Refusal := s.run fun s => s.setBits a true

/-- The report word of PROBE for one address (R208). -/
def State.probeWord (s : State) (g : Group) (a : Nat) : Word :=
  if isScratch a then
    let wf := (s.scratchForm g a).isNone
    let o := bitsOf a 0 22
    let inside := wf && decide (o < (s.team g.team).scratchSize)
    let t := if bitsOf a 56 4 = 0 then g.team else s.clusterTeam g (bitsOf a 52 4)
    BitVec.ofNat 32 (b2n wf + 2 * b2n inside + 4 * b2n (inside && s.lineFull t (o / 128)))
  else if 2 ^ 52 ≤ a then 0#32
  else
    let (mapped, wr, view, size) := match s.translate g.asid a false false true with
      | .mem _ m => (true, m.w, false, s.leafLevel g.asid a + 1)
      | .view _ _ _ => (true, false, true, s.leafLevel g.asid a + 1)
      | .fail c _ => if c = causeProt then (true, false, false, s.leafLevel g.asid a + 1) else (false, false, false, 0)
      | x => (true, decide (s.translate g.asid a true false true = x), false, 0)
    let home := s.homeSlice a
    BitVec.ofNat 32 (1 + 8 * b2n mapped + 16 * b2n wr + 32 * b2n view +
      64 * b2n ((s.core g.core).l1.read Line.absent (g.key a)).present + 128 * b2n (s.l2Line (g.key a)).present +
      2 ^ 8 * home + 2 ^ 17 * size)
/-- PROBE (R208). -/
def execProbe (d a : Operand) (s : State) : Host.Outcome State Fault Refusal :=
  s.run fun s => do
    let g0 := s.me
    let uses := [dst d, srcN a 2]
    let s ← { memcPre g0 uses 0 with operandOk := (isV a && isV d) || (!isV a && isS d) }.check s
    gateAccess s.me
    counterRoom s.me
    let ts := s.me.pairTargets a
    let ws := ts.map fun t => s.probeWord g0 t.2
    let s ← s.writeResult d (ts.map (·.1)) ws
    .ok ((s.countInstant g0.pc).finish g0 uses)

end Sys2Proof.Machine
end

