-- ==== Sys2Proof/Machine/Order.lean ====
section
/-! DEFINITION. Synchronisation, counters, FENCE, barriers and stage rings (08_ordering.md, R211 to R237). -/
namespace Sys2Proof.Machine

/-- The checks of a member of majors 0x30 to 0x33: none is allowed in a region (R269). -/
def orderPre (g : Group) (uses : List Use) : Pre := { controlPre g uses with inRegion := false }

-- Acquires and releases -------------------------------------------------------------------------------------------

/-- The objects of ACQ and REL, checked for form and alignment (R214, R225). -/
def State.objects (s : State) (a : Operand) : Go (List (Nat × Place)) := do
  let g := s.me
  let ps ← s.checkAddrs g false false 0 8 (g.pairTargets a)
  .ok ps

/-- ACQ (R220, R221): the reach is the union of the objects' regions; an object in scratch has no L1 lines. -/
def execAcq (a : Operand) (sc : BitVec 2) (s : State) : Host.Outcome State Fault Refusal :=
  s.run fun s => do
    let g0 := s.me
    let s ← { orderPre g0 [srcN a 2] with operandOk := true }.check s
    let ps ← s.objects a
    gateAccess s.me
    loadsReturned s.me
    let reach := ps.filterMap fun e => match e.2 with
      | .va x => some (s.regionOf g0.asid x)
      | _ => none
    .ok ((s.acquire g0 sc.toNat reach).finish g0 [srcN a 2])

/-- REL (R219): later writes to the lines of its objects are held until the covered accesses have finished. -/
def execRel (a : Operand) (sc : BitVec 2) (s : State) : Host.Outcome State Fault Refusal :=
  s.run fun s => do
    let g0 := s.me
    let s ← { orderPre g0 [srcN a 2] with operandOk := true }.check s
    let ps ← s.objects a
    faultedOps s.me
    let lines := ps.map fun e => match e.2 with
      | .va x => (0, 0, x / 128)
      | .scratch t o => (1, t, o / 128)
      | .linear x => (2, 0, x / 128)
    .ok (((s.openRelease sc.toNat lines.eraseDups).finish g0 [srcN a 2]).settle s.cur)

/-- ACQA (R220). -/
def execAcqa (sc : BitVec 2) (s : State) : Host.Outcome State Fault Refusal :=
  s.run fun s => do
    let g0 := s.me
    let s ← (orderPre g0 []).check s
    gateAccess s.me
    loadsReturned s.me
    .ok ((s.acquire g0 sc.toNat allMemory).finish g0 [])

/-- RELA (R219). -/
def execRela (sc : BitVec 2) (s : State) : Host.Outcome State Fault Refusal :=
  s.run fun s => do
    let g0 := s.me
    let s ← (orderPre g0 []).check s
    let s ← s.releaseWait sc.toNat
    .ok (s.finish g0 [])

/-- The object address of BIND and UNBIND (R214). -/
def State.bindObject (s : State) (a : Operand) : Go Nat := do
  let g := s.me
  let x := g.scalar64 a
  must (!isScratch x) causeOperand
  let _ ← s.checkAddrs g false false 0 8 [(g.first, x)]
  .ok x

/-- BIND (R213, R214): at most 16 bindings a slice. -/
def execBind (d a b : Operand) (s : State) : Host.Outcome State Fault Refusal :=
  s.run fun s => do
    let g0 := s.me
    let uses := [dst d, srcN a 2, srcN b 2]
    let s ← { orderPre g0 uses with
      operandOk := isS d && (isS a || isZero a) && (isS b || isZero b) }.check s
    counterRoom s.me
    let x ← s.bindObject a
    let v := s.me.scalar64 b
    let l := v % 64
    let base := v - l
    must (decide (7 ≤ l) && decide (l ≤ 40) && decide (base % 2 ^ l = 0) && decide (base < 2 ^ 52)) causeOperand
    let home := s.homeSlice x
    let st : Nat := if s.binds.any fun e => decide (e.asid = g0.asid ∧ e.obj = x) then 2
      else if 16 ≤ (s.binds.filter fun e => s.homeSlice e.obj = home).length then 1 else 0
    let s := if st = 0 then { s with binds := s.binds ++ [⟨g0.asid, x, base, l⟩] } else s
    let s ← s.writeResult d [g0.first] [BitVec.ofNat 32 st]
    .ok ((s.countInstant g0.pc).finish g0 uses)

/-- UNBIND (R214). -/
def execUnbind (d a : Operand) (s : State) : Host.Outcome State Fault Refusal :=
  s.run fun s => do
    let g0 := s.me
    let uses := [dst d, srcN a 2]
    let s ← { orderPre g0 uses with operandOk := isS d && (isS a || isZero a) }.check s
    counterRoom s.me
    let x ← s.bindObject a
    let this := fun (e : ObjBinding) => decide (e.asid = g0.asid ∧ e.obj = x)
    let st : Nat := if s.binds.any this then 0 else 2
    let s := { s with binds := s.binds.filter fun e => !this e }
    let s ← s.writeResult d [g0.first] [BitVec.ofNat 32 st]
    .ok ((s.countInstant g0.pc).finish g0 uses)

-- Counters --------------------------------------------------------------------------------------------------------

/-- The class of a WAITCNT code (R228). -/
def clsOf (c : Nat) : Cls :=
  match c with
  | 0 => .mem
  | 1 => .copy
  | 2 => .mat
  | 3 => .red
  | 4 => .msg
  | _ => .region

/-- WAITCNT (R229): blocks while more than `n` operations of the class are outstanding; a faulted one stops the
group, and so does an imprecise record of the class (R152, R167, R309, R310). -/
def execWaitcnt (c : BitVec 3) (n : BitVec 7) (s : State) : Host.Outcome State Fault Refusal :=
  s.run fun s => do
    let g0 := s.me
    let s ← (orderPre g0 []).check s
    let g := s.me
    let cls := clsOf c.toNat
    noImprecise g cls
    if g.outstanding cls ≤ n.toNat then .ok (s.finish g0 [])
    else
      match (g.ops.filter fun o => o.cls = cls).findSome? fun o => o.fault.map fun f => (o, f) with
      | some (o, f) => .error (.trap (o.deferred f))
      | none => .error .block

/-- Whether every access and write of an operation that is still on its way has been accepted by a Mirmar or host port
(R230). -/
def Group.atPort (g : Group) (o : Op) : Bool :=
  let out := fun (st : AccSt) => match st with
    | .ext _ => true
    | _ => false
  let mine := g.parts.filter fun p => p.ops.contains o.seq
  !(o.accs.isEmpty && mine.isEmpty) && o.accs.all (fun a => decide (a.st = .got) || out a.st) && mine.all fun p => out p.st

/-- Whether a FENCE waits for an operation (R230): a write that leaves the device is waited for until its port accepts it,
and at sys scope until it is acknowledged. -/
def Group.fenceWaits (g : Group) (scope : Nat) (o : Op) : Bool :=
  !o.done && (match o.kind with
    | .store => decide (0 < o.slot) || o.fault.isSome || g.storeOpen o.seq scope
    | .region => false
    | .atom _ _ => decide (scope = 3) || !g.atPort o
    | .cas _ => decide (scope = 3) || !g.atPort o
    | .red _ _ => decide (scope = 3) || !g.atPort o
    | .push _ _ _ => decide (scope = 3) || !g.atPort o
    | .load _ _ => true
    | .matrix _ => true
    | .copy => true
    | .tred _ _ _ => true
    | .wbl _ _ _ => true
    | .instant => false)

/-- FENCE (R230): writes the fence status to d and clears it. -/
def execFence (d : Operand) (sc : BitVec 2) (s : State) : Host.Outcome State Fault Refusal :=
  s.run fun s => do
    let g0 := s.me
    let s ← { orderPre g0 [dst d] with operandOk := isReg d || isZero d }.check s
    let s := s.setMe s.me.drain
    let g := s.me
    faultedOps g
    noImprecise g .mat
    if (g.ops.any fun o => g.fenceWaits sc.toNat o) ||
        (decide (sc.toNat = 3) && g.parts.any fun p => match p.st with
          | .ext _ => true
          | _ => false) then .error (.after s)
    else do
      let lanes := g0.execLanes (isV d)
      let s ← s.writeResult d lanes (lanes.map fun _ => BitVec.ofNat 32 g.fence)
      .ok ((s.setMe { s.me with fence := 0 }).finish g0 [dst d])

-- Barriers --------------------------------------------------------------------------------------------------------

/-- A named barrier of the group's team (R231). -/
def State.bar (s : State) (t n : Nat) : Bar := (s.team t).bars.read ⟨0, 0, 0⟩ n
/-- Replaces it. -/
def State.setBar (s : State) (t n : Nat) (b : Bar) : State :=
  let tm := s.team t
  s.setTeam t { tm with bars := tm.bars.write ⟨0, 0, 0⟩ n b }
/-- The cluster of a group. -/
def Group.clusterOf (g : Group) : Nat := clusterKey g.task g.clrank

/-- The word of BARRIER_MISMATCH (R233). -/
def mismatchWord (b : Bar) (c : Nat) : Nat := b.count % 4096 + 2 ^ 16 * (c % 4096)

/-- An arrival (R233): the barrier after it, and the token. -/
def Bar.arrive (b : Bar) (c : Nat) : Go (Bar × Nat) := do
  mustW (!(decide (4095 < c) || decide (b.count = 0 ∧ c = 0) || decide (c ≠ 0 ∧ b.count ≠ 0 ∧ c ≠ b.count))) causeBarrier
    (mismatchWord b c)
  let count := if b.count = 0 then c else b.count
  .ok (if b.arrived + 1 = count then ⟨count, 0, (b.phase + 1) % 65536⟩ else ⟨count, b.arrived + 1, b.phase⟩, b.phase)

/-- BINIT (R233). -/
def execBinit (a : Operand) (n : BitVec 4) (s : State) : Host.Outcome State Fault Refusal :=
  s.run fun s => do
    let g0 := s.me
    let s ← { orderPre g0 [src a] with operandOk := !isVec g0 a }.check s
    let (s, x) ← scalarRead s a
    let c := x.toNat
    let b := s.bar g0.team n.toNat
    mustW (decide (c ≤ 4095) && (decide (b.arrived = 0) || decide (c = b.count))) causeBarrier (mismatchWord b c)
    let s := if b.arrived = 0 then s.setBar g0.team n.toNat { b with count := c } else s
    .ok (s.finish g0 [src a])

/-- BARV (R233): a release carrier of team scope. -/
def execBarv (d a : Operand) (n : BitVec 4) (s : State) : Host.Outcome State Fault Refusal :=
  s.run fun s => do
    let g0 := s.me
    let uses := [dst d, src a]
    let s ← { orderPre g0 uses with operandOk := (isReg d || isZero d) && !isVec g0 a }.check s
    let s ← s.releaseWait 0
    let (s, x) ← scalarRead s a
    let (b, t) ← (s.bar g0.team n.toNat).arrive x.toNat
    let s := s.setBar g0.team n.toNat b
    let lanes := g0.execLanes (isV d)
    let s ← s.writeResult d lanes (lanes.map fun _ => BitVec.ofNat 32 t)
    .ok (s.finish g0 uses)

/-- BWAIT (R233, R234). -/
def execBwait (a : Operand) (n : BitVec 4) (s : State) : Host.Outcome State Fault Refusal :=
  s.run fun s => do
    let g0 := s.me
    let s ← { orderPre g0 [src a] with operandOk := !isVec g0 a }.check s
    let (s, x) ← scalarRead s a
    awaits ((s.bar g0.team n.toNat).phase ≠ x.toNat % 65536)
    loadsReturned s.me
    .ok ((s.acquire g0 0 allMemory).finish g0 [src a])

/-- The phase of the barrier of a recorded wait (R234). -/
def State.waitPhase (s : State) (g : Group) (w : BarWait) : Nat :=
  if w.kind = 1 then (s.bar g.team w.idx).phase else (s.cluster g.clusterOf).bar.phase

/-- The scope of a recorded wait. -/
def BarWait.scope (w : BarWait) : Nat := if w.kind = 1 then 0 else 1

/-- The end of a recorded wait: an acquire carrier (R234). -/
def State.endWait (s : State) (g0 : Group) (w : BarWait) (uses : List Use) : Go State := do
  if s.waitPhase s.me w = w.token then .error (.after s)
  else do
    loadsReturned s.me
    let s := s.setMe { s.me with wait := none }
    .ok ((s.acquire g0 w.scope allMemory).finish g0 uses)

/-- The recorded wait of the bundle, if its arrival at this barrier has been counted (R234). DESIGN CHOICE: a barrier that a
handler of the group's own waits at meanwhile takes the place of the record, since the frame holds one. -/
def Group.waitHere (g : Group) (kind idx : Nat) : Option BarWait :=
  g.wait.filter fun w => decide (w.kind = kind ∧ w.idx = idx ∧ w.pc = g.pc ∧ w.mask = maskOfLanes g.bundle)

/-- BSYNC (R233, R234): an arrival that has been counted is not repeated. -/
def execBsync (a : Operand) (n : BitVec 4) (s : State) : Host.Outcome State Fault Refusal :=
  s.run fun s => do
    let g0 := s.me
    let s ← { orderPre g0 [src a] with operandOk := !isVec g0 a }.check s
    match g0.waitHere 1 n.toNat with
    | some w => s.endWait g0 w [src a]
    | none => do
      let s ← s.releaseWait 0
      let (s, x) ← scalarRead s a
      let (b, t) ← (s.bar g0.team n.toNat).arrive x.toNat
      let s := s.setBar g0.team n.toNat b
      let w : BarWait := ⟨1, n.toNat, t, g0.pc, maskOfLanes g0.bundle, readTags g0 [src a]⟩
      (s.setMe { s.me with wait := some w }).endWait g0 w [src a]

/-- CBAR (R233 to R235): the cluster barrier, at clus scope. -/
def execCbar (a : Operand) (s : State) : Host.Outcome State Fault Refusal :=
  s.run fun s => do
    let g0 := s.me
    let s ← { orderPre g0 [src a] with operandOk := !isVec g0 a }.check s
    match g0.waitHere 2 0 with
    | some w => s.endWait g0 w [src a]
    | none => do
      let s ← s.releaseWait 1
      let (s, x) ← scalarRead s a
      let cl := s.cluster g0.clusterOf
      let (b, t) ← cl.bar.arrive x.toNat
      let s := s.setCluster g0.clusterOf { cl with bar := b }
      let w : BarWait := ⟨2, 0, t, g0.pc, maskOfLanes g0.bundle, readTags g0 [src a]⟩
      (s.setMe { s.me with wait := some w }).endWait g0 w [src a]

/-- WAIT_END (R234): a recorded wait whose barrier has moved on ends as an acquire carrier and the bundle goes on, an instruction of
an open run like another (R82); any other blocked bundle issues its wait again. -/
def execWaitEnd (k : Nat) (s : State) : Host.Outcome State Fault Refusal :=
  let g := s.group k
  match g.wait with
  | none => .next (s.setGroup k { g with blocked := false })
  | some w =>
    let ready := g.ops.all fun o => o.done || !o.returns
    if g.waitHere w.kind w.idx = none then .next (s.setGroup k { g with blocked := false })
    else if decide (g.sched = .active) && g.blocked && decide (s.waitPhase g w ≠ w.token) && ready then
      let s := s.acquire g w.scope allMemory
      let g' := ((s.group k).advance g.bundle).countRun g false w.reads
      .next (s.setGroup k { g' with wait := none, blocked := false, entered := false })
    else .next s

-- Stage rings -----------------------------------------------------------------------------------------------------

/-- The slot count of a ring of the group's team; a ring that does not exist traps OPERAND (R236). -/
def State.ringSlots (s : State) (g : Group) (r : Nat) : Go Nat :=
  let t := s.team g.team
  if r < t.nring then .ok (t.ringSize.getD r 1) else trapO causeOperand

/-- SRPUT and SRTAKE (R237): a release, then a toggle. -/
def State.ringToggle (s : State) (a : Operand) (r : BitVec 3) (free : Bool) : Go State := do
  let g0 := s.me
  let s ← { orderPre g0 [src a] with operandOk := !isVec g0 a }.check s
  let n ← s.ringSlots g0 r.toNat
  let s ← s.releaseWait 0
  let (s, j) ← scalarRead s a
  let key := 32 * r.toNat + j.toNat % n
  let t := s.team g0.team
  let s := s.setTeam g0.team (if free then { t with ringE := t.ringE.write false key (!t.ringE.read false key) }
    else { t with ringF := t.ringF.write false key (!t.ringF.read false key) })
  .ok (s.finish g0 [src a])
/-- SRPUT (R237). -/
def execSrput (a : Operand) (r : BitVec 3) (s : State) : Host.Outcome State Fault Refusal :=
  s.run fun s => s.ringToggle a r false
/-- SRTAKE (R237). -/
def execSrtake (a : Operand) (r : BitVec 3) (s : State) : Host.Outcome State Fault Refusal :=
  s.run fun s => s.ringToggle a r true

/-- SRWAIT (R237): an acquire carrier of team scope. -/
def State.ringWait (s : State) (a : Operand) (r : BitVec 3) (free : Bool) : Go State := do
  let g0 := s.me
  let s ← { orderPre g0 [src a] with operandOk := !isVec g0 a }.check s
  let n ← s.ringSlots g0 r.toNat
  let (s, j) ← scalarRead s a
  let key := 32 * r.toNat + j.toNat % n
  let lap := j.toNat / n % 2
  let t := s.team g0.team
  awaits (if free then b2n (t.ringE.read false key) = lap else b2n (t.ringF.read false key) = (lap + 1) % 2)
  loadsReturned s.me
  .ok ((s.acquire g0 0 allMemory).finish g0 [src a])
/-- SRWAIT.full (R237). -/
def execSrwaitFull (a : Operand) (r : BitVec 3) (s : State) : Host.Outcome State Fault Refusal :=
  s.run fun s => s.ringWait a r false
/-- SRWAIT.free (R237). -/
def execSrwaitFree (a : Operand) (r : BitVec 3) (s : State) : Host.Outcome State Fault Refusal :=
  s.run fun s => s.ringWait a r true

end Sys2Proof.Machine
end

