-- ==== Sys2Proof/Machine/Atomic.lean ====
section
/-! DEFINITION. Atomics, reductions and reduction trees (09_atomics.md, R239 to R264). -/
namespace Sys2Proof.Machine

-- The operations --------------------------------------------------------------------------------------------------

/-- The value written by an atomic of `w` bytes, from the old value and the operand (R244). -/
def atomicOp (op w o v : Nat) : Nat :=
  let m := 2 ^ (8 * w)
  let n := 8 * w
  let word := fun (x : Nat) => (BitVec.ofNat 32 x : Word)
  match op with
  | 0 => (o + v) % m
  | 1 => if sext n o ≤ sext n v then o else v
  | 2 => if sext n o ≤ sext n v then v else o
  | 3 => Nat.min o v
  | 4 => Nat.max o v
  | 5 => o &&& v
  | 6 => o ||| v
  | 7 => o ^^^ v
  | 8 => v
  | 9 => if v ≤ o then 0 else o + 1
  | 10 => if o = 0 ∨ v < o then v else o - 1
  | 11 => (packedOp 0 0 (fpArith 0 0) [word o, word v]).toNat
  | 12 => (fpMinMax false (word o) (word v)).toNat
  | 13 => (fpMinMax true (word o) (word v)).toNat
  | 14 => (packedOp 2 0 (fpArith 0 0) [word o, word v]).toNat
  | _ => (o + v) % m

/-- What an operation writes at one lane's place, from the bytes found there: none where a CAS does not match
(R245, R246). For a merged RED `op2` is the operand (R250). -/
def OpKind.apply (k : OpKind) (a : Acc) (old : Bytes) : Option Bytes :=
  match k with
  | .atom op w => some (leBytes w (atomicOp op w (leNat old) (leNat a.op1)))
  | .red op w => some (leBytes w (atomicOp op w (leNat old) (leNat (if a.origins.isEmpty then a.op1 else a.op2))))
  | .cas w => if leNat old = leNat a.op1 then some (leBytes w (leNat a.op2)) else none
  | _ => none

/-- The width of an atomic. -/
def OpKind.width : OpKind → Nat
  | .atom _ w => w
  | .red _ w => w
  | .cas w => w
  | .load w _ => w
  | _ => 0

-- Issue -----------------------------------------------------------------------------------------------------------

/-- Performs the lanes of a scratch atomic at the bank, in ascending lane order (R245). -/
def State.scratchAtomic (s : State) (k : OpKind) : List (Acc × Nat × Nat) → State × List Acc
  | [] => (s, [])
  | (a, t, o) :: r =>
    let old := (List.range k.width).map fun i => s.scratchByte t (o + i)
    let s := match k.apply a old with
      | some bs => s.scratchWrite t o bs
      | none => s
    let (s, rest) := State.scratchAtomic s k r
    (s, { a with st := .got, data := old } :: rest)

/-- Whether a scratch store of the group that a release held has not been written to one of these lines (R242). -/
def Group.scratchOpen (g : Group) (ps : List Place) : Bool :=
  g.parts.any fun p => decide (p.cls = 1) && ps.any fun q => match q with
    | .scratch t o => decide (p.team = t ∧ p.line = o / 128)
    | _ => false

/-- An instruction of format FA (R243 to R249). `words` is the width of the data field in words, `res` of the result,
`local'` selects scratch. -/
def State.atomic (s : State) (p : BitVec 4) (d a : Operand) (k : OpKind) (words res scope order : Nat) (local' : Bool) :
    Go State := do
  let g0 := s.me
  let red := match k with
    | .red _ _ => true
    | _ => false
  let uses := (if red then [srcN d words] else [dstN d res, srcN d words]) ++ [srcN a 2]
  let cls := if red then (if isV a then isVec g0 d || isZero d || (channelOf d).isSome else !isVec g0 d)
    else (isV a && isV d) || (isS a && isS d)
  let s ← { orderPre g0 uses with imx := 2, codes := [3000], operandOk := isReg a && cls }.check s
  let g := s.me
  gateAccess g
  if order % 2 = 1 then faultedOps g else .ok ()
  let s ← if 2 ≤ order then s.releaseWait scope else .ok s
  let w := k.width
  let ts := g.targets (if isV a then .vec else .one) p a w
  if ts.isEmpty && decide (order % 2 = 1) then loadsReturned g else .ok ()
  let s := if ts.isEmpty && decide (order % 2 = 1) then s.acquire g scope allMemory else s
  let ps ← s.checkAddrs g false true (if local' then 2 else 1) w ts
  let s ← if red then .ok s else s.mergeDst (dstN d res) ts.length
  awaits (!(local' && (s.me.relHolds (ps.map (·.2)) || s.me.scratchOpen (ps.map (·.2)))) &&
    (if red then s.tableRoom s.me false && decide (s.me.outstanding .red < 4095) else s.requestRoom s.me true))
  s.chanRoom (if red then .none else s.me.dstOf d res) ts.length
  match drainOver s.me (if local' then [] else (ts.map fun t => t.2 / 128).eraseDups) with
  | none => .error (.after s)
  | some g1 => do
    let s := s.setMe g1
    let lanes := if isV a then g0.bundle else g0.bundle.take 1
    let (s, xs) ← readWides s lanes s [(d, words)]
    let accs := ts.map fun t =>
      let v := match (lanes.zip (xs.headD [])).find? fun e => e.1 = t.1 with
        | some e => e.2
        | none => 0
      match k with
      | .cas w => (⟨t.1, t.2, .wait, [], leBytes w v, leBytes w (v / 2 ^ (8 * w)), []⟩ : Acc)
      | _ => ⟨t.1, t.2, .wait, [], leBytes w v, [], []⟩
    let (s, accs) := if local' then s.scratchAtomic k ((accs.zip ps).filterMap fun e => match e.2.2 with
        | .scratch t o => some (e.1, t, o)
        | _ => none)
      else (s, accs)
    let g := s.me
    let op : Op := { Op.base g.seq (if red then .red else .mem) k g0.pc with
      accs := accs, dst := if red then .none else g.dstOf d res, code := (encodeOperand d).toNat
      scope := scope, order := order, done := red && ts.isEmpty }
    .ok (((s.setMe { g with ops := g.ops ++ [op], seq := g.seq + 1 }).finish g0 uses).settle s.cur)

/-- ATOM (R243, R245). -/
def execAtom (g : BitVec 4) (d a : Operand) (o : BitVec 4) (sc r : BitVec 2) (s : State) :
    Host.Outcome State Fault Refusal :=
  s.run fun s => s.atomic g d a (.atom o.toNat 4) 1 1 sc.toNat r.toNat false
/-- ATOM64 (R243, R245). -/
def execAtom64 (g : BitVec 4) (d a : Operand) (o : BitVec 4) (sc r : BitVec 2) (s : State) :
    Host.Outcome State Fault Refusal :=
  s.run fun s => s.atomic g d a (.atom o.toNat 8) 2 2 sc.toNat r.toNat false
/-- ATOML (R239, R245): the scope is team or clus. -/
def execAtoml (g : BitVec 4) (d a : Operand) (o : BitVec 4) (sc : BitVec 1) (r : BitVec 2) (s : State) :
    Host.Outcome State Fault Refusal :=
  s.run fun s => s.atomic g d a (.atom o.toNat 4) 1 1 sc.toNat r.toNat true
/-- CASL (R246). -/
def execCasl (g : BitVec 4) (d a : Operand) (sc : BitVec 1) (r : BitVec 2) (s : State) :
    Host.Outcome State Fault Refusal :=
  s.run fun s => s.atomic g d a (.cas 4) 2 1 sc.toNat r.toNat true
/-- CAS (R246): w is 0, 1 or 2 for 32, 64 and 128 bits. -/
def execCas (g : BitVec 4) (d a : Operand) (w sc r : BitVec 2) (s : State) : Host.Outcome State Fault Refusal :=
  s.run fun s => s.atomic g d a (.cas (4 * 2 ^ w.toNat)) (2 * 2 ^ w.toNat) (2 ^ w.toNat) sc.toNat r.toNat false
/-- RED (R245): op 15 is .add64. -/
def execRed (g : BitVec 4) (d a : Operand) (o : BitVec 4) (sc : BitVec 2) (rl : Bool) (s : State) :
    Host.Outcome State Fault Refusal :=
  let w := if o.toNat = 15 then 8 else 4
  s.run fun s => s.atomic g d a (.red o.toNat w) (w / 4) 0 sc.toNat (if rl then 2 else 0) false

-- Performance at the home slice -----------------------------------------------------------------------------------

/-- Whether an earlier write of the group that stands recorded as failed holds some of the bytes of an atomic with a result,
which waits until the record is replayed or taken away (R201, R242). -/
def Group.recordHolds (g : Group) (o : Op) (line : Nat) : Bool :=
  let w := o.kind.width
  decide (o.cls = .mem) && (g.sfq ++ g.sfwait).any fun e => decide (e.part.cls = 0 ∧ e.part.line = line) && g.earlier e.part.first o.seq &&
    o.accs.any fun a => decide (a.addr / 128 = line) && a.unperformed &&
      (List.range w).any fun i => (e.part.bytes.read none (a.addr % 128 + i)).isSome

/-- Whether an atomic may be performed at a line now: after the group's earlier writes and atomics to it, those recorded as
failed among them (R201, R242), and not while an earlier release holds the line (R219). -/
def Group.mayPerform (g : Group) (o : Op) (line : Nat) : Bool :=
  !g.atomicBefore o.seq line &&
    !(g.parts.any fun p => decide (p.cls = 0 ∧ p.line = line) && g.earlier p.first o.seq && (match p.st with
      | .ext _ => false
      | _ => true)) && !g.lineHeld o.seq line && !g.recordHolds o line

/-- A group without the accesses that are merged into one request, or are to be: they need not be performed before it
(R250, R251). -/
def Group.without (g : Group) (k : Nat) (origins : List (Nat × Nat × Nat)) : Group :=
  { g with ops := g.ops.map fun o => { o with accs := o.accs.filter fun a => !origins.contains (k, o.seq, a.lane) } }

/-- Performs lanes at one line, in ascending lane order (R245): the line, and each access with the old value. -/
def performLanes (k : OpKind) (l : Line) : List Acc → Line × List (Nat × Bytes)
  | [] => (l, [])
  | a :: r =>
    let o := a.addr % 128
    let old := Tab.slice 0#8 l.bytes o k.width
    let l := match k.apply a old with
      | some bs => l.merge (putBytes [] o bs) 0
      | none => l
    let (l, rest) := performLanes k l r
    (l, (a.lane, old) :: rest)

/-- The records of a RED's failed accesses (R248): each is the group's own operand at its byte positions. -/
def Group.failRed (g : Group) (o : Op) : Group :=
  match o.kind with
  | .red op w =>
    let bad := o.accs.filterMap fun a => match a.st with
      | .failed c w => some (a, c, w)
      | _ => none
    let lines := (bad.map fun e => (e.1.addr / 128, e.2)).eraseDups
    let g := lines.foldl (fun (g : Group) (x : Nat × Nat × Nat) =>
      let l := x.1
      let here := bad.filter fun e => decide ((e.1.addr / 128, e.2) = x)
      let bytes := here.foldl (fun t e => putBytes t (e.1.addr % 128) e.1.op1) []
      { g with parts := g.parts ++ [(⟨g.newId, .red op w, 0, 0, l, bytes, here.map fun e => (e.1.addr, e.1.op1), [o.seq],
          o.pc, .failed x.2.1 x.2.2, none, false, 0⟩ : Part)] }) g
    g.setOp o.seq fun o => { o with fault := none, accs := o.accs.map fun a => match a.st with
      | .failed _ _ => { a with st := .got }
      | _ => a }
  | _ => g

/-- The failed lanes of a RED become records on their way; it is complete when every lane has been performed or recorded
(R249). -/
def State.finishRed (s : State) (k seq : Nat) : State :=
  let g := s.group k
  match g.op seq with
  | none => s
  | some o => (s.setGroup k (g.failRed o)).settle k

/-- Every RED that had a request merged away settles too (R251). -/
def State.finishOrigins (s : State) : List (Nat × Nat × Nat) → State
  | [] => s
  | (k, seq, _) :: r => State.finishOrigins (s.finishRed k seq) r

/-- Whether the host performs an atomic on handed-over memory (R241). -/
def OpKind.hostAtomic (k : OpKind) : Bool :=
  match k with
  | .atom op _ => decide (op = 0 ∨ op = 8)
  | .red op _ => decide (op = 0 ∨ op = 15)
  | .cas _ => true
  | _ => false

/-- The failed line that a RED is recorded behind: one with some of the same bytes (R201). -/
def Group.redBehind (g : Group) (o : Op) (line : Nat) (mine : List Acc) : Option SfEntry :=
  match o.kind with
  | .red _ _ => mine.findSome? fun (a : Acc) =>
      g.recordOver ⟨0, .store, 0, 0, line, putBytes [] (a.addr % 128) a.op1, [], [], o.pc, .wait, none, false, 0⟩
  | _ => none

/-- ATOMIC_PERFORM (R239 to R249, R287): the lanes at one line are performed indivisibly at the home slice. -/
def execAtomicPerform (k seq line : Nat) (s : State) : Host.Outcome State Fault Refusal :=
  let g := s.group k
  match g.op seq with
  | none => .next s
  | some o =>
    let here := fun (a : Acc) => decide (a.addr / 128 = line) && a.unperformed
    let mine := o.accs.filter here
    if mine.isEmpty || !o.isAtomic || o.done || !(g.without k (mine.flatMap (·.origins))).mayPerform o line || !g.mayRedo seq ||
        s.tstBefore k seq line || s.rehashHolds g.core (128 * line) (some (k, seq)) || s.locked (lineKey g.asid line) then .next s
    else
      let held := mine.any fun a => decide (a.st = .held)
      let origins := mine.flatMap (·.origins)
      let fail := fun (s : State) (c w : Nat) =>
        let s := s.setGroup k ((s.group k).setOp seq fun o => o.mapAccs here fun a => { a with st := .failed c w })
        let s := s.settleOrigins (.failed c w) origins
        ((s.finishRed k seq).finishOrigins origins).appendFrame k
      let after := fun (s : State) (l : Line) =>
        let (l, olds) := performLanes o.kind l mine
        let key := lineKey g.asid line
        let s := (s.putLine g.asid line l).refreshL1 g.core key l
        let s := origins.foldl (fun s e => s.refreshL1 (s.group e.1).core key l) s
        let s := s.setGroup k ((s.group k).setOp seq fun o => o.mapAccs here fun a =>
          { a with st := .got, data := (match olds.find? fun (e : Nat × Bytes) => e.1 = a.lane with
              | some e => e.2
              | none => [])
                   op2 := if o.order % 2 = 1 then s.bindingBytes g.asid a.addr else [], origins := [] })
        let s := s.settleOrigins .got origins
        ((s.finishRed k seq).finishOrigins origins)
      match g.redBehind o line mine with
      | some e =>
        -- a RED behind a failed line with some of the same bytes is not performed (R201)
        let s := s.setGroup k (g.setOp seq fun o => o.mapAccs here fun a => { a with st := .failed (e.word % 256) 256 })
        let s := s.settleOrigins (.failed (e.word % 256) 256) origins
        .next ((s.finishRed k seq).finishOrigins origins)
      | none =>
        if !s.homePath g.core (128 * line) then
          .next (match o.kind with
            | .red _ _ => fail s 0 0
            | _ => fail s causePoison 0)
        else if held then
          if s.regionHolds g.asid line then .next s
          else
            let l := s.l2Line (lineKey g.asid line)
            if l.present then .next (after s l)
            else
              -- its permission check has passed (R287): a page that is not mapped any more gives bytes of no stated value
              match s.fetch g.asid line false false true 0 with
              | .line s l => .next (after s l)
              | _ =>
                let l := s.freeLine
                .next (after ({ s with free := s.free + 128 }.allocate (lineKey g.asid line) 0 l) l)
        else
          match s.fetch g.asid line true false g.priv 0 with
          | .fail c w => .next (fail s c w)
          | .ext x =>
            let host := match x with
              | .host _ => true
              | _ => false
            let (s, live) := s.extLive g.core x
            if host && !(o.kind.hostAtomic && bitOf (s.sysv 0x700) 32) then .next (fail s causeProt 0x50)
            else if !live then
              .next (match o.kind with
                | .red _ _ => fail s 0 0
                | _ => fail s causePoison 0)
            else
              let kind := match o.kind with
                | .atom op _ => PeerKind.atomic op
                | .red op _ => PeerKind.atomic op
                | _ => PeerKind.cas
              let s := mine.foldl (fun s a => s.sendRead ⟨g.core, o.slack, some (k, seq)⟩ kind (a.addr % 128) o.kind.width
                ((if a.origins.isEmpty then a.op1 else a.op2) ++ (if o.cls = .red then [] else a.op2)) x) (s.setExt g.task)
              .next (s.setGroup k ((s.group k).setOp seq fun o => o.mapAccs here fun a => { a with st := .ext host }))
          | .line s' l =>
            if l.poison then .next (fail s' causePoison 0)
            else if s'.regionHolds g.asid line then
              .next (s'.setGroup k ((s'.group k).setOp seq fun o => o.mapAccs here fun a => { a with st := .held }))
            else .next (after s' l)

/-- Whether a RED is still at a router that may merge it: order plain, at the same word (R250). -/
def Op.mergeable (o : Op) : Bool :=
  !o.done && decide (o.order = 0) && (match o.kind with
    | .red _ _ => true
    | _ => false)

/-- The core routers that a request passes on the reed network of its die, on its way to a stop: along x first, then along
y (R15, R18, R338). -/
def reedPath (c stop : Nat) : List Nat :=
  let x := c % 12
  let y := c % 96 / 12
  let (tx, ty) := if stop < 10 then (stop + 1, 0) else if stop < 16 then (11, stop - 9)
    else if stop < 26 then (26 - stop, 7) else (0, 32 - stop)
  let span := fun (a b : Nat) => (List.range (Nat.max a b - Nat.min a b + 1)).map (Nat.min a b + ·)
  (span x tx).map (fun i => c / 96 * 96 + 12 * y + i) ++ (span y ty).map fun j => c / 96 * 96 + 12 * j + tx

/-- Whether requests of two cores for an address pass a reed router that combines (R250, R253). -/
def State.combines (s : State) (c c2 va : Nat) : Bool :=
  let stop := s.homeSlice va % 128 / 4
  (reedPath c stop).any fun r => (reedPath c2 stop).contains r && bitOf ((s.core r).sysv 0x520) 0

/-- RED_COMBINE (R250, R251): two requests to one word become one, with at most 8 origins. -/
def execRedCombine (k seq k2 seq2 : Nat) (s : State) : Host.Outcome State Fault Refusal :=
  let g := s.group k
  let g2 := s.group k2
  match g.op seq, g2.op seq2 with
  | some o, some o2 =>
    let pair := o.accs.findSome? fun a => (o2.accs.find? fun b => decide (b.addr = a.addr ∧ a.st = .wait ∧ b.st = .wait ∧
      (k, seq, a.lane) ≠ (k2, seq2, b.lane))).map fun b => (a, b)
    match pair, o.kind with
    | some (a, b), .red op w =>
      let own := fun (k seq : Nat) (a : Acc) => if a.origins.isEmpty then [(k, seq, a.lane)] else a.origins
      let val := fun (a : Acc) => leNat (if a.origins.isEmpty then a.op1 else a.op2)
      let origins := own k seq a ++ own k2 seq2 b
      let line := a.addr / 128
      if o.mergeable && o2.mergeable && decide (o.kind = o2.kind ∧ g.asid = g2.asid ∧ o.scope = o2.scope) &&
          decide (origins.length ≤ 8) && s.combines g.core g2.core a.addr &&
          (g.without k origins).mayPerform o line && (g2.without k2 origins).mayPerform o2 line &&
          decide (¬(k = k2 ∧ seq = seq2)) then
        let merged := leBytes w (atomicOp op w (val a) (val b))
        let s := s.setGroup k2 (g2.setOp seq2 fun o => { o with accs := o.accs.map fun x =>
          if x.lane = b.lane then { x with st := .merged, origins := [] } else x })
        .next (s.setGroup k ((s.group k).setOp seq fun o => { o with accs := o.accs.map fun x =>
          if x.lane = a.lane then { x with op2 := merged, origins := origins } else x }))
      else .next s
    | _, _ => .next s
  | _, _ => .next s

/-- RED_HOLD_EXPIRY (R250): a RED held for a partner goes on to its home slice and merges no more. -/
def execRedHoldExpiry (k seq : Nat) (s : State) : Host.Outcome State Fault Refusal :=
  let g := s.group k
  match g.op seq with
  | none => .next s
  | some o =>
    if o.mergeable then
      .next (s.setGroup k (g.setOp seq fun o => { o with accs := o.accs.map fun a =>
        if a.st = .wait then { a with st := .walk } else a }))
    else .next s

/-- A RED whose requests have failed away from a home slice, at another device or behind a release, is recorded
(R219, R248). -/
def execRedRecord (k seq : Nat) (s : State) : Host.Outcome State Fault Refusal :=
  match (s.group k).op seq with
  | none => .next s
  | some o =>
    let bad := o.accs.filter fun a => match a.st with
      | .failed _ _ => true
      | _ => false
    match o.kind, bad with
    | .red _ _, a :: _ =>
      let origins := bad.flatMap (·.origins)
      let s := s.settleOrigins a.st origins
      .next (((s.finishRed k seq).finishOrigins origins).appendFrame k)
    | _, _ => .next s

/-- A reply from a peer reaches its requester, which acknowledges it in class 3 (R337), and the request's tag is free. DESIGN
CHOICE: DST of the acknowledgement is a free value. -/
def State.replied (s : State) (k seq : Nat) : State :=
  match s.net.tags.find? fun e => e.2 = (k, seq) with
  | none => s
  | some e =>
    let p := e.1
    let ack : OutPkt := ⟨0x08, Config.freeNat s.free % 2 ^ 16, p.src, (s.core (s.group k).core).slack, false, p.tag, p.ddev, p.sdev, 0,
      p.asid, s.res.gen % 4, [], [], 3, 255, false⟩
    { s with free := s.free + 1, net := { s.net with tags := s.net.tags.erase e, peerOut := s.net.peerOut ++ [ack] } }

/-- What a peer's or the host's answer does (R230, R241, R341, R458): a load or an atomic takes its data or the refusal, or POISON where the
first byte of a refusal is 1, which stands for undecodable data; a write completes, or is recorded as refused by its peer, or
counts as not acknowledged by the host; a transfer's write that is refused gives its status (R310); a push that meets a full
queue, where the first byte of its refusal is 1, goes again (R318), that of a fault-queue index too (R393), and a reduction that is refused is recorded (R248), with those merged into it (R251). -/
def State.acknowledged (s : State) (k seq : Nat) (ok : Bool) (data : Bytes) : State :=
  let s := s.replied k seq
  let g := s.group k
  if k = noGroup then
    (if ok || decide (data.head? ≠ some 1#8) then { s with fqSent := false, fqPush := s.fqPush.drop (b2n s.fqSent) }
      else { s with fqSent := false })
  else
  match g.parts.find? fun p => p.ops.contains seq && (match p.st with
    | .ext _ => true
    | _ => false) with
  | some p =>
    if ok then (s.setGroup k (g.dropPart p.id)).settle k
    else if p.kind.isCopy then
      let g := if p.kind = .copy true then g.chainFails seq 2 else g
      let core := s.core g.core
      let note := fun (ts : List Transfer) => ts.map fun t =>
        if t.g = k ∧ t.seq = seq then { t with status := Nat.max t.status 2 } else t
      let s := s.setCore g.core { core with shuttle := note core.shuttle }
      let s := s.setTeam g.team { s.team g.team with savedCopies := note (s.team g.team).savedCopies }
      ((s.setGroup k (g.dropPart p.id)).failOps k p.ops (if p.st = .ext true then 8 else 4)).settle k
    else if p.st = .ext true then ((s.setGroup k (g.dropPart p.id)).failOps k p.ops 8).settle k
    else s.recordPart k p causeLanding 0
  | none =>
    match g.op seq with
    | none => s
    | some o =>
      let ext := fun (a : Acc) => match a.st with
        | .ext _ => true
        | _ => false
      match o.accs.find? ext with
      | none => s
      | some a =>
        let this := fun (b : Acc) => ext b && decide (b.lane = a.lane)
        let all := fun (f : Acc → Acc) => s.setGroup k (g.setOp seq fun o => o.mapAccs this f)
        let bad := decide (data.head? = some 1#8)
        if o.cls = .msg then
          let s := if ok then s.setGroup k (g.setOp seq fun o => { o with done := true })
            else if bad then s.setGroup k (g.setOp seq fun o => { o with accs := [] })
            else s.pushFailed k o 2
          s.settle k
        else if o.cls = .red then
          if ok then
            let s := (all fun b => { b with st := .got, origins := [] }).settleOrigins .got a.origins
            (s.settle k).finishOrigins a.origins
          else (s.setGroup k (g.setOp seq fun o => { o with accs := o.accs.map fun b => if this b then
            { b with st := .failed (if b.st = .ext true then causeProt else causeLanding) 0 } else b }))
        else if !ok then
          ((all fun b => { b with st := if bad then .failed causePoison 0 else .failed causeProt 0x70 }).settle k).appendFrame k
        else
          let w := o.kind.width
          ((all fun b => { b with
            st := .got
            data := if o.isAtomic then (data.take w) ++ zeros (w - data.length) else b.merge w fun i => data.getD i 0#8
            op2 := if o.order % 2 = 1 then s.bindingBytes g.asid b.addr else b.op2 }).settle k)

/-- EXTERNAL_ACKNOWLEDGEMENT (R230, R241, R341, R458). -/
def execExternalAcknowledgement (k seq : Nat) (ok : Bool) (data : Bytes) (s : State) : Host.Outcome State Fault Refusal :=
  .next (s.acknowledged k seq ok data)

-- Reduction trees -------------------------------------------------------------------------------------------------

/-- A tree record (R256). -/
def State.tree (s : State) (n : Nat) : Tree := s.trees.read Tree.init n
/-- Replaces a tree record. -/
def State.setTree (s : State) (n : Nat) (t : Tree) : State := { s with trees := s.trees.put n t }
/-- The tree number of a tree word (R259). -/
def treeNo (x : Word) : Nat := bitsOf x.toNat 0 6
/-- The node index of a tree word (R259). -/
def nodeNo (x : Word) : Nat := bitsOf x.toNat 8 6
/-- A node. -/
def Tree.node (t : Tree) (i : Nat) : TreeNode := t.nodes.getD i ⟨0, 0x3F, false⟩
/-- The operation of a tree on one element (R256, R258). -/
def treeOp (op : Nat) (x y : Word) : Word :=
  match op with
  | 0 => packedOp 0 0 (fpArith 0 0) [x, y]
  | 1 => fpMinMax false x y
  | 2 => fpMinMax true x y
  | 3 => x + y
  | 4 => intMin x y
  | 5 => intMax x y
  | 6 => x &&& y
  | _ => x ||| y
/-- The TIMEOUT of a halted tree (R262). -/
def treeTimeoutTrap {α : Type} (n : Nat) : Go α := trapW causeTimeout (0x20000 + n)

/-- The checks of a tree word for TRED, TRWAIT and TRSTAT (R259). -/
def State.treeCheck (s : State) (x : Word) (node : Bool) : Go Tree := do
  let t := s.tree (treeNo x)
  must (t.st ≠ 0) causeOperand
  must (!node || (decide (nodeNo x < t.nodes.length) && (t.node (nodeNo x)).c)) causeOperand
  mustW (decide (s.me.asid = t.asid)) causeProt 5
  .ok t

/-- Whether a node has contributed to the open round (R260). -/
def Tree.given (t : Tree) (i : Nat) : Bool :=
  (t.contrib.find? fun e => e.1 = i).isSome || t.sent.any fun e => e.1 = i

/-- TRED (R260): one contribution for a node. -/
def execTred (d a b : Operand) (s : State) : Host.Outcome State Fault Refusal :=
  s.run fun s => do
    let g0 := s.me
    let uses := [dst d, src a, src b]
    let s ← { orderPre g0 uses with
      operandOk := (isReg d || isZero d) && (isReg a || isZero a) && !isVec g0 b }.check s
    let (s, x) ← scalarRead s b
    let t ← s.treeCheck x true
    if t.st = 3 then treeTimeoutTrap (treeNo x)
    else do
      awaits (!t.given (nodeNo x) && decide (g0.outstanding .red < 4095))
      let vals := (List.range (t.e1 + 1)).map fun l => s.me.wordAt a 0 l
      let s := s.setTree (treeNo x) { t with st := 2, sent := t.sent ++ [(nodeNo x, s.cur, s.me.seq)] }
      let lanes := g0.execLanes (isV d)
      let s ← s.writeResult d lanes (lanes.map fun _ => BitVec.ofNat 32 t.round)
      let g := s.me
      .ok ((s.setMe { g with
        ops := g.ops ++ [Op.base g.seq .red (.tred (treeNo x) (nodeNo x) vals) g0.pc], seq := g.seq + 1 }).finish g0 uses)

/-- A contribution reaches its node's router (R257, R260), and its TRED is complete; one for a round that has failed
completes with failure (R262). -/
def execTredArrival (k seq : Nat) (s : State) : Host.Outcome State Fault Refusal :=
  let g := s.group k
  match g.op seq with
  | none => .next s
  | some o =>
    match o.kind with
    | .tred n i vals =>
      let t := s.tree n
      let ok := decide (t.st = 2) && t.sent.contains (i, k, seq)
      let s := s.setTree n (if ok then { t with
        contrib := t.contrib.put i vals, sent := t.sent.filter (· ≠ (i, k, seq)) } else t)
      if o.done then .next s
      else .next ((s.setGroup k (g.setOp seq fun o => { o with done := true, failed := !ok })).settle k)
    | _ => .next s

/-- TRWAIT (R261, R262). -/
def execTrwait (d a b : Operand) (s : State) : Host.Outcome State Fault Refusal :=
  s.run fun s => do
    let g0 := s.me
    let uses := [dst d, src a, src b]
    let s ← { orderPre g0 uses with operandOk := isV d && !isVec g0 a && !isVec g0 b, whole := true }.check s
    let (s, tok) ← scalarRead s a
    let (s, x) ← scalarRead s b
    let t ← s.treeCheck x true
    let n := tok.toNat
    match t.results.find? fun r => r.1 = n with
    | some r =>
      let g := s.me
      let r' := match d with
        | .v m => g.wb + m.toNat
        | _ => 0
      let g := g.writeLanes r' (List.range 32) ((List.range 32).map fun i => if i ≤ t.e1 then r.2.getD i 0#32 else 0#32)
      .ok ((s.setMe g).finish g0 uses)
    | none =>
      if t.st = 3 ∧ (n + 65536 - t.failed) % 65536 < 0x8000 then treeTimeoutTrap (treeNo x)
      else if t.st = 2 ∧ n = t.round then .error .block
      else trapO causeOperand

/-- The group's own view of memory: what its fresh loads would return (R196, R217). -/
def State.groupRead (s : State) (g : Group) (va n : Nat) : Except (Nat × Nat × Nat) (State × Bytes) :=
  match s.vread (some g.core) g.asid va n g.priv with
  | .error e => .error e
  | .ok (s, bs) => .ok (s, (bs.zipIdx).map fun e => (g.ownByte 0 0 ((va + e.2) / 128) ((va + e.2) % 128)).getD e.1)

/-- A read that an instruction makes itself as a fresh load would: after the group's own earlier loads and atomics of its
lines (R216), and with a deferred fault at the instruction (R200). -/
def State.readOwn (s : State) (va n : Nat) : Go (State × Bytes) :=
  if s.ownPending va n || s.lineBusy s.me.core s.me.asid va n then .error .block
  else
  match s.groupRead s.me va n with
  | .error (c, w, a) => .error (.trap ⟨c, some w, 1, none, a, none, false, false⟩)
  | .ok r => .ok r

/-- The nodes of a descriptor (R256). -/
def nodesOf (bs : Bytes) (m : Nat) : List Nat := (List.range m).map fun i => leNat ((bs.drop (4 * i)).take 4)

/-- Whether a descriptor is well formed (R256). -/
def State.treeOk (s : State) (h : Nat) (ns : List Nat) : Bool :=
  let m := bitsOf h 0 7
  let cores := ns.map fun n => bitsOf n 0 9
  decide (1 ≤ m ∧ m ≤ 64) && !bitOf h 7 && !bitOf h 11 && decide (bitsOf h 17 15 = 0) &&
    (cores.all fun c => decide (c < Config.cores) && !(s.core c).coreOff) && decide (cores.eraseDups.length = cores.length) &&
    (ns.zipIdx.all fun e => decide (bitsOf e.1 16 16 = 0) &&
      (if e.2 = 0 then decide (bitsOf e.1 9 6 = 0x3F) else decide (bitsOf e.1 9 6 < e.2))) &&
    ns.any fun n => bitOf n 15

/-- TRDEF (R256, R264): privileged. -/
def execTrdef (d a b : Operand) (s : State) : Host.Outcome State Fault Refusal :=
  s.run fun s => do
    let g0 := s.me
    let uses := [dst d, srcN a 2, src b]
    let s ← { orderPre g0 uses with operandOk := isS d && !isV a && !isVec g0 b, privOk := g0.priv }.check s
    let (s, x) ← scalarRead s b
    gateAccess s.me
    let va := s.me.scalar64 a
    let _ ← s.checkAddrs s.me false false 1 8 [(s.me.first, va)]
    let (s, hb) ← s.readOwn va 8
    let h := leNat hb
    let m := bitsOf h 0 7
    let (s, nb) ← if 1 ≤ m ∧ m ≤ 64 then s.readOwn (va + 8) (4 * m) else .ok (s, [])
    let ns := nodesOf nb m
    let t := s.tree (treeNo x)
    let st : Nat := if !s.treeOk h ns then 2 else if t.st = 2 then 1 else 0
    let s := if st = 0 then
        s.setTree (treeNo x) { Tree.init with
          st := 1, op := bitsOf h 8 3, e1 := bitsOf h 12 5, asid := bitsOf h 32 16, tmo := bitsOf h 48 16
          nodes := ns.map fun n => ⟨bitsOf n 0 9, bitsOf n 9 6, bitOf n 15⟩, err := t.err }
      else s
    let s ← s.writeResult d [g0.first] [BitVec.ofNat 32 st]
    .ok (s.finish g0 uses)

/-- A bitmap of nodes. -/
def bitmap (m : Nat) (p : Nat → Bool) : Nat := (List.range m).foldl (fun r i => if p i then r + 2 ^ i else r) 0

/-- TRSTAT (R263). -/
def execTrstat (d a : Operand) (n : BitVec 2) (s : State) : Host.Outcome State Fault Refusal :=
  s.run fun s => do
    let g0 := s.me
    let uses := [dstN d 2, src a]
    let s ← { orderPre g0 uses with legal := n.toNat ≠ 3, operandOk := !isV d && !isVec g0 a }.check s
    let (s, x) ← scalarRead s a
    let t ← s.treeCheck x false
    let v := match n.toNat with
      | 0 => t.st + 2 ^ 16 * t.round + 2 ^ 32 * t.op + 2 ^ 40 * t.e1 + 2 ^ 48 * t.nodes.length
      | 1 => if t.st = 3 then t.missing else 0
      | _ => if t.st = 2 then bitmap t.nodes.length fun i => (t.contrib.find? fun e => e.1 = i).isSome else 0
    .ok ((s.setMe (s.me.writeWide d 2 [g0.first] [v])).finish g0 uses)

/-- The children of a node, ascending. -/
def Tree.children (t : Tree) (i : Nat) : List Nat :=
  (List.range t.nodes.length).filter fun j => decide (i < j) && decide ((t.node j).parent = i)

/-- The values that a node folds, in order: its own contribution, then its children's values; none while one is
missing (R258). -/
def Tree.inputs (t : Tree) (i : Nat) : Option (List (List Word)) :=
  let own := if (t.node i).c then [(t.contrib.find? fun e => e.1 = i).map (·.2)] else []
  let kids := (t.children i).map fun j => (t.folded.find? fun e => e.1 = j).map (·.2)
  let all := own ++ kids
  if all.any (·.isNone) then none else some (all.map fun x => x.getD [])

/-- Halts a tree in its open round (R258, R262). -/
def Tree.halt (t : Tree) : Tree :=
  { t with
    st := 3, failed := t.round
    missing := bitmap t.nodes.length fun i => (t.node i).c && (t.contrib.find? fun e => e.1 = i).isNone }

/-- TREE_NODE_FOLD (R257, R258): a node that holds every value it needs folds them; the root's value completes the
round. A node with no contributor below it has no value to give and is passed over. -/
def execTreeNodeFold (n i : Nat) (s : State) : Host.Outcome State Fault Refusal :=
  let t := s.tree n
  if t.st ≠ 2 ∨ t.nodes.length ≤ i ∨ (t.folded.find? fun e => e.1 = i).isSome then .next s
  else
    match t.inputs i with
    | none => .next s
    | some xs =>
      if 2 ≤ t.err.read 0 i then
        .next ((s.setTree n { t.halt with err := t.err.erase i }).logEvent none (eventRec 3 n 0))
      else
        let xs := xs.filter fun x => !x.isEmpty
        let v := match xs with
          | [] => []
          | x :: r => r.foldl (fun acc y => (acc.zip y).map fun e => treeOp t.op e.1 e.2) x
        if i = 0 then
          .next (s.setTree n { t with
            st := 1, results := (t.round, v) :: t.results.take 1, round := (t.round + 1) % 65536
            contrib := [], folded := [], sent := [], err := t.err.erase i })
        else .next (s.setTree n { t with folded := t.folded.put i v, err := t.err.erase i })

/-- TREE_TIMEOUT (R262). -/
def execTreeTimeout (n : Nat) (s : State) : Host.Outcome State Fault Refusal :=
  let t := s.tree n
  if t.st = 2 then .next (s.setTree n t.halt) else .next s

end Sys2Proof.Machine
end

