-- ==== Sys2Proof/Machine/Matrix.lean ====
section
/-! DEFINITION. Matrix instructions, the array queue, and the arithmetic of the array
(06_matrix.md R142 to R170). -/
namespace Sys2Proof.Machine

-- Slots and tiles -------------------------------------------------------------------------------------------------

/-- The physical slot of a claimed name (R142). -/
def Team.slot (t : Team) (n : Nat) : Option Nat :=
  match t.slotOf.read 0 n with
  | 0 => none
  | p + 1 => some p
/-- The physical tile of a claimed name (R142). -/
def Team.tile (t : Team) (n : Nat) : Option Nat :=
  match t.tileOf.read 0 n with
  | 0 => none
  | p + 1 => some p
/-- A physical slot. -/
def Core.slot (c : Core) (p : Nat) : Slot := c.slots.read Slot.init p
/-- Replaces a physical slot. -/
def Core.setSlot (c : Core) (p : Nat) (x : Slot) : Core := { c with slots := c.slots.write Slot.init p x }
/-- A physical tile. -/
def Core.tile (c : Core) (p : Nat) : Tile := c.tiles.read Tile.init p
/-- Replaces a physical tile. -/
def Core.setTile (c : Core) (p : Nat) (x : Tile) : Core := { c with tiles := c.tiles.write Tile.init p x }
/-- Free physical slots (R142). -/
def Core.freeSlots (c : Core) : List Nat := (List.range 32).filter fun p => (c.slot p).owner = 0
/-- Free physical tiles (R142). -/
def Core.freeTiles (c : Core) : List Nat := (List.range 8).filter fun p => (c.tile p).owner = 0
/-- The names of a mask. -/
def namesOf (n : Nat) (m : Word) : List Nat := (List.range n).filter fun i => Word.has m i

-- The array queue -------------------------------------------------------------------------------------------------

/-- The slots and tiles that an entry names; an MMA also reads the scale slots bound to its operands (R145, R149). -/
def Core.units (c : Core) : ArrKind → List Nat × List Nat
  | .tld s _ _ => ([s], [])
  | .tldx _ s _ _ => ([s], [])
  | .tlds s _ _ => ([s], [])
  | .tst _ t _ _ _ => ([], [t])
  | .tmv _ t _ => ([], [t])
  | .tmvi t _ _ => ([], [t])
  | .trel ss ts => (ss, ts)
  | .tzero _ ts => ([], ts)
  | .tscale s sc => (s :: (match sc with
      | some x => [x.1]
      | none => []), [])
  | .mma _ _ _ _ _ t a b => ([a, b] ++ ([a, b].filterMap fun p => (c.slot p).scale.map (·.1)), [t])
  | .mms _ _ _ _ _ t a b => ([a, b], [t])
  | .copy s => ([s], [])

/-- Whether two entries of one team name the same slot or tile (R149). -/
def Core.conflict (c : Core) (a b : ArrEntry) : Bool :=
  decide (a.team = b.team) && ((c.units a.kind).1.any (fun s => (c.units b.kind).1.contains s) ||
    (c.units a.kind).2.any fun t => (c.units b.kind).2.contains t)

/-- Whether an entry is a fill (R152). -/
def ArrKind.isFill : ArrKind → Bool
  | .tld _ _ _ => true
  | .tldx _ _ _ _ => true
  | .tlds _ _ _ => true
  | _ => false
/-- Whether an entry is the place of a copy (R149, R302). -/
def ArrKind.isCopy : ArrKind → Bool
  | .copy _ => true
  | _ => false

/-- Whether an entry is a fill that has met a fault, or a held copy into a slot (R152, R302). -/
def State.entryFaulted (s : State) (e : ArrEntry) : Bool :=
  match (s.group e.g).op e.seq with
  | some o => o.fault.isSome
  | none => false

/-- Entries of the array queue, without the places of copies (R149). -/
def Core.queued (c : Core) : Nat := (c.arr.filter fun e => !e.kind.isCopy).length

/-- The entries that wait on a faulted fill, directly or behind an entry that does (R152, R216). -/
def State.stuckEntries (s : State) (c : Core) : List ArrEntry → List ArrEntry → List ArrEntry
  | stuck, [] => stuck
  | stuck, e :: r =>
    if s.entryFaulted e || stuck.any fun x => c.conflict x e || x.fillAfter e then s.stuckEntries c (stuck ++ [e]) r
    else s.stuckEntries c stuck r

/-- The kind of a tile once the entries ahead have taken effect (R146, R162). -/
def Core.kindNow (c : Core) (p : Nat) : Bool :=
  c.arr.foldl (fun k e => match e.kind with
    | .tzero i ts => if ts.contains p then i else k
    | .mma f _ _ _ z t _ _ => if t = p ∧ z then decide (f = 4 ∨ f = 9) else k
    | .mms _ f _ _ z t _ _ => if t = p ∧ z then decide (f = 4 ∨ f = 9) else k
    | _ => k) (c.tile p).int

/-- The scale binding of a slot once the entries ahead have taken effect (R145, R162). -/
def Core.scaleNow (c : Core) (p : Nat) : Option (Nat × Nat) :=
  c.arr.foldl (fun x e => match e.kind with
    | .tscale q sc => if q = p then sc else x
    | .trel ss _ => (match x with
        | some b => if ss.contains b.1 then none else some b
        | none => none)
    | _ => x) (c.slot p).scale

-- Issue -----------------------------------------------------------------------------------------------------------

/-- Roles allowed to slot and multiply instructions: matrix and general (R148). -/
def roleMatrix (g : Group) : Bool := decide (g.role = 0 ∨ g.role = 2)
/-- Roles allowed to fills and TST (R148). -/
def roleFill (g : Group) : Bool := decide (g.role ≠ 3)
/-- Roles allowed to TMV and TMVI (R148). -/
def roleTmv (g : Group) : Bool := decide (g.role ≠ 1)

/-- The checks of a matrix instruction: collective over 32 lanes (R147), by role (R148), not in a region (R269). -/
def matrixPre (g : Group) (uses : List Use) (role : Bool) (operandOk : Bool) (imx : Nat) : Pre :=
  { controlPre g uses with
    bundleOk := decide (g.bundle.length = 32), roleOk := role, inRegion := false, operandOk := operandOk, imx := imx }

/-- What every matrix instruction does first: a pending record of an earlier one, then the checks (R45, R152, R167). DESIGN
CHOICE (notes/assumptions/150.md): the record comes before the checks of steps 1 to 6. -/
def State.matrixStart (s : State) (p : Pre) : Go State := do
  noImprecise s.me .mat
  p.check s

/-- Enters the array queue (R149, R150). -/
def State.enqueueArr (s : State) (g0 : Group) (kind : ArrKind) (dst : Dst) (code : Nat) (us : List Use) : Go State := do
  let g := s.me
  let fill := kind.isFill
  awaits (decide ((s.core g.core).queued < 16) && decide (g.outstanding .mat < 4095))
  awaits (!fill || s.requestRoom g true)
  let core := s.core g.core
  let s := s.setCore g.core { core with arr := core.arr ++ [⟨s.cur, g.seq, g.team, kind, g0.pc⟩] }
  let op : Op := { Op.base g.seq .mat (.matrix fill) g0.pc with dst := dst, code := code }
  .ok ((s.setMe { g with ops := g.ops ++ [op], seq := g.seq + 1 }).finish g0 us)

/-- Claims slots (R143, R154). -/
def State.claimSlots (s : State) (g : Group) (ns : List Nat) : State :=
  let core := s.core g.core
  let t := s.team g.team
  let ps := core.freeSlots.take ns.length
  let core := ps.foldl (fun c p => c.setSlot p { Slot.init with owner := g.team + 1 }) core
  (s.setCore g.core core).setTeam g.team { t with
    slotOf := (ns.zip ps).foldl (fun m e => Tab.write 0 m e.1 (e.2 + 1)) t.slotOf }
/-- Claims tiles (R143, R154). -/
def State.claimTiles (s : State) (g : Group) (ns : List Nat) : State :=
  let core := s.core g.core
  let t := s.team g.team
  let ps := core.freeTiles.take ns.length
  let core := ps.foldl (fun c p => c.setTile p { Tile.init with owner := g.team + 1 }) core
  (s.setCore g.core core).setTeam g.team { t with
    tileOf := (ns.zip ps).foldl (fun m e => Tab.write 0 m e.1 (e.2 + 1)) t.tileOf }

/-- TCLAIM (R154): `k` names tiles. DESIGN CHOICE: d takes the mask without the bits [31:8] that TCLAIM of tiles ignores. -/
def execTclaim (d a : Operand) (k : Bool) (s : State) : Host.Outcome State Fault Refusal :=
  s.run fun s => do
    let g0 := s.me
    let us := [dst d, src a]
    let s ← s.matrixStart (matrixPre g0 us (roleMatrix g0) (isS d && !isVec g0 a) 0)
    let (s, m) ← scalarRead s a
    let g := s.me
    let t := s.team g.team
    let core := s.core g.core
    let ns := namesOf (if k then 8 else 32) m
    let ok := !ns.isEmpty && (ns.all fun n => if k then (t.tile n).isNone else (t.slot n).isNone) &&
      decide (ns.length ≤ (if k then core.freeTiles.length else core.freeSlots.length))
    let s := if !ok then s else if k then s.claimTiles g ns else s.claimSlots g ns
    let s ← s.writeResult d [g0.first] [if ok then maskOfLanes ns else 0#32]
    .ok (s.finish g0 us)

/-- TREL (R154): the names go at issue; the units follow when the entry completes. -/
def execTrel (a : Operand) (k : Bool) (s : State) : Host.Outcome State Fault Refusal :=
  s.run fun s => do
    let g0 := s.me
    let us := [src a]
    let s ← s.matrixStart (matrixPre g0 us (roleMatrix g0) (!isVec g0 a) 0)
    let (s, m) ← scalarRead s a
    let g := s.me
    let t := s.team g.team
    let ns := namesOf (if k then 8 else 32) m
    let ps := ns.filterMap fun n => if k then t.tile n else t.slot n
    let s ← s.enqueueArr g0 (if k then .trel [] ps else .trel ps []) .none 0x70 us
    let t := s.team g.team
    .ok (s.setTeam g.team (if k then { t with tileOf := ns.foldl Tab.erase t.tileOf }
      else { t with slotOf := ns.foldl Tab.erase t.slotOf }))

/-- TZERO (R154). -/
def execTzero (a : Operand) (k : Bool) (s : State) : Host.Outcome State Fault Refusal :=
  s.run fun s => do
    let g0 := s.me
    let us := [src a]
    let s ← s.matrixStart (matrixPre g0 us (roleMatrix g0) (!isVec g0 a) 0)
    let (s, m) ← scalarRead s a
    let t := s.team s.me.team
    let ns := namesOf 8 m
    must (ns.all fun n => (t.tile n).isSome) causeOperand
    s.enqueueArr g0 (.tzero k (ns.filterMap t.tile)) .none 0x70 us

/-- The status words of TSTAT (R155). -/
def State.tstatWord (s : State) (g : Group) (n : Nat) : Word :=
  let t := s.team g.team
  let core := s.core g.core
  let tiles := fun (p : Tile → Bool) (sh : Nat) =>
    2 ^ sh * (maskOf fun i => match t.tile i with
      | some q => decide (i < 8) && p (core.tile q)
      | none => false).toNat
  match n with
  | 0 => maskOf fun i => (t.slot i).isSome
  | 1 => BitVec.ofNat 32 (tiles (fun _ => true) 0 + tiles (·.int) 8 + tiles (·.suspect) 16 + tiles (·.poison) 24)
  | 2 => maskOf fun i => match t.slot i with
      | some p => core.arr.any fun e => decide (e.team = g.team) && s.entryFaulted e && (core.units e.kind).1.contains p
      | none => false
  | _ => BitVec.ofNat 32 (core.freeSlots.length % 64 + 2 ^ 8 * core.freeTiles.length + 2 ^ 16 * core.queued +
      2 ^ 24 * b2n core.arrayOff)

/-- The team's queue entries that have not completed, a TST until its writes have, as group and number (R150, R151). -/
def State.matOpen (s : State) (t : Nat) : List (Nat × Nat) :=
  let core := s.core (s.team t).core
  ((core.arr.filter fun e => decide (e.team = t) && !e.kind.isCopy).map fun e => (e.g, e.seq)) ++
    (s.groups.filter fun e => e.2.team = t).flatMap fun e =>
      (e.2.ops.filter fun o => decide (o.cls = .mat) && !o.done && decide (o.kind = .store)).map fun o => (e.1, o.seq)

/-- TSTAT (R150, R155): it waits for every entry of its team that was in the queue when it issued. -/
def execTstat (d : Operand) (n : BitVec 2) (s : State) : Host.Outcome State Fault Refusal :=
  s.run fun s => do
    let g0 := s.me
    let us := [dst d]
    let s ← s.matrixStart (matrixPre g0 us (roleMatrix g0) (isS d) 0)
    let now := s.matOpen g0.team
    let left := match g0.tstat with
      | some old => old.filter fun e => now.contains e
      | none => now
    if !left.isEmpty then .error (.after (s.setMe { s.me with tstat := some left }))
    else do
      let s := s.setMe { s.me with tstat := none }
      let s ← s.writeResult d [g0.first] [s.tstatWord g0 n.toNat]
      .ok (s.finish g0 us)

/-- TSCALE: binds, or removes the binding (R145, R154). -/
def State.tscale (s : State) (d : Nat) (to' : Option (Nat × Nat)) : Go State := do
  let g0 := s.me
  let s ← s.matrixStart (matrixPre g0 [] (roleMatrix g0) true 0)
  let t := s.team s.me.team
  match t.slot d, to' with
  | some p, none => s.enqueueArr g0 (.tscale p none) .none 0x70 []
  | some p, some (a, n) =>
    match t.slot a with
    | some q => s.enqueueArr g0 (.tscale p (some (q, n))) .none 0x70 []
    | none => trapO causeOperand
  | none, _ => trapO causeOperand
/-- TSCALE with a section (R154). -/
def execTscale (d a : BitVec 5) (n : BitVec 4) (s : State) : Host.Outcome State Fault Refusal :=
  s.run fun s => s.tscale d.toNat (some (a.toNat, n.toNat))
/-- TSCALE that removes a binding (R154). -/
def execTscaleRemove (d : BitVec 5) (s : State) : Host.Outcome State Fault Refusal :=
  s.run fun s => s.tscale d.toNat none

/-- The base address of a fill or a TST: a virtual address (R156). -/
def State.matrixBase (s : State) (a : Operand) (wr : Bool) (align stride : Nat) : Go Nat := do
  let g := s.me
  gateAccess g
  let base := addAddr (g.scalar64 a) g.offset
  let _ ← s.checkAddrs g false wr 1 1 [(g.first, base)]
  if base % align = 0 ∧ stride % align = 0 then .ok base else trapAt causeAlign none g.first base

/-- A fill or a TST enters the queue after the buffer lines that it reads or writes have drained (R151, R198). -/
def State.drainFor (s : State) (g0 : Group) (kind : ArrKind) (us : List Use) : Go State :=
  match drainOver s.me ((s.me.wcb.map (·.line)).filter fun l => kind.readsLine l || kind.tstLine l) with
  | none => .error .block
  | some g => (s.setMe g).enqueueArr g0 kind .none 0x70 us

/-- A fill: slot, address, stride (R156, R157). -/
def State.fill (s : State) (d : BitVec 5) (a : Operand) (b : Option Operand) (align : Nat) (kind : Nat → Nat → Nat → ArrKind) :
    Go State := do
  let g0 := s.me
  let us := srcN a 2 :: (match b with
    | some o => [src o]
    | none => [])
  let clsOk := !isV a && (match b with
    | some o => !isVec g0 o
    | none => true)
  let s ← s.matrixStart (matrixPre g0 us (roleFill g0) clsOk 2)
  let (s, st) ← (match b with
    | some o => scalarRead s o
    | none => .ok (s, 0#32))
  match (s.team s.me.team).slot d.toNat with
  | none => trapO causeOperand
  | some p => do
    let base ← s.matrixBase a false align st.toNat
    s.drainFor g0 (kind p base st.toNat) us
/-- TLD (R157). -/
def execTld (d : BitVec 5) (a b : Operand) (s : State) : Host.Outcome State Fault Refusal :=
  s.run fun s => s.fill d a (some b) 128 fun p base st => .tld p base st
/-- TLDX (R157). -/
def execTldx (w : BitVec 2) (d : BitVec 5) (a b : Operand) (s : State) : Host.Outcome State Fault Refusal :=
  s.run fun s => s.fill d a (some b) (if w = 0#2 then 64 else 128) fun p base st => .tldx w.toNat p base st
/-- TLDS (R157). -/
def execTlds (d : BitVec 5) (a : Operand) (n : BitVec 4) (s : State) : Host.Outcome State Fault Refusal :=
  s.run fun s => s.fill d a none 128 fun p base _ => .tlds p n.toNat base

/-- TST (R156, R158). -/
def execTst (y : BitVec 4) (t : BitVec 3) (a : Operand) (m : BitVec 3) (r : BitVec 4) (s : State) :
    Host.Outcome State Fault Refusal :=
  s.run fun s => do
    let g0 := s.me
    let us := [srcN a 2, src (.s r)]
    let s ← s.matrixStart (matrixPre g0 us (roleFill g0) (!isV a) 2)
    let st := (s.me.sreg r.toNat).toNat
    match (s.team s.me.team).tile t.toNat with
    | none => trapO causeOperand
    | some p => do
      let base ← s.matrixBase a true 128 st
      s.drainFor g0 (.tst y.toNat p base st m.toNat) us

/-- TMV (R159). -/
def execTmv (d a : Operand) (t : BitVec 3) (s : State) : Host.Outcome State Fault Refusal :=
  s.run fun s => do
    let g0 := s.me
    let us := [dstN d 4, src a]
    let s ← s.matrixStart (matrixPre g0 us (roleTmv g0) (isV d && !isVec g0 a) 0)
    let (s, row) ← scalarRead s a
    match (s.team s.me.team).tile t.toNat, d with
    | some p, .v n =>
      let r := g0.wb + n.toNat
      s.enqueueArr g0 (.tmv r p (row.toNat % 128)) (.v r 4) (encodeOperand d).toNat us
    | _, _ => trapO causeOperand
/-- TMVI (R159). -/
def execTmvi (t : BitVec 3) (a b : Operand) (s : State) : Host.Outcome State Fault Refusal :=
  s.run fun s => do
    let g0 := s.me
    let us := [src a, srcN b 4]
    let s ← s.matrixStart (matrixPre g0 us (roleTmv g0) (isV b && !isVec g0 a) 0)
    let (s, row) ← scalarRead s a
    match (s.team s.me.team).tile t.toNat with
    | some p =>
      let vs := (List.range 128).map fun i => s.me.wordAt b (i / 32) (i % 32)
      s.enqueueArr g0 (.tmvi p (row.toNat % 128) vs) .none 0x70 us
    | none => trapO causeOperand

/-- Families of integer kind (R161). -/
def famInt (f : Nat) : Bool := decide (f = 4 ∨ f = 9)
/-- Scaled families (R161). -/
def famScaled (f : Nat) : Bool := decide (f = 5 ∨ f = 6 ∨ f = 7 ∨ f = 10)

/-- MMA and MMS at issue (R160, R162, R165). -/
def State.multiply (s : State) (t a b f : Nat) (z : Bool) (kind : Nat → Nat → Nat → ArrKind) : Go State := do
  let g0 := s.me
  let s ← s.matrixStart (matrixPre g0 [] (roleMatrix g0) true 0)
  let tm := s.team s.me.team
  let core := s.core s.me.core
  match tm.tile t, tm.slot a, tm.slot b with
  | some pt, some pa, some pb => do
    must (z || core.kindNow pt = famInt f) causeOperand
    must (!famScaled f || ((core.scaleNow pa).isSome && (core.scaleNow pb).isSome)) causeOperand
    s.enqueueArr g0 (kind pt pa pb) .none 0x70 []
  | _, _, _ => trapO causeOperand
/-- MMA (R160 to R164). -/
def execMma (sat z : Bool) (t : BitVec 3) (va : Bool) (a : BitVec 5) (vb : Bool) (b : BitVec 5) (f : BitVec 4) (s : State) :
    Host.Outcome State Fault Refusal :=
  s.run fun s => s.multiply t.toNat a.toNat b.toNat f.toNat z fun pt pa pb => .mma f.toNat va vb sat z pt pa pb
/-- MMS (R165). -/
def execMms (e : BitVec 2) (z : Bool) (t : BitVec 3) (va : Bool) (a : BitVec 5) (vb : Bool) (b : BitVec 5) (f : BitVec 4)
    (s : State) : Host.Outcome State Fault Refusal :=
  s.run fun s => s.multiply t.toNat a.toNat b.toNat f.toNat z fun pt pa pb => .mms e.toNat f.toNat va vb z pt pa pb

-- Element arithmetic ----------------------------------------------------------------------------------------------

/-- The element width of a family in bits (R144, R161). -/
def famWidth (f : Nat) : Nat := if f ≤ 1 then 16 else if f ≤ 6 then 8 else 4

/-- The value of an element code of a floating family (R161). -/
def famVal (f : Nat) (v : Bool) (c : Nat) : Val :=
  match f with
  | 0 => Fmt.bf16.decode c
  | 1 => Fmt.f16.decode c
  | 2 => tw8Decode c
  | 5 => tw8Decode c
  | 3 => if v then Fmt.e5m2.decode c else Fmt.e4m3.decode c
  | 6 => if v then Fmt.e5m2.decode c else Fmt.e4m3.decode c
  | 10 => Val.ofInt (sext 4 c)
  | _ => Fmt.e2m1.decode c

/-- The value of an element code of an integer family (R161): variant 1 is unsigned. -/
def famIntVal (f : Nat) (v : Bool) (c : Nat) : Int := if v then (c : Int) else sext (famWidth f) c

/-- Mtype of R161. -/
def famMax (f : Nat) (v : Bool) : Val :=
  match f with
  | 0 => .fin false 255 120
  | 1 => .fin false 65504 0
  | 2 => .fin false 1024 0
  | 5 => .fin false 1024 0
  | 3 => .fin false (if v then 57344 else 448) 0
  | 6 => .fin false (if v then 57344 else 448) 0
  | 10 => .fin false 8 0
  | _ => .fin false 6 0

/-- Mtype of an integer family. -/
def famIntMax (f : Nat) (v : Bool) : Int :=
  if f = 4 then (if v then 255 else 128) else (if v then 15 else 8)

/-- Element k of row r of a slot, of `w` bits (R144). -/
def Slot.elem (x : Slot) (w r k : Nat) : Nat :=
  match w with
  | 16 => (x.data.read 0#8 (128 * r + 2 * k)).toNat + 256 * (x.data.read 0#8 (128 * r + 2 * k + 1)).toNat
  | 8 => (x.data.read 0#8 (128 * r + k)).toNat
  | _ => bitsOf (x.data.read 0#8 (128 * r + k / 2)).toNat (4 * (k % 2)) 4

/-- K of R144. -/
def famK (f : Nat) : Nat := 1024 / famWidth f

/-- Block j of row r of an operand slot: 32 element codes (R144). -/
def Slot.block (x : Slot) (f r j : Nat) : List Nat := (List.range 32).map fun i => x.elem (famWidth f) r (32 * j + i)

/-- The scale of block j of row r (R145): 127 in an unscaled family. -/
def Core.scaleOf (c : Core) (f : Nat) (x : Slot) (r j : Nat) : Nat :=
  if !famScaled f then 127
  else
    match x.scale with
    | none => 127
    | some (p, n) => ((c.slot p).data.read 0#8 (1024 * n + 8 * r + j)).toNat

/-- ExactSum of R164. -/
def exactSum : List Val → Val
  | [] => .fin false 0 0
  | v :: r => r.foldl (Val.add false) v

/-- The block value s of an MMA in a floating family (R163). -/
def mmaBlock (f : Nat) (va vb : Bool) (sa sb : Nat) (xs ys : List Nat) : Val :=
  if sa = 255 ∨ sb = 255 then .nan
  else (exactSum ((xs.zip ys).map fun e => Val.mul (famVal f va e.1) (famVal f vb e.2))).scale ((sa : Int) + sb - 254)

/-- The block value of an MMA in an integer family (R163). -/
def mmaIntBlock (f : Nat) (va vb : Bool) (xs ys : List Nat) : Int :=
  (xs.zip ys).foldl (fun s e => s + famIntVal f va e.1 * famIntVal f vb e.2) 0

/-- acc := RoundTo(acc + RoundTo(s)) (R163). -/
def mmaAcc (acc : Word) (s : Val) : Word := f32Word 0 (Val.add false (f32Val acc) (f32Val (f32Word 0 s)))

/-- Accumulation in an integer family (R163). -/
def mmaIntAcc (sat : Bool) (acc : Word) (s : Int) : Word :=
  if sat then trunc32 (clamp (-(2 : Int) ^ 31) ((2 : Int) ^ 31 - 1) (acc.toInt + s)) else trunc32 (acc.toInt + s)

/-- min or max of values with −0 below +0; NaN if either is NaN (R165). -/
def valPick (max : Bool) (a b : Val) : Val :=
  match Val.cmp a b with
  | none => .nan
  | some i =>
    let neg := match a with
      | .fin n _ _ => n
      | _ => false
    let first := if i = 0 then neg != max else if max then decide (0 < i) else decide (i < 0)
    if first then a else b

/-- The product of a semiring (R165): 0 min-plus, 1 max-plus, 2 max-times. -/
def ringMul (ring : Nat) (a b : Val) : Val :=
  if a.isNan || b.isNan then .nan
  else
    match ring with
    | 0 => if a = .inf false ∨ b = .inf false then .inf false else Val.add false a b
    | 1 => if a = .inf true ∨ b = .inf true then .inf true else Val.add false a b
    | _ =>
      let zero := fun (v : Val) => match v with
        | .fin _ m _ => decide (m = 0)
        | _ => false
      let inf := fun (v : Val) => match v with
        | .inf _ => true
        | _ => false
      if (zero a && inf b) || (inf a && zero b) then .fin false 0 0 else Val.mul a b

/-- ⊕ of a block's products (R165). -/
def ringSum (ring : Nat) : List Val → Val
  | [] => .nan
  | v :: r => r.foldl (valPick (decide (ring ≠ 0))) v

/-- The block value of an MMS in a floating family. -/
def mmsBlock (ring f : Nat) (va vb : Bool) (xs ys : List Nat) : Val :=
  ringSum ring ((xs.zip ys).map fun e => ringMul ring (famVal f va e.1) (famVal f vb e.2))

/-- acc ⊕ s in kind F (R165). -/
def mmsAcc (ring : Nat) (acc : Word) (s : Val) : Word :=
  f32Word 0 (valPick (decide (ring ≠ 0)) (f32Val acc) (f32Val (f32Word 0 s)))

/-- The block value of an MMS in an integer family (R165). -/
def mmsIntBlock (ring f : Nat) (va vb : Bool) (xs ys : List Nat) : Int :=
  let ps := (xs.zip ys).map fun e =>
    let x := famIntVal f va e.1
    let y := famIntVal f vb e.2
    match ring with
    | 0 => x + y
    | 1 => x + y
    | 2 => x * y
    | _ => if x ≠ 0 ∧ y ≠ 0 then 1 else 0
  match ps with
  | [] => 0
  | p :: r => r.foldl (fun a b => if ring = 0 then min a b else max a b) p

/-- acc ⊕ s in kind I (R165). -/
def mmsIntAcc (ring : Nat) (acc : Word) (s : Int) : Word :=
  match ring with
  | 0 => trunc32 (min acc.toInt s)
  | 3 => if acc ≠ 0#32 ∨ s = 1 then 1#32 else 0#32
  | _ => trunc32 (max acc.toInt s)

/-- The identity that z = 1 starts from (R163, R165); `none` is plus-times. -/
def ringZero (ring : Option Nat) (int : Bool) : Word :=
  match ring with
  | none => 0#32
  | some 0 => if int then 0x7FFFFFFF#32 else 0x7F800000#32
  | some 3 => 0#32
  | some _ => if int then 0x80000000#32 else 0xFF800000#32

-- The result check ------------------------------------------------------------------------------------------------

/-- floor(log2 |v|) of a finite nonzero value. -/
def Val.log2Floor : Val → Option Int
  | .fin _ m e => if m = 0 then none else some (Nat.log2 m + e)
  | _ => none

/-- The bound B of R166 for a floating block value. -/
def checkBound (ring : Option Nat) (f : Nat) (va vb : Bool) (sa sb : Nat) : Val :=
  let ma := (famMax f va).scale ((sa : Int) - 127)
  let mb := (famMax f vb).scale ((sb : Int) - 127)
  match ring with
  | none => (Val.mul ma mb).scale 5
  | some 2 => Val.mul ma mb
  | some _ => Val.add false ma mb

/-- Whether a floating block value fails the check (R166). -/
def checkFails (s bound : Val) : Bool :=
  match s.log2Floor, bound.log2Floor with
  | some a, some b => decide (b < a)
  | _, _ => false

/-- Whether an integer block value fails the check (R166). -/
def checkIntFails (ring : Option Nat) (f : Nat) (va vb : Bool) (s : Int) : Bool :=
  let ma := famIntMax f va
  let mb := famIntMax f vb
  match ring with
  | none => decide (32 * ma * mb < s.natAbs)
  | some 2 => decide (ma * mb < s.natAbs)
  | some 3 => false
  | some _ => decide (ma + mb < s.natAbs)

/-- What a cell row with a computation error of the environment does to its first block value (R166, R167): the value
used instead, if it is not the correct one; whether the row is charged; whether the tile becomes suspect; errors left. -/
structure RowErr where
  used : Option Word
  charge : Bool
  suspect : Bool
  left : Nat
  deriving DecidableEq, Repr

/-- The outcome for a row with `n` wrong computations pending, whose wrong values are `w1` and `w2`. -/
def rowErr (check retry : Bool) (fails : Word → Bool) (n : Nat) (w1 w2 : Word) : RowErr :=
  if n = 0 then ⟨none, false, false, 0⟩
  else if !check || !fails w1 then ⟨some w1, false, false, n - 1⟩
  else if !retry then ⟨some w1, true, true, n - 1⟩
  else if n = 1 then ⟨none, true, false, 0⟩
  else if fails w2 then ⟨some w2, true, true, n - 2⟩
  else ⟨some w2, true, false, n - 2⟩

-- Completion of entries -------------------------------------------------------------------------------------------

/-- A sparse table of `n` values. -/
def tabOf {α : Type} [DecidableEq α] (d : α) (n : Nat) (f : Nat → α) : Tab α :=
  (List.range n).filterMap fun i => if f i = d then none else some (i, f i)

/-- Reads the rows of a fill (R157): each at its address, in `len` bytes. -/
def State.readRows (s : State) (g : Group) (len : Nat) : List Nat → Except (Nat × Nat × Nat) (State × List Bytes)
  | [] => .ok (s, [])
  | a :: r =>
    if 2 ^ 52 < a + len then .error (causeProt, 1, a)
    else
      match s.vread (some g.core) g.asid a len g.priv with
      | .error e => .error e
      | .ok (s, bs) =>
        match State.readRows s g len r with
        | .error e => .error e
        | .ok (s, rest) => .ok (s, bs :: rest)

/-- A byte of row m of a slot that TLDX fills from rows of K (R157): `w` 0 4-bit, 1 8-bit, 2 16-bit. -/
def crossByte (w : Nat) (rows : List Bytes) (m p : Nat) : Byte :=
  let row := fun q => rows.getD q []
  match w with
  | 0 =>
    let nib := fun q => bitsOf ((row q).getD (m / 2) 0#8).toNat (4 * (m % 2)) 4
    BitVec.ofNat 8 (nib (2 * p) + 16 * nib (2 * p + 1))
  | 1 => (row p).getD m 0#8
  | _ => (row (p / 2)).getD (2 * m + p % 2) 0#8

/-- The contents of a slot after a fill (R157). -/
def fillData (k : ArrKind) (old : Tab Byte) (rows : List Bytes) : Tab Byte :=
  match k with
  | .tld _ _ _ => tabOf 0#8 16384 fun i => (rows.getD (i / 128) []).getD (i % 128) 0#8
  | .tldx w _ _ _ => tabOf 0#8 16384 fun i => crossByte w rows (i / 128) (i % 128)
  | .tlds _ n _ => Tab.writeFrom 0#8 old (1024 * n) (rows.foldl (· ++ ·) [])
  | _ => old

/-- An operation of the mat counter completes. -/
def State.matDone (s : State) (e : ArrEntry) (failed : Bool) : State :=
  (s.setGroup e.g ((s.group e.g).setOp e.seq fun o => { o with done := true, failed := failed })).settle e.g

/-- An imprecise record waits for the group's next matrix instruction or mat wait (R152, R167). -/
def State.matRecord (s : State) (e : ArrEntry) (cause : Nat) : State :=
  let g := s.group e.g
  let ext := (s.task g.task).ext
  let r : FaultRec := ⟨cause, gradeExt ext 3, 2, 0xFF, false, ext, (Config.freeWord s.free).toNat, g.gidx, g.taskId,
    e.pc.toNat, 0⟩
  { s.setGroup e.g { g with imprec := g.imprec ++ [(.mat, r)] } with free := s.free + 1 }

/-- The lines that one row of a TST writes (R158). -/
def tstRow (int : Bool) (y mode base : Nat) (row : List Word) : List (Nat × Tab (Option Byte)) :=
  let w := (Ty.ofCode y).width / 8
  let bs := row.flatMap fun x => leBytes w (convert (Ty.ofCode y) (if int then .i32 else .f32) mode 0 x.toNat)
  (List.range w).map fun i => (base / 128 + i, putBytes [] 0 ((bs.drop (128 * i)).take 128))

/-- The writes of a TST leave for their home slices (R151, R158); a line of an open release that does not cover the TST
holds them (R219). The order of the rows is a free value. -/
def State.tstWrites (s : State) (e : ArrEntry) (y p base st mode : Nat) : State :=
  let g := s.group e.g
  let tile := (s.core g.core).tile p
  let first := Config.freeNat s.free % 128
  let rows := (List.range 128).map fun r => (r + first) % 128
  let lines := rows.flatMap fun r => tstRow tile.int y mode (base + r * st)
    ((List.range 128).map fun j => tile.data.read 0#32 (128 * r + j))
  let g := lines.foldl (fun g l =>
    let rel := (g.rels.reverse.find? fun r => r.lines.contains (0, 0, l.1) && !r.ops.contains e.seq).map (·.id)
    let g := g.holdPart .tst 0 0 l.1 l.2 e.seq e.pc rel false
    if 2 ^ 45 ≤ l.1 then g.setPart (g.newId - 1) fun q => { q with st := .failed causeProt 1 } else g) g
  let g := g.setOp e.seq fun o => { o with kind := .store }
  ({ s with free := s.free + 1 }.setGroup e.g g).settle e.g

/-- Charges a cell row (R168, R169): the first row that reaches RETIRE_AT is steered to the spare, the second retires the
array. DESIGN CHOICE (notes/assumptions/99.md): a row retires as its count comes to stand at RETIRE_AT; one whose count stands
above it already, because the limit was lowered or the count written, does not. -/
def State.chargeRow (s : State) (c row : Nat) : State :=
  let core := s.core c
  let n := 0x132 + row / 16
  let old := core.sysv n
  let v := bitsOf old (4 * (row % 16)) 4
  let limit := bitsOf (core.sysv 0x130) 3 4
  let v' := Nat.min 15 (v + 1)
  let core := core.setSys n (old - v * 2 ^ (4 * (row % 16)) + v' * 2 ^ (4 * (row % 16)))
  let s := s.setCore c core
  if limit = 0 ∨ limit ≠ v' ∨ v = v' ∨ core.arrayOff then s
  else if core.spareUsed || core.spareOut then
    (s.setCore c { core with arrayOff := true }).logEvent (some (unitCore c)) (eventRec 2 0 0)
  else (s.setCore c { core with spareUsed := true, steered := row }).logEvent (some (unitCore c)) (eventRec 2 0 0)

/-- The effect of the cell rows' errors on the core, the tile and the group (R167). -/
def State.rowsChecked (s : State) (e : ArrEntry) (c p : Nat) : List (Nat × RowErr) → State
  | [] => s
  | (row, x) :: r =>
    let core := s.core c
    let s := s.setCore c { core with arrErr := core.arrErr.write 0 row x.left }
    let s := if x.charge then s.chargeRow c row else s
    let s := if x.charge && !x.suspect then s.logEvent (some (unitCore c)) (eventRec 1 0 0) else s
    let s := if x.suspect then
        let core := s.core c
        let s := (s.setCore c (core.setTile p { core.tile p with suspect := true })).logEvent (some (unitCore c))
          { eventRec 3 0 0 with cause := causeSuspect }
        if bitOf (core.sysv 0x130) 2 then s.matRecord e causeSuspect else s
      else s
    s.rowsChecked e c p r

/-- One element of a product in kind F: blocks in increasing order; `wrong` gives what is used instead of a block value. -/
def elemF (ring : Option Nat) (f : Nat) (va vb : Bool) (acc : Word) (wrong : Nat → Option Word)
    (as bs : List (Nat × List Nat)) : Word :=
  ((as.zip bs).zipIdx).foldl (fun acc e =>
    let x := e.1.1
    let y := e.1.2
    let v := match wrong e.2 with
      | some w => f32Val w
      | none => match ring with
        | none => mmaBlock f va vb x.1 y.1 x.2 y.2
        | some n => mmsBlock n f va vb x.2 y.2
    match ring with
    | none => mmaAcc acc v
    | some n => mmsAcc n acc v) acc

/-- One element of a product in kind I. -/
def elemI (ring : Option Nat) (f : Nat) (va vb sat : Bool) (acc : Word) (wrong : Nat → Option Word)
    (as bs : List (Nat × List Nat)) : Word :=
  ((as.zip bs).zipIdx).foldl (fun acc e =>
    let v := match wrong e.2 with
      | some w => w.toInt
      | none => match ring with
        | none => mmaIntBlock f va vb e.1.1.2 e.1.2.2
        | some n => mmsIntBlock n f va vb e.1.1.2 e.1.2.2
    match ring with
    | none => mmaIntAcc sat acc v
    | some n => mmsIntAcc n acc v) acc

/-- A block value that a cell gets wrong (R166, R167): its row, column and block, and what becomes of it. -/
structure BlockErr where
  row : Nat
  col : Nat
  blk : Nat
  err : RowErr
  deriving DecidableEq, Repr

/-- The block values that the cells of a row with `left` wrong computations pending get wrong in one product, and the free
values drawn: which cells and blocks they are, the wrong values, and whether more follow, are free values. A block that has
been drawn already is not drawn again. -/
def rowErrs (check retry : Bool) (fails : Nat → Nat → Nat → Word → Bool) (row blocks : Nat) (seen : List (Nat × Nat)) :
    Nat → Nat → Nat → List BlockErr × Nat
  | 0, _, d => ([], d)
  | n + 1, left, d =>
    let col := Config.freeNat d % 128
    let blk := Config.freeNat (d + 1) % blocks
    if left = 0 then ([], d)
    else if seen.contains (col, blk) then ([], d + 2)
    else
      let x := rowErr check retry (fails row col blk) left (Config.freeWord (d + 2)) (Config.freeWord (d + 3))
      if Config.freeBit (d + 4) then
        let (r, d) := rowErrs check retry fails row blocks ((col, blk) :: seen) n x.left (d + 5)
        (⟨row, col, blk, x⟩ :: r, d)
      else ([⟨row, col, blk, x⟩], d + 5)

/-- The wrong block values of several rows. -/
def rowsErrs (one : Nat → Nat → List BlockErr × Nat) : List Nat → Nat → List BlockErr × Nat
  | [], d => ([], d)
  | row :: r, d =>
    let (x, d) := one row d
    let (y, d) := rowsErrs one r d
    (x ++ y, d)

/-- A slot as rows of blocks with their scales (R144, R145). -/
def Core.rowsOf (c : Core) (f : Nat) (x : Slot) : List (List (Nat × List Nat)) :=
  (List.range 128).map fun r => (List.range (famK f / 32)).map fun j => (c.scaleOf f x r j, x.block f r j)

/-- MMA and MMS (R163, R165 to R167). -/
def State.product (s : State) (e : ArrEntry) (c : Nat) (ring : Option Nat) (f : Nat) (va vb sat z : Bool) (pt pa pb : Nat) :
    State :=
  let core := s.core c
  let ctl := core.sysv 0x130
  let int := famInt f
  let tile := core.tile pt
  let tile := if z then { tile with int := int, data := [], suspect := false, poison := false } else tile
  let as := core.rowsOf f (core.slot pa)
  let bs := core.rowsOf f (core.slot pb)
  let fails := fun (i j k : Nat) (w : Word) =>
    if int then checkIntFails ring f va vb w.toInt
    else checkFails (f32Val w) (checkBound ring f va vb ((as.getD i []).getD k (127, [])).1 ((bs.getD j []).getD k (127, [])).1)
  let bad := core.arrErr.keys.filter fun i => decide (i < 128) && !(core.spareUsed && decide (core.steered = i))
  let (errs, free) := rowsErrs (fun i => rowErrs (bitOf ctl 0 && decide (ring ≠ some 3)) (bitOf ctl 1) fails i (famK f / 32) []
    (core.arrErr.read 0 i) (core.arrErr.read 0 i)) bad s.free
  let wrong := fun (i j k : Nat) =>
    (errs.find? fun x => decide (x.row = i ∧ x.col = j ∧ x.blk = k)).bind fun x => x.err.used
  let cell := fun (i j : Nat) =>
    let acc := if z then ringZero ring int else tile.data.read 0#32 (128 * i + j)
    if int then elemI ring f va vb sat acc (wrong i j) (as.getD i []) (bs.getD j [])
    else elemF ring f va vb acc (wrong i j) (as.getD i []) (bs.getD j [])
  let tile := { tile with data := tabOf 0#32 16384 fun n => cell (n / 128) (n % 128) }
  ({ s with free := free }.setCore c (core.setTile pt tile)).rowsChecked e c pt (errs.map fun (x : BlockErr) => (x.row, x.err))

/-- Frees units (R143): bindings to a released slot end (R145). -/
def Core.freeUnits (c : Core) (ss ts : List Nat) : Core :=
  let c := ss.foldl (fun c p => c.setSlot p Slot.init) c
  let c := ts.foldl (fun c p => c.setTile p Tile.init) c
  { c with slots := (c.slots.map fun e => (e.1, match e.2.scale with
      | some b => if ss.contains b.1 then { e.2 with scale := none } else e.2
      | none => e.2)) }

/-- The registers of a TMV are written (R150, R159): on the core, and in the frame of a group that has been written back. A
frame write that faults waits as an append does (R384, R385). -/
def State.tmvWrite (s : State) (k r : Nat) (rows : List (List Word)) : State :=
  let g := s.group k
  let put := fun (g : Group) => (rows.zipIdx).foldl (fun g x => g.writeLanes (r + x.2) (List.range 32) x.1) g
  let s := s.setGroup k (put g)
  if g.sched = .active ∨ g.sched = .done ∨ g.sched = .killed then s
  else
    match s.vwrite (some g.core) g.asid (s.frameBase g + 0x800 + 128 * r) (rows.flatMap fun x => x.flatMap fun w => leBytes 4 w.toNat)
        true with
    | .ok s => s.setGroup k { s.group k with dirty := g.dirty }
    | .error _ => s.setGroup k { s.group k with frameRetry := if g.frameRetry = 0 then 4 else g.frameRetry }

/-- The effect of an entry other than a fill (R152, R154 to R165). -/
def State.entryEffect (s : State) (c : Nat) (e : ArrEntry) : State :=
  let core := s.core c
  let poisoned := fun t => (core.tile t).poison
  match e.kind with
  | .trel ss ts => (s.setCore c (core.freeUnits ss ts)).matDone e false
  | .tzero i ts => (s.setCore c (ts.foldl (fun k t => k.setTile t { k.tile t with
      int := i, data := [], suspect := false, poison := false }) core)).matDone e false
  | .tscale p sc => (s.setCore c (core.setSlot p { core.slot p with scale := sc })).matDone e false
  | .tmvi t row vs => (s.setCore c (core.setTile t { core.tile t with
      data := Tab.writeFrom 0#32 (core.tile t).data (128 * row) vs })).matDone e false
  | .tmv r t row =>
    if poisoned t then (s.matRecord e causePoison).matDone e true
    else
      let row := fun (j : Nat) => (List.range 32).map fun l => (core.tile t).data.read 0#32 (128 * row + 32 * j + l)
      (s.tmvWrite e.g r ((List.range 4).map row)).matDone e false
  | .tst y t base st mode =>
    if poisoned t then (s.matRecord e causePoison).matDone e true else s.tstWrites e y t base st mode
  | .mma f va vb sat z t a b =>
    if poisoned t && !z then (s.matRecord e causePoison).matDone e true
    else (s.product e c none f va vb sat z t a b).matDone e false
  | .mms ring f va vb z t a b =>
    if poisoned t && !z then (s.matRecord e causePoison).matDone e true
    else (s.product e c (some ring) f va vb false z t a b).matDone e false
  | _ => s

/-- Whether a fill must still wait for its own group: for an earlier write, atomic, load, TST or fill at one of its lines
(R151, R196, R216). -/
def State.fillBehind (s : State) (c : Nat) (e : ArrEntry) : Bool :=
  let g := s.group e.g
  let hit := e.kind.readsLine
  e.kind.isFill && ((g.parts.any fun p => decide (p.cls = 0) && decide (p.first < e.seq) && hit p.line) ||
    (g.ops.any fun o => decide (o.seq < e.seq) && !o.done && decide (o.cls ≠ .mat) && o.accs.any fun a =>
      decide (a.st ≠ .got) && hit (a.addr / 128)) ||
    (s.core c).arr.any fun x => x.fillAfter e)

/-- Whether a TREL of tiles must wait for a TST of its team whose writes have not completed (R151, R154). -/
def State.relBehind (s : State) (e : ArrEntry) : Bool :=
  match e.kind with
  | .trel _ ts => !ts.isEmpty && s.groups.any fun x => decide (x.2.team = e.team) && x.2.ops.any fun o =>
      decide (o.cls = .mat) && !o.done && decide (o.kind = .store)
  | _ => false

/-- Whether entry `i` of a core's queue may take effect now (R149, R152, R169). -/
def State.entryReady (s : State) (c i : Nat) : Bool :=
  let core := s.core c
  match core.arr[i]? with
  | none => false
  | some e => !core.arrayOff && !e.kind.isCopy && !s.entryFaulted e && !s.fillBehind c e && !s.relBehind e &&
    (core.arr.take i).all fun x => !core.conflict x e

/-- The entries behind others that wait on them (R149, R152). A release waits on nothing that they would give it. -/
def Core.behind (core : Core) : List ArrEntry → List ArrEntry → List ArrEntry
  | gone, [] => gone
  | gone, x :: r =>
    match x.kind with
    | .trel _ _ => Core.behind core gone r
    | _ => if gone.any fun y => core.conflict y x then Core.behind core (gone ++ [x]) r else Core.behind core gone r

/-- The tiles that an entry writes. -/
def ArrKind.tilesWritten : ArrKind → List Nat
  | .mma _ _ _ _ _ t _ _ => [t]
  | .mms _ _ _ _ _ t _ _ => [t]
  | .tzero _ ts => ts
  | .tmvi t _ _ => [t]
  | _ => []

/-- A fill whose group has ended is abandoned (R152): every entry that waits on it, directly or behind one that does, is
discarded, the places of copies with their transfers, their tiles are poisoned, their slots read as zeros. It answers the entries discarded. -/
def Core.abandonFill (core : Core) (e : ArrEntry) : Core × List ArrEntry :=
  let gone := (core.behind [e] ((core.arr.dropWhile fun x => x ≠ e).drop 1)).drop 1
  let core := { core with
    arr := core.arr.filter fun x => !(decide (x = e) || gone.contains x)
    shuttle := core.shuttle.filter fun t => !gone.any fun x => x.kind.isCopy && decide (x.g = t.g ∧ x.seq = t.seq) }
  (gone.foldl (fun k x =>
    let k := x.kind.tilesWritten.foldl (fun k t => k.setTile t { k.tile t with poison := true }) k
    if x.kind.isFill || x.kind.isCopy then (k.units x.kind).1.foldl (fun k p => k.setSlot p { k.slot p with data := [] }) k else k) core,
    gone)

/-- The units of a team that has ended are free once no entry of it is left in the queue (R143, R149). -/
def State.reap (s : State) (c t : Nat) : State :=
  let core := s.core c
  if (s.team t).done && !core.arr.any fun e => e.team = t then
    s.setCore c (core.freeUnits ((core.slots.filter fun e => e.2.owner = t + 1).map (·.1))
      ((core.tiles.filter fun e => e.2.owner = t + 1).map (·.1)))
  else s

/-- Abandons one entry of a core. -/
def State.abandonFill (s : State) (c : Nat) (e : ArrEntry) : State :=
  let (core, gone) := (s.core c).abandonFill e
  (gone.foldl (fun s x => s.matDone x true) (s.setCore c core)).reap c e.team

/-- ARRAY_QUEUE_ENTRY_COMPLETE (R149, R152, R154 to R167): a fill takes effect as a whole, or meets a fault. DESIGN CHOICE
(notes/assumptions/150.md): the rows of a fill are all read in this one step. -/
def execArrayQueueEntryComplete (c i : Nat) (s : State) : Host.Outcome State Fault Refusal :=
  let core := s.core c
  match core.arr[i]? with
  | none => .next s
  | some e =>
    if !s.entryReady c i || (e.kind.isFill && !(s.group e.g).mayRedo e.seq) then .next s
    else
      let drop := fun (s : State) =>
        let core := s.core c
        s.setCore c { core with arr := core.arr.take i ++ core.arr.drop (i + 1) }
      match e.kind.isFill, (core.units e.kind).1 with
      | true, p :: _ =>
        let g := s.group e.g
        if e.kind.rows.1.any fun a => s.lineBusy g.core g.asid a e.kind.rows.2 then .next s
        else
        match s.readRows g e.kind.rows.2 e.kind.rows.1 with
        | .error (cause, w, va) => .next ((s.setGroup e.g (g.setOp e.seq fun o => { o with fault := some (cause, w, 0xFF, va) })).appendFrame e.g)
        | .ok (s, rows) =>
          let core := s.core c
          let x := core.slot p
          let s := s.setCore c (core.setSlot p { x with data := fillData e.kind x.data rows })
          .next (((drop s).matDone e false).reap c e.team)
      | _, _ => .next (((drop s).entryEffect c e).reap c e.team)

/-- The saved matrix state of a team as the core it stood on (R153). -/
def Team.savedCore (t : Team) : Core :=
  { Core.init with slots := t.savedSlots, tiles := t.savedTiles, arr := t.savedArr, shuttle := t.savedCopies }

/-- Abandons one entry of a team that is out of its core. -/
def State.abandonSaved (s : State) (t : Nat) (e : ArrEntry) : State :=
  let tm := s.team t
  let (core, gone) := tm.savedCore.abandonFill e
  gone.foldl (fun s x => s.matDone x true)
    (s.setTeam t { tm with savedSlots := core.slots, savedTiles := core.tiles, savedArr := core.arr, savedCopies := core.shuttle })

/-- The end of a group's fills, none of which has completed (R152, R369). -/
def State.abandonFills (s : State) (k : Nat) : State :=
  let t := (s.group k).team
  let tm := s.team t
  let mine := fun (e : ArrEntry) => decide (e.g = k) && e.kind.isFill
  let s := ((s.core tm.core).arr.filter mine).foldl (fun s e => s.abandonFill tm.core e) s
  (tm.savedArr.filter mine).foldl (fun s e => s.abandonSaved t e) s

end Sys2Proof.Machine
end

