-- ==== Sys2Proof/Machine/Copy.lean ====
section
/-! DEFINITION. Tensor layout records, the COPY instructions and the steps of the shuttle (11_copy.md R291 to R313). -/
namespace Sys2Proof.Machine

-- Layouts ---------------------------------------------------------------------------------------------------------

/-- A record body as R293 lays it out, with its base. A dimension is its size and its stride. -/
structure Layout where
  ty : Nat
  plane : Bool
  oobf : Bool
  fill : Nat
  scoff : Int
  dims : List (Nat × Int)
  base : Nat
  deriving DecidableEq, Repr

/-- `n` bytes of a body at an offset, as a number. -/
def bodyAt (b : Bytes) (o n : Nat) : Nat := leNat ((b.drop o).take n)

/-- The layout of a body. -/
def layoutOf (b : Bytes) (base : Nat) : Layout :=
  let w := bodyAt b 0 4
  ⟨bitsOf w 0 5, bitOf w 8, bitOf w 24, bodyAt b 4 4, sext 64 (bodyAt b 8 8),
    (List.range (bitsOf w 16 4 + 1)).map fun k => (bodyAt b (16 + 8 * k) 4, sext 32 (bodyAt b (20 + 8 * k) 4)), base⟩

/-- The length of a body whose first word is `w` (R293). -/
def bodyLength (w : Nat) : Nat := 16 + 8 * (bitsOf w 16 4 + 1)

/-- Whether a TYPE code is an MX type (R294). -/
def tyMx (t : Nat) : Bool := decide (18 ≤ t ∧ t ≤ 22)
/-- The element's own type code: that of R43, or 16 i4, 17 n4 (R294). -/
def tyElem (t : Nat) : Nat :=
  match t with
  | 18 => 3
  | 19 => 4
  | 20 => 5
  | 21 => 6
  | 22 => 16
  | t => t
/-- The element width in bits (R144, R294). -/
def tyBits (t : Nat) : Nat := if tyElem t = 16 ∨ tyElem t = 17 then 4 else (Ty.ofCode (tyElem t)).width
/-- Whether an element type is an integer type, and whether it is signed. -/
def tyInt (t : Nat) : Option Bool :=
  if tyElem t = 16 then some true else if tyElem t = 17 then some false else (Ty.ofCode (tyElem t)).int?
/-- The element's own value. -/
def tyVal (t c : Nat) : Val :=
  if tyElem t = 16 then Val.ofInt (sext 4 c) else if tyElem t = 17 then Val.ofInt (c % 16 : Nat)
  else (Ty.ofCode (tyElem t)).value c
/-- RoundTo(v, element type, mode) (R121). -/
def tyRound (t mode : Nat) (v : Val) : Nat :=
  if tyElem t = 16 then (roundToInt true 4 mode 0 v % 16).toNat
  else if tyElem t = 17 then (roundToInt false 4 mode 0 v % 16).toNat
  else roundTo (Ty.ofCode (tyElem t)) mode 0 v
/-- emax of an MX type (R128, R144). -/
def tyEmax (t : Nat) : Nat :=
  match t with
  | 18 => 8
  | 19 => 15
  | 21 => 10
  | _ => 2

/-- The conversion of CPYE between element types that are not MX types (R141, R302). -/
def tyConvert (dst src mode x : Nat) : Nat :=
  match tyInt dst, tyInt src with
  | some sd, some ss =>
    let i : Int := if ss then sext (tyBits src) x else (x % 2 ^ tyBits src : Nat)
    let (lo, hi) := intRange sd (tyBits dst)
    ((if mode = 4 then clamp lo hi i else i) % (2 : Int) ^ tyBits dst).toNat
  | _, _ => tyRound dst mode (tyVal src x)

/-- A dimension's size is allowed (R293). -/
def sizeOk (d : Nat × Int) : Bool := decide (1 ≤ d.1 ∧ d.1 < 2 ^ 31)
/-- The number of elements. -/
def Layout.count (l : Layout) : Nat := l.dims.foldl (fun n d => n * d.1) 1

/-- The word of a RECORD trap for a body: 2 malformed, 6 MX rule (R293, R294, R298). -/
def bodyFault (b : Bytes) : Option Nat :=
  let w := bodyAt b 0 4
  let l := layoutOf b 0
  if bitsOf w 5 3 ≠ 0 ∨ bitsOf w 9 7 ≠ 0 ∨ bitsOf w 20 4 ≠ 0 ∨ bitsOf w 25 7 ≠ 0 ∨ l.ty = 15 ∨ 22 < l.ty then some 2
  else if l.plane ∧ tyBits l.ty ≠ 4 then some 2
  else if !tyMx l.ty && decide (l.scoff ≠ 0) then some 2
  else if !(l.dims.all sizeOk) || decide (2 ^ 40 < l.count) then some 2
  else if tyMx l.ty && !(match l.dims with
      | (n, st) :: r => decide (st = 1 ∧ n % 32 = 0) && r.all fun d => decide (d.2 % 32 = 0)
      | [] => true) then some 6
  else none

/-- The lowest and the highest element offset (R296). -/
def Layout.extent (l : Layout) : Int × Int :=
  l.dims.foldl (fun e d =>
    let x := ((d.1 : Int) - 1) * d.2
    if x < 0 then (e.1 + x, e.2) else (e.1, e.2 + x)) (0, 0)

/-- The first and the last byte of an element, as offsets from the base (R295). -/
def Layout.span (l : Layout) (e : Int) : Int × Int :=
  let w := tyBits l.ty
  if w = 4 then
    if l.plane then (64 * (e / 128) + e % 128 / 8, 64 * (e / 128) + 48 + e % 128 / 8) else (e / 2, e / 2)
  else (e * (w / 8 : Nat), e * (w / 8 : Nat) + (w / 8 : Nat) - 1)

/-- The bytes of a record, as runs of offsets from the base: its elements', and its scales' (R296). -/
def Layout.runs (l : Layout) : List (Int × Int) :=
  let (e0, e1) := l.extent
  ((l.span e0).1, (l.span e1).2) :: if tyMx l.ty then [(l.scoff + e0 / 32, l.scoff + e1 / 32)] else []

/-- The lowest and the highest byte of a record, as offsets from the base (R296). -/
def Layout.range (l : Layout) : Int × Int :=
  match l.runs with
  | [] => (0, 0)
  | x :: r => r.foldl (fun e y => (min e.1 y.1, max e.2 y.2)) x

/-- The alignment of a base (R296). -/
def Layout.align (l : Layout) : Nat := if l.plane then 64 else if tyBits l.ty = 4 then 1 else tyBits l.ty / 8

/-- A trap that names an address and no lane of its own. -/
def trapVa {α : Type} (cause : Nat) (word : Option Nat) (va : Nat) : Go α :=
  .error (.trap ⟨cause, word, 0, none, va, none, false, false⟩)

/-- The checks of R296 on a record: form, alignment, range. -/
def State.checkRecord (s : State) (g : Group) (l : Layout) : Go Unit :=
  match formFault false false 0 l.base with
  | some (c, w) => trapVa c (some w) l.base
  | none =>
    if l.base % l.align ≠ 0 then trapVa causeAlign none l.base
    else
      let (lo, hi) := l.range
      if isScratch l.base then
        match s.scratchForm g l.base with
        | some w => trapVa causeScratch (some w) l.base
        | none =>
          let o : Int := (bitsOf l.base 0 22 : Nat)
          let size := (s.team g.team).scratchSize
          if o + lo < 0 then trapVa causeScratch (some 0x80000004) l.base
          else if (size : Int) ≤ o + hi then
            -- the lowest offending offset (R186): a gap between the runs names no byte of the record
            let outs := (l.runs.filter fun x => decide ((size : Int) ≤ o + x.2)).map fun x => Nat.max size (o + x.1).toNat
            trapVa causeScratch (outs.foldl (fun r x => some (match r with
              | some y => Nat.min x y
              | none => x)) none) l.base
          else .ok ()
      else if (l.base : Int) + lo < 0 ∨ (2 : Int) ^ 52 ≤ (l.base : Int) + hi then trapVa causeRecord (some 5) l.base
      else .ok ()

-- Handles ---------------------------------------------------------------------------------------------------------

/-- An entry of a team's record table (R297). -/
def State.recEntry (s : State) (t e : Nat) : RecEntry := (s.team t).recs.read RecEntry.init e
/-- Replaces it. -/
def State.setRec (s : State) (t e : Nat) (r : RecEntry) : State :=
  let tm := s.team t
  s.setTeam t { tm with recs := tm.recs.put e r }
/-- The handle of an entry (R297); 0 is never issued. -/
def State.handleOf (s : State) (t e gen : Nat) : Nat :=
  let h := e + 2 ^ 8 * (gen % 256) + 2 ^ 16 * ((Config.seal (s.team t).launch e gen).toNat % 2 ^ 16)
  if h = 0 then 2 ^ 16 else h
/-- CheckHandle: the entry that a valid handle names (R297). -/
def State.checkHandle (s : State) (g : Group) (h : Word) : Go Nat :=
  let e := h.toNat % 64
  let r := s.recEntry g.team e
  if r.valid ∧ h.toNat = s.handleOf g.team e r.gen then .ok e else trapW causeRecord 1
/-- Whether a transfer of the team names an entry (R300). -/
def State.entryBusy (s : State) (t e : Nat) : Bool :=
  s.cores.any fun c => c.2.shuttle.any fun x => decide (x.team = t) && x.handles.contains e
/-- Entries that are free: invalid, and named by no transfer (R300). -/
def State.freeRecs (s : State) (t : Nat) : List Nat :=
  (List.range 64).filter fun e => !(s.recEntry t e).valid && !s.entryBusy t e

-- Issue -----------------------------------------------------------------------------------------------------------

/-- A held transfer, or the record of one, stops the group at its next COPY member (R309, R310). -/
def copyFaults (g : Group) : Go Unit :=
  match g.ops.find? fun o => decide (o.cls = .copy) && o.fault.isSome with
  | some o =>
    match o.fault with
    | some f => .error (.trap (o.deferred f))
    | none => .ok ()
  | none => noImprecise g .copy

/-- The checks of a COPY member (R292). -/
def copyPre (g : Group) (uses : List Use) (role : Bool) (operandOk : Bool) : Pre :=
  { controlPre g uses with roleOk := role, inRegion := false, operandOk := operandOk }

/-- Own writes to lines of a byte range that have not been performed (R196). -/
def Group.ownWrites (g : Group) (a n : Nat) : Bool :=
  let hit := fun (line : Nat) => decide (a / 128 ≤ line) && decide (line ≤ (a + n - 1) / 128)
  g.wcb.any (fun w => hit w.line) || g.parts.any fun p => decide (p.cls = 0) && hit p.line && (match p.st with
    | .ext _ => false
    | _ => true)

/-- A hardware read of a group's memory whose fault is deferred and delivered at the instruction that waits for it. -/
def State.bodyRead (s : State) (a n : Nat) : Go (State × Bytes) :=
  let g := s.me
  let fault := fun (c w va : Nat) => (Except.error (Stop.trap ⟨c, some w, 1, none, va, none, false, false⟩) : Go (State × Bytes))
  if 2 ^ 52 < a + n then fault causeProt 1 a
  else
    match s.vread (some g.core) g.asid a n g.priv with
    | .error (c, w, va) => fault c w va
    | .ok x => .ok x

/-- The place on the mem counter that a LREC or a LAUNCH at this pc has taken while its bundle blocks (R300, R349). -/
def Group.openPlace (g : Group) : Option Op := g.ops.find? fun o => decide (o.kind = .instant ∧ o.pc = g.pc) && !o.done

/-- An instruction that blocks keeps its place on the mem counter (R228); the first time, it takes the next one. -/
def State.holdPlace (s s0 : State) : State :=
  let g := s.me
  if s0.me.openPlace.isSome then s.setMe { g with ops := s0.me.ops }
  else s.setMe { g with ops := g.ops ++ [Op.base g.seq .mem .instant g.pc], seq := g.seq + 1 }

/-- The instruction is over: the place that it took retires in its turn. -/
def State.endPlace (s s0 : State) (pc : Dword) : State :=
  match s0.me.openPlace with
  | none => s.countInstant pc
  | some o => (s.setMe { s.me with
      ops := s0.me.ops.map fun x => if x.seq = o.seq then { x with done := true } else x }).settle s.cur

/-- An instruction that issues again leaves the place that it holds until it ends or blocks: one that traps gives it up. -/
def State.leavePlace (s : State) : State :=
  match s.me.openPlace with
  | none => s
  | some o => s.setMe { s.me with ops := s.me.ops.filter fun x => x.seq ≠ o.seq }

/-- LREC (R300). It counts on the mem counter while it blocks. -/
def execLrec (d a b : Operand) (s0 : State) : Host.Outcome State Fault Refusal :=
  s0.leavePlace.run fun s => do
    let g0 := s.me
    let us := [dst d, srcN a 2, srcN b 2]
    copyFaults g0
    let s ← (copyPre g0 us true (isS d)).check s
    gateAccess s.me
    let g := s.me
    let at' := g.wide a 2 g.first
    let _ ← s.checkAddrs g false false 1 8 [(g.first, at')]
    counterRoom g
    let s := s.setMe g.drain
    if s.me.ownWrites at' 144 || s.ownPending at' 144 || s.lineBusy g.core g.asid at' 144 then .error (.after (s.holdPlace s0))
    else do
      let (s, b0) ← s.bodyRead at' 16
      let n := bodyLength (leNat (b0.take 4)) - 16
      let (s, b1) ← s.bodyRead (at' + 16) n
      let body := b0 ++ b1
      match bodyFault body with
      | some w => trapW causeRecord w
      | none => do
        let base := g.wide b 2 g.first
        s.checkRecord g (layoutOf body base)
        match s.freeRecs g.team with
        | [] => do
          let s ← s.writeResult d [g.first] [0#32]
          .ok ((s.endPlace s0 g0.pc).finish g0 us)
        | f :: fs => do
          let frees := f :: fs
          let e := frees.getD (Config.freeNat s.free % frees.length) 0
          let gen := ((s.recEntry g.team e).gen + 1) % 256
          let s := { s.setRec g.team e ⟨true, gen, body, base⟩ with free := s.free + 1 }
          let s ← s.writeResult d [g.first] [BitVec.ofNat 32 (s.handleOf g.team e gen)]
          .ok ((s.endPlace s0 g0.pc).finish g0 us)

/-- LFREE (R300). -/
def execLfree (a : Operand) (s : State) : Host.Outcome State Fault Refusal :=
  s.run fun s => do
    let g0 := s.me
    copyFaults g0
    let s ← (copyPre g0 [src a] true true).check s
    let (s, h) ← readSource s s [g0.first] a
    let e ← s.checkHandle g0 (h.headD 0#32)
    .ok ((s.setRec g0.team e { s.recEntry g0.team e with valid := false }).finish g0 [src a])

/-- Two layouts have the same shape (R302). -/
def sameShape (x y : Layout) : Bool := decide (x.dims.map (·.1) = y.dims.map (·.1))
/-- Shapes that agree but for the outermost size, with the outermost size of the first equal to `n` (R302). -/
def gatherShape (x y : Layout) (n : Nat) : Bool :=
  decide (x.dims.length = y.dims.length) && decide ((x.dims.map (·.1)).dropLast = (y.dims.map (·.1)).dropLast) &&
    decide ((x.dims.map (·.1)).getLastD 0 = n)

/-- The checks of R302 on shapes and types. `fn` as in R299; `toSlot` for TOSLOT. -/
def shapeChecks (fn : Nat) (toSlot : Bool) (d x i : Layout) : Go Unit := do
  let trap3 := fun (c : Bool) => mustW c causeRecord 3
  let trap4 := fun (c : Bool) => mustW c causeRecord 4
  match fn with
  | 3 => do
    trap3 (decide (i.dims.length = 1))
    trap4 (decide (i.ty = 7 ∨ i.ty = 8 ∨ i.ty = 13))
    trap3 (gatherShape d x i.count)
    trap4 (decide (d.ty = x.ty))
  | 4 => do
    trap3 (decide (i.dims.length = 1))
    trap4 (decide (i.ty = 7 ∨ i.ty = 8 ∨ i.ty = 13))
    trap3 (gatherShape x d i.count)
    trap4 (decide (d.ty = x.ty))
  | 7 => do
    trap3 (sameShape d x)
    let wide := fun (t : Nat) => decide (t = 13 ∨ t = 14)
    let int := fun (t : Nat) => !tyMx t && (tyInt t).isSome
    trap4 ((!wide d.ty || int x.ty) && (!wide x.ty || int d.ty))
    if toSlot then do
      trap4 (!tyMx d.ty)
      trap3 (decide (d.count * tyBits d.ty = 131072))
    else .ok ()
  | 8 => .ok ()
  | _ =>
    if toSlot then trap3 (decide (x.count * tyBits x.ty = 131072))
    else do
      trap3 (sameShape d x)
      trap4 (decide (d.ty = x.ty) && (decide (fn ≠ 5) || decide (tyBits d.ty ≠ 4)))

/-- Whether the command and control words hold only bits that the member allows (R301). -/
def wordsOk (fn : Nat) (w2 w3 c0 : Nat) (last : Bool) : Bool :=
  let m := match fn with
    | 7 => 7 + 0x7E0
    | 2 => 0x7E0
    | 5 => 0x18
    | _ => 0
  decide (w3 &&& (2 ^ 32 - 1 - m) = 0) && decide (fn ≠ 7 ∨ w3 % 8 ≤ 4) && decide (c0 < 32) &&
    (match fn with
      | 3 => true
      | 4 => true
      | 6 => decide (w2 < 2 ^ 12)
      | 5 => last || decide (w2 = 0)
      | _ => decide (w2 = 0))

/-- A transfer member (R301 to R303). DESIGN CHOICE (log 94): a fault or a record that is pending from an earlier transfer
stops the group at this member before the checks of R45, since R309 has the group stop "at" the member and no step of R45
names it. -/
def State.transfer' (s : State) (fn : Nat) (d a b : Operand) : Go State := do
  let g0 := s.me
  let words := if fn = 5 then 2 else 1
  let us := [dstN d words, srcN a 4, srcN b 2]
  copyFaults g0
  let role := decide (g0.role = 0 ∨ g0.role = 1)
  let s ← (copyPre g0 us role (isReg d || isZero d)).check s
  gateAccess s.me
  let g := s.me
  let l := g.first
  let w := fun i => (g.wordAt a i l).toNat
  let c0 := (g.wordAt b 0 l).toNat
  let c1 := (g.wordAt b 1 l).toNat
  let toSlot := bitOf (w 3) 10 && decide (fn = 2 ∨ fn = 7)
  let first := bitOf (w 3) 3 && decide (fn = 5)
  let last := bitOf (w 3) 4 && decide (fn = 5)
  mustW (wordsOk fn (w 2) (w 3) c0 last) causeRecord 8
  let ring := if bitOf c0 3 then some (c0 % 8) else none
  must (match ring with
    | some r => decide (r < (s.team g.team).nring)
    | none => true) causeOperand
  let named := fun (i : Nat) (use : Bool) => if use then (do
      let e ← s.checkHandle g (BitVec.ofNat 32 (w i))
      .ok [e]) else (.ok [] : Go (List Nat))
  let hd ← named 0 (!(toSlot && decide (fn = 2)))
  let hs ← named 1 (decide (fn ≠ 8))
  let hi ← named 2 (decide (fn = 3 ∨ fn = 4))
  let rec' := fun (h : List Nat) => match h with
    | e :: _ => s.recEntry g.team e
    | [] => RecEntry.init
  let lay := fun (h : List Nat) => layoutOf (rec' h).body (rec' h).base
  let ld := if toSlot && decide (fn = 2) then lay hs else lay hd
  let ls := if fn = 8 then lay hd else lay hs
  if !toSlot then s.checkRecord g ld else .ok ()
  if fn ≠ 8 then s.checkRecord g ls else .ok ()
  if !hi.isEmpty then s.checkRecord g (lay hi) else .ok ()
  shapeChecks fn toSlot ld ls (lay hi)
  mustW (decide (fn ≠ 6) || (isScratch ld.base && decide (bitsOf ld.base 56 4 = 0))) causeRecord 10
  let teams := if fn = 6 then (List.range 12).filter fun t => bitOf (w 2) t else []
  if teams.any fun t => decide (s.clusterTeams g ≤ t) then trapVa causeScratch (some 0x80000002) ld.base else .ok ()
  mustW (decide (fn ≠ 5) || decide (first ≠ g.chain)) causeRecord 7
  let slot := if toSlot then (s.team g.team).slot (bitsOf (w 3) 5 5) else none
  must (!toSlot || slot.isSome) causeOperand
  let core := s.core g.core
  awaits (decide (core.shuttle.length < 32) && decide (g.outstanding .copy < 4095))
  let g := g.drain
  let after := (g.ops.filter fun o => !o.done && (o.isStore || s.tstOpen s.cur o g)).map (·.seq)
  let dst := match d with
    | .v n => Dst.v (g.wb + n.toNat) words
    | .s n => Dst.s n.toNat words
    | _ => Dst.none
  let t : Transfer := {
    g := s.cur, seq := g.seq, team := g.team, pc := g0.pc, fn := fn
    dstRec := if toSlot && decide (fn = 2) then rec' hs else rec' hd
    srcRec := if fn = 8 then rec' hd else rec' hs, idxRec := rec' hi, handles := hd ++ hs ++ hi
    word1 := BitVec.ofNat 32 (w 1), word2 := BitVec.ofNat 32 (w 2), mode := if fn = 7 then w 3 % 8 else 0
    slot := slot, after := after, started := false, paused := false, passed := none, given := [], pos := 0, moved := decide (fn = 6) && teams.isEmpty, fault := none
    status := 0, refused := 0, oob := 0, poisonVa := none, entry := none, buf := [], teams := teams, lines := []
    dst := dst, lanes := if isV d then g0.bundle else [l]
    ring := ring.map fun r => (r, c1), setFull := bitOf c0 4, first := first, last := last, reply := none, tag := none }
  let place := match slot with
    | some p => [(⟨s.cur, g.seq, g.team, .copy p, g0.pc⟩ : ArrEntry)]
    | none => []
  let s := s.setCore g.core { core with shuttle := core.shuttle ++ [t], arr := core.arr ++ place }
  let op : Op := { Op.base g.seq .copy .copy g0.pc with dst := dst, code := (encodeOperand d).toNat }
  .ok ((s.setMe { g with
    ops := g.ops ++ [op], seq := g.seq + 1
    chain := if fn = 5 then !last else g.chain }).finish g0 us)

/-- CPY (R302). -/
def execCpy (d a b : Operand) (s : State) : Host.Outcome State Fault Refusal := s.run fun s => s.transfer' 2 d a b
/-- CPYG (R304). -/
def execCpyg (d a b : Operand) (s : State) : Host.Outcome State Fault Refusal := s.run fun s => s.transfer' 3 d a b
/-- CPYS (R304). -/
def execCpys (d a b : Operand) (s : State) : Host.Outcome State Fault Refusal := s.run fun s => s.transfer' 4 d a b
/-- CPYC (R306). -/
def execCpyc (d a b : Operand) (s : State) : Host.Outcome State Fault Refusal := s.run fun s => s.transfer' 5 d a b
/-- CPYM (R305). -/
def execCpym (d a b : Operand) (s : State) : Host.Outcome State Fault Refusal := s.run fun s => s.transfer' 6 d a b
/-- CPYE (R302). -/
def execCpye (d a b : Operand) (s : State) : Host.Outcome State Fault Refusal := s.run fun s => s.transfer' 7 d a b
/-- CPYF (R302). -/
def execCpyf (d a b : Operand) (s : State) : Host.Outcome State Fault Refusal := s.run fun s => s.transfer' 8 d a b

-- Element access --------------------------------------------------------------------------------------------------

/-- The index vector of a position in visiting order: i0 fastest (R303). -/
def indexOf : List (Nat × Int) → Nat → List Nat
  | [], _ => []
  | d :: r, p => p % d.1 :: indexOf r (p / d.1)

/-- The element offset of an index vector (R295). -/
def Layout.offset (l : Layout) (is : List Nat) : Int :=
  (l.dims.zip is).foldl (fun e x => e + (x.2 : Int) * x.1.2) 0

/-- Where the bits of an element lie: byte address, low bit, count, place in the element (R295). -/
def Layout.spots (l : Layout) (e : Int) : List (Nat × Nat × Nat × Nat) :=
  let w := tyBits l.ty
  let at' := fun (o : Int) => ((l.base : Int) + o).toNat
  if w = 4 then
    if l.plane then
      let q := e / 128
      let j := (e % 128).toNat
      (List.range 4).map fun p => (at' (64 * q + (16 * p + j / 8 : Nat)), j % 8, 1, p)
    else [(at' (e / 2), 4 * (e % 2).toNat, 4, 0)]
  else (List.range (w / 8)).map fun i => (at' (e * (w / 8 : Nat) + (i : Nat)), 0, 8, 8 * i)

/-- Where the scale of an element lies (R294). -/
def Layout.scaleSpot (l : Layout) (e : Int) : List (Nat × Nat × Nat × Nat) :=
  [(((l.base : Int) + l.scoff + e / 32).toNat, 0, 8, 0)]

/-- The team whose scratch an address of the transfer names (R172). -/
def State.scratchTeam (s : State) (g : Group) (a : Nat) : Nat :=
  if bitsOf a 56 4 = 0 then g.team else s.clusterTeam g (bitsOf a 52 4)

/-- Reads the bits of one element or scale; they lie within one line. The error is cause, word and address; cause 0 where the
read waits at the home slice (R276, R423). -/
def State.readSpots (s : State) (g : Group) (xs : List (Nat × Nat × Nat × Nat)) :
    Except (Nat × Nat × Nat) (State × Nat) :=
  let value := fun (rd : Nat → Byte) =>
    xs.foldl (fun v x => v + bitsOf (rd x.1).toNat x.2.1 x.2.2.1 * 2 ^ x.2.2.2) 0
  match xs with
  | [] => .ok (s, 0)
  | x :: _ =>
    if isScratch x.1 then .ok (s, value fun a => s.scratchByte (s.scratchTeam g a) (bitsOf a 0 22))
    else if s.lineBusy g.core g.asid x.1 1 then .error (0, 0, x.1)
    else
      match s.readLine (some g.core) g.asid (x.1 / 128 * 128) 128 g.priv with
      | .error (c, w) => .error (c, w, x.1)
      | .ok (s, bs) => .ok (s, value fun a => bs.getD (a % 128) 0#8)

/-- The bytes that a write of element bits leaves, from the bytes before it. -/
def patchBits (old : Nat → Byte) (xs : List (Nat × Nat × Nat × Nat)) (v : Nat) : Tab Byte :=
  xs.foldl (fun (t : Tab Byte) x =>
    let m := (2 ^ x.2.2.1 - 1) * 2 ^ x.2.1
    let b := (match t.find? fun (e : Nat × Byte) => e.1 = x.1 with
      | some e => e.2
      | none => old x.1).toNat
    t.put x.1 (BitVec.ofNat 8 (b - (b &&& m) + bitsOf v x.2.2.2 x.2.2.1 * 2 ^ x.2.1))) []

/-- What a write of an element met. -/
inductive Wrote where
  | done (s : State)
  /-- the request waits for a commit or for a slice handoff (R276, R423) -/
  | wait
  /-- a line is held behind open regions, after its check (R287) -/
  | held (line : Nat)
  /-- no route is left (R337) -/
  | dead (s : State)
  | fault (cause word va : Nat)
  deriving Repr

/-- The pieces of one element or scale that leave through a port: the offset of the first byte, the bytes, and the bits of each
that are written. Whole bytes go as a run, and less than a byte as a bit-masked merge of its byte (R303). -/
def portPieces (xs : List (Nat × Nat × Nat × Nat)) (v : Nat) : List (Nat × Bytes × Nat) :=
  let first := (xs.headD (0, 0, 0, 0)).1
  if xs.all fun x => x.2.2.1 = 8 then [(0, leBytes xs.length v, 255)]
  else xs.map fun x => (x.1 - first, [BitVec.ofNat 8 (bitsOf v x.2.2.2 x.2.2.1 * 2 ^ x.2.1)], (2 ^ x.2.2.1 - 1) * 2 ^ x.2.1)

/-- OPERAND of copy data (R459): for bytes of a chain, byte 27 marks the chain and its first and last packet, and bytes 28 to 31
name the group. -/
def Transfer.marker (t : Transfer) (g : Group) (chain final : Bool) : Bytes :=
  if chain then leBytes 1 (b2n (decide (g.crcAt = 0)) + 2 * b2n (t.last && final) + 4) ++ leBytes 4 g.gidx else []

/-- What leaves through a port for one element or scale, at a place outside the device: copy data to a peer (R329), a chain's
in class 0 with its marker (R306, R459); or a write of host memory. `final` for the transfer's last position. DESIGN CHOICE:
one packet an element. -/
def State.sendSpots (s : State) (t : Transfer) (chain final : Bool) (o : Nat) (xs : List (Nat × Nat × Nat × Nat)) (v : Nat)
    (x : Xlate) : State :=
  let g := s.group t.g
  match x with
  | .peer d as va => (portPieces xs v).foldl (fun s e => s.toPeer { s.hardware g.core with by' := some (t.g, t.seq) } d as
      (va + o + e.1) ⟨0x0C, t.marker g chain final, e.2.1, e.2.2, if chain then some 0 else none⟩) s
  | .host a => (portPieces xs v).foldl (fun s e => s.toBus ⟨.copyWrite, a + o + e.1, e.2.1.length, e.2.1, e.2.2⟩) s
  | _ => s

/-- Whether no path carries a write from a core to a team's scratch: to its bank, or to its save area (R305, R337). -/
def State.scratchDead (s : State) (core tm off : Nat) : Bool :=
  let x := s.team tm
  if x.resident then !s.diePath (core / 96) (x.core / 96) else !s.homePath core (s.saveBase tm + 0x110000 + off)

/-- Writes the bits of one element or scale: a bit-masked merge at the home slice or bank (R303); the issuing core's L1 copy
follows (R182, R307). Peer and host take the bytes at their port (R307, R388). A write that no path can carry is dead
(R310, R337). `chain` where the bytes enter a chain; `final` at the transfer's last position. -/
def State.writeSpots (s : State) (t : Transfer) (g : Group) (chain final : Bool) (xs : List (Nat × Nat × Nat × Nat))
    (v : Nat) : Wrote :=
  match xs with
  | [] => .done s
  | x :: _ =>
    if isScratch x.1 then
      let new := patchBits (fun a => s.scratchByte (s.scratchTeam g a) (bitsOf a 0 22)) xs v
      if s.scratchDead g.core (s.scratchTeam g x.1) (bitsOf x.1 0 22) then .dead s
      else .done (new.foldl (fun s e => s.scratchWrite (s.scratchTeam g e.1) (bitsOf e.1 0 22) [e.2]) s)
    else
      let line := x.1 / 128
      let key := lineKey g.asid line
      let port := fun (s : State) (host : Bool) (e : Xlate) =>
        let s := s.setExt g.task
        let g := s.group t.g
        let s := s.setGroup t.g (g.holdPart (.copy chain) 0 0 line [] t.seq t.pc none false)
        (s.partTo t.g (g.newId) (.ext host)).sendSpots t chain final (x.1 % 128) xs v e
      let written := fun (l : Line) =>
        let new := patchBits (fun a => l.bytes.read 0#8 (a % 128)) xs v
        l.merge (new.map fun e => (e.1 % 128, some e.2)) 0
      let merged := fun (s : State) (l : Line) => (s.putLine g.asid line (written l)).refreshL1 g.core key (written l)
      if s.lineBusy g.core g.asid x.1 1 then .wait
      else if t.passed = some line then
        -- no further check (R287)
        if s.regionHolds g.asid line then .held line
        else
          let l := s.l2Line key
          if l.present then .done (merged s l)
          else match s.fetch g.asid line false false true 0 with
            | .line s l => .done (merged s l)
            | _ => .done (({ s.allocate key 0 (written s.freeLine) with free := s.free + 128 }).refreshL1 g.core key
                (written s.freeLine))
      else
        match s.fetch g.asid line true false g.priv 0 with
        | .fail c w => .fault c w x.1
        | .line s' l =>
          if !s.homePath g.core (128 * line) then .dead s
          else if s'.regionHolds g.asid line then .held line
          else .done (merged s' l)
        | .ext e =>
          let (s, live) := s.extLive g.core e
          match e with
          | .peer _ _ _ => if live then .done (port s false e) else .dead s
          | .host _ => if live then .done (port s true e) else .dead s
          | _ => .dead s

-- The movement of a transfer --------------------------------------------------------------------------------------

/-- The record whose index vectors a transfer visits: the source of CPYS, else the destination. -/
def Transfer.driver (t : Transfer) : Layout :=
  let r := if t.fn = 4 then t.srcRec else t.dstRec
  layoutOf r.body r.base
/-- Whether the elements are gathered before they land: operand slots and multicasts. -/
def Transfer.buffers (t : Transfer) : Bool := t.slot.isSome || decide (t.fn = 6)

/-- One byte folded into a CRC-32C (R306). -/
def crcByte (c : Word) (b : Byte) : Word :=
  (List.range 8).foldl (fun c _ => if c.toNat % 2 = 1 then (c >>> 1) ^^^ 0x82F63B78#32 else c >>> 1) (c ^^^ b.setWidth 32)

/-- What CPYE reads at one position: the exact value where an MX type is involved, else the converted code (R302). -/
def State.readVal (s : State) (g : Group) (l : Layout) (e : Int) : Except (Nat × Nat × Nat) (State × Val) :=
  match s.readSpots g (l.spots e) with
  | .error x => .error x
  | .ok (s, v) =>
    if tyMx l.ty then
      match s.readSpots g (l.scaleSpot e) with
      | .error x => .error x
      | .ok (s, k) => .ok (s, scaledVal k (tyVal l.ty v))
    else .ok (s, tyVal l.ty v)

/-- What a movement leads to: the next state with the transfer's new progress, a pause, or a fault that holds it. -/
inductive Moved where
  | go (s : State) (t : Transfer)
  /-- the movement waits; a write of this line has passed its check (R287) -/
  | pause (passed : Option Nat)
  | hold (cause word va : Nat)
  deriving Repr

/-- A movement after another, in one step: where the second cannot be made, neither is. -/
def Moved.then (m : Moved) (f : State → Transfer → Moved) : Moved :=
  match m with
  | .go s t => f s t
  | m => m

/-- Writes bits of the destination. A write that no path can carry fails the operation, once (R230, R310). -/
def State.landAt (s : State) (t : Transfer) (chain : Bool) (xs : List (Nat × Nat × Nat × Nat)) (v : Nat) : Moved :=
  let g := s.group t.g
  match s.writeSpots t g chain (decide (t.driver.count ≤ t.pos + 1)) xs v with
  | .wait => .pause t.passed
  | .held line => .pause (some line)
  | .fault c w va => .hold c w va
  | .dead s =>
    let s := if chain then s.setGroup t.g ((s.group t.g).chainFails t.seq 3) else s
    .go (s.failOps t.g [t.seq] 1) { t with status := Nat.max t.status 3 }
  | .done s' =>
    let t := if chain && t.last && decide (t.driver.count ≤ t.pos + 1) && decide (s'.net.nextTag ≠ s.net.nextTag) then
      { t with tag := some ((s'.net.nextTag + 2 ^ 32 - 1) % 2 ^ 32) } else t
    .go s' (if isScratch (xs.headD (0, 0, 0, 0)).1 then
      { t with lines := (t.lines ++ xs.map fun x => (s'.scratchTeam g x.1, bitsOf x.1 0 22 / 128)).eraseDups } else t)

/-- Folds the destination bytes of an element into the group's chain (R306), and notes where they go: 1 to this device, 2 to
a peer, 3 to more than one place. -/
def State.chainBytes (s : State) (t : Transfer) (l : Layout) (e : Int) (v : Nat) : State :=
  let g := s.group t.g
  let a := ((l.spots e).headD (0, 0, 0, 0)).1
  let here := if isScratch a then 1 else match s.translate g.asid a true false g.priv with
    | .peer _ _ _ => 2
    | _ => 1
  s.setGroup t.g { g with
    crc := (leBytes (tyBits l.ty / 8) v).foldl crcByte g.crc
    crcAt := if g.crcAt = 0 then here else if g.crcAt = here then here else 3 }

/-- Lands an element: in the buffer, by twice its position, or in memory; a chain takes its bytes (R303, R306). -/
def State.land (s : State) (t : Transfer) (l : Layout) (e : Int) (key v : Nat) : Moved :=
  if t.buffers then .go s { t with buf := t.buf.put (2 * key) v }
  else (s.landAt t (decide (t.fn = 5)) (l.spots e) v).then fun s t => .go (if t.fn = 5 then s.chainBytes t l e v else s) t

/-- Lands the scale of the block that begins at an element. -/
def State.landScale (s : State) (t : Transfer) (l : Layout) (e : Int) (key k : Nat) : Moved :=
  if t.buffers then .go s { t with buf := t.buf.put (2 * key + 1) k } else s.landAt t false (l.scaleSpot e) k

/-- A source that cannot be decoded: nothing is written there (R310). -/
def Transfer.spoilt (t : Transfer) (va : Nat) : Transfer :=
  { t with status := Nat.max t.status 4, poisonVa := match t.poisonVa with
    | some a => some a
    | none => some va }

/-- The outcome of a read of one element or scale: go on with its value, leave it out where it cannot be decoded, wait, or hold
(R276, R309, R310, R423). -/
def withRead {α : Type} (s : State) (t : Transfer) (r : Except (Nat × Nat × Nat) (State × α))
    (f : State → α → Moved) : Moved :=
  match r with
  | .ok (s, v) => f s v
  | .error (c, w, va) => if c = causePoison then .go s (t.spoilt va) else if c = 0 then .pause t.passed else .hold c w va

/-- The value of an index entry (R304). -/
def indexValue (ty v : Nat) : Int :=
  match ty with
  | 7 => sext 32 v
  | 8 => (v % 2 ^ 32 : Nat)
  | _ => sext 64 v

/-- The index entry of the slice in hand: read once for each slice (R304). -/
def State.indexEntry (s : State) (t : Transfer) (m : Nat) : Except (Nat × Nat × Nat) (State × Transfer × Int) :=
  match t.entry with
  | some (n, x) => if n = m then .ok (s, t, x) else go
  | none => go
where go :=
  let l := layoutOf t.idxRec.body t.idxRec.base
  match s.readSpots (s.group t.g) (l.spots (l.offset [m])) with
  | .error e => .error e
  | .ok (s, v) => .ok (s, { t with entry := some (m, indexValue l.ty v) }, indexValue l.ty v)

/-- Whether a position begins a block whose scale the destination has too. -/
def Layout.opens (l : Layout) (is : List Nat) : Bool := tyMx l.ty && decide (is.headD 0 % 32 = 0)

/-- Copies one element, after the scale of the block that it begins; either is left out where it cannot be decoded (R302,
R310). A slot receives no scale. -/
def State.copyOne (s : State) (t : Transfer) (src' : Layout) (from' : List Nat) (dst' : Layout) (to' : List Nat)
    (key : Nat) : Moved :=
  let g := s.group t.g
  let e := src'.offset from'
  (if dst'.opens to' && t.slot.isNone then withRead s t (s.readSpots g (src'.scaleSpot e)) fun s k =>
      s.landScale t dst' (dst'.offset to') key k
    else .go s t).then fun s t => withRead s t (s.readSpots g (src'.spots e)) fun s v =>
      s.land t dst' (dst'.offset to') key v

/-- Writes one element of a fill, after the scale 127 of the block that it begins (R302, R304). -/
def State.fillOne (s : State) (t : Transfer) (l : Layout) (is : List Nat) (v : Nat) : Moved :=
  (if l.opens is then s.landScale t l (l.offset is) t.pos 127 else .go s t).then fun s t =>
    s.land t l (l.offset is) t.pos v

/-- Reads the values of a block that CPYE converts to an MX block; those that cannot be decoded are left out (R310). -/
def State.blockVals (s : State) (t : Transfer) (l : Layout) :
    List (Nat × Int) → Except (Nat × Nat × Nat) (State × Transfer × List (Nat × Val))
  | [] => .ok (s, t, [])
  | (i, e) :: r =>
    match s.readVal (s.group t.g) l e with
    | .error (c, w, va) => if c = causePoison then State.blockVals s (t.spoilt va) l r else .error (c, w, va)
    | .ok (s, v) => (State.blockVals s t l r).map fun x => (x.1, x.2.1, (i, v) :: x.2.2)

/-- Forms the MX block that begins at the transfer's position (R130, R302): its codes stand in the buffer by their place,
and its scale at 32. DESIGN CHOICE (log 110): an element that cannot be decoded has no part in the scale. -/
def State.formBlock (s : State) (t : Transfer) (ld ls : Layout) : Except (Nat × Nat × Nat) (State × Transfer) :=
  match s.blockVals t ls ((List.range 32).map fun i => (i, ls.offset (indexOf ld.dims (t.pos + i)))) with
  | .error x => .error x
  | .ok (s, t, vs) =>
    let k := blockScale (tyEmax ld.ty) (vs.map (·.2))
    let codes := vs.map fun x => (x.1, tyRound ld.ty t.mode (x.2.scale (127 - (k : Int))))
    .ok (s, { t with buf := if vs.isEmpty then [] else codes ++ [(32, k)] })

/-- CPYE at one position of an MX destination: the block is formed at its first position, and its elements land one by
one, so that a transfer that is held resumes at the faulting one (R302, R309). -/
def State.convertBlock (s : State) (t : Transfer) (ld ls : Layout) (is : List Nat) : Moved :=
  match if is.headD 0 % 32 = 0 then s.formBlock t ld ls else .ok (s, t) with
  | .error (c, w, va) => if c = 0 then .pause t.passed else .hold c w va
  | .ok (s, t) =>
    (match if ld.opens is then t.buf.find? fun (x : Nat × Nat) => x.1 = 32 else none with
      | some x => s.landScale t ld (ld.offset is) t.pos x.2
      | none => .go s t).then fun s t =>
      match t.buf.find? fun (x : Nat × Nat) => x.1 = is.headD 0 % 32 with
      | some x => s.land t ld (ld.offset is) t.pos x.2
      | none => .go s t

/-- Moves one position (R302 to R306). -/
def State.moveOne (s : State) (t : Transfer) : Moved :=
  let g := s.group t.g
  let ld := layoutOf t.dstRec.body t.dstRec.base
  let ls := layoutOf t.srcRec.body t.srcRec.base
  let is := indexOf t.driver.dims t.pos
  let m := is.getLastD 0
  let inner := is.dropLast
  let missed := fun (t : Transfer) => if inner.all (· = 0) then { t with oob := t.oob + 1 } else t
  let stop := fun (t : Transfer) => { t with status := Nat.max t.status 5, oob := t.oob + 1, moved := true }
  match t.fn with
  | 8 => s.fillOne t ld is (t.word1.toNat % 2 ^ tyBits ld.ty)
  | 7 =>
    if tyMx ld.ty then s.convertBlock t ld ls is
    else if tyMx ls.ty then withRead s t (s.readVal g ls (ls.offset is)) fun s v =>
      s.land t ld (ld.offset is) t.pos (tyRound ld.ty t.mode v)
    else withRead s t (s.readSpots g (ls.spots (ls.offset is))) fun s v =>
      s.land t ld (ld.offset is) t.pos (tyConvert ld.ty ls.ty t.mode v)
  | 3 =>
    let n := (ls.dims.map (·.1)).getLastD 1
    withRead s t ((s.indexEntry t m).map fun x => (x.1, x.2)) fun s (t, x) =>
      if 0 ≤ x ∧ x < (n : Int) then s.copyOne t ls (inner ++ [x.toNat]) ld is t.pos
      else if ls.oobf then .go s (stop t)
      else s.fillOne (missed t) ld is (ls.fill % 2 ^ tyBits ls.ty)
  | 4 =>
    let n := (ld.dims.map (·.1)).getLastD 1
    withRead s t ((s.indexEntry t m).map fun x => (x.1, x.2)) fun s (t, x) =>
      if 0 ≤ x ∧ x < (n : Int) then s.copyOne t ls is ld (inner ++ [x.toNat]) t.pos
      else if ld.oobf then .go s (stop t)
      else .go s (missed t)
  | _ => s.copyOne t ls is ld is t.pos

/-- Moves up to `n` positions: the state, the transfer, whether it may go on. -/
def State.moveMany (s : State) (t : Transfer) : Nat → State × Transfer
  | 0 => (s, t)
  | n + 1 =>
    if t.moved then (s, t)
    else
      match s.moveOne t with
      | .pause p => (s, { t with passed := p })
      | .hold c w va => (s, { t with fault := some (c, w, va), paused := true })
      | .go s t =>
        let pos := if t.moved then t.pos else t.pos + 1
        State.moveMany s { t with passed := none, pos := pos, moved := t.moved || decide (t.driver.count ≤ pos) } n

/-- The byte addresses that a transfer writes, from the first to the last, by kind of memory: none for a slot. -/
def Transfer.target (t : Transfer) : Option (Bool × Int × Int) :=
  if t.slot.isSome then none
  else
    let l := layoutOf t.dstRec.body t.dstRec.base
    let b : Int := if isScratch l.base then (bitsOf l.base 0 22 : Nat) else (l.base : Nat)
    some (isScratch l.base, b + l.range.1, b + l.range.2)

/-- Whether two transfers may write the same byte (R312). -/
def Transfer.overlaps (a b : Transfer) : Bool :=
  match a.target, b.target with
  | some (k, x0, x1), some (j, y0, y1) => decide (k = j) && decide (x0 ≤ y1) && decide (y0 ≤ x1)
  | _, _ => false

/-- Whether every write of a transfer has been made: a multicast's deliveries too. -/
def Transfer.landed (t : Transfer) : Bool := t.moved && t.teams.isEmpty

/-- Whether a transfer waits for an earlier one of its group before it moves: one that may write the same byte (R312), an
earlier part of its chain, and, with FIRST, a chain that has not completed (R306). -/
def Transfer.waitsFor (t x : Transfer) : Bool :=
  !x.landed && x.overlaps t || (decide (t.fn = 5 ∧ x.fn = 5) && (t.first || !x.moved))

/-- Whether transfer `i` of a core may move elements now (R291, R303, R306, R312). One counts as in progress from its start
until it completes; DEDUCED from R311: not while it is held, nor until it goes on. -/
def State.mayMove (s : State) (c i : Nat) : Bool :=
  let xs := (s.core c).shuttle
  match xs[i]? with
  | none => false
  | some t =>
    let before := (xs.take i).filter fun x => x.g = t.g
    let g := s.group t.g
    !t.moved && t.fault.isNone && (before.all fun x => x.started) &&
      (t.started && !t.paused || decide ((xs.filter fun x => x.started && !x.paused).length < 8)) &&
      (t.after.all fun q => !(g.ops.any fun o => o.seq = q && !o.done)) &&
      before.all fun x => !t.waitsFor x

/-- Replaces transfer `i` of a core. -/
def State.setTransfer (s : State) (c i : Nat) (t : Transfer) : State :=
  let core := s.core c
  s.setCore c { core with shuttle := setAt core.shuttle i t }

/-- An index entry ahead of a transfer, as it reads now (R304): no value where it cannot be read here without an effect. -/
def State.indexAhead (s : State) (t : Transfer) (m : Nat) : Option Int :=
  match s.indexEntry t m with
  | .ok (s', _, x) => if s'.free = s.free then some x else none
  | .error _ => none

/-- Where the write of a position ahead lands: no answer where its index cannot be read here, and no place for an index out of
range (R304). -/
def State.spotsAhead (s : State) (t : Transfer) (p : Nat) : Option (List (Nat × Nat × Nat × Nat)) :=
  let ld := layoutOf t.dstRec.body t.dstRec.base
  let at' := fun (is : List Nat) => ld.spots (ld.offset is) ++ (if tyMx ld.ty then ld.scaleSpot (ld.offset is) else [])
  let is := indexOf t.driver.dims p
  if t.fn ≠ 4 then some (at' is)
  else (s.indexAhead t (is.getLastD 0)).map fun x =>
    if 0 ≤ x ∧ x < (((ld.dims.map (·.1)).getLastD 1 : Nat) : Int) then at' (is.dropLast ++ [x.toNat]) else []

/-- Whether an index out of range stops a transfer at a position ahead (R304). -/
def State.stopsAhead (s : State) (t : Transfer) (p : Nat) : Bool :=
  let ix := fun (l : Layout) => l.oobf && (match s.indexAhead t ((indexOf t.driver.dims p).getLastD 0) with
    | some x => !decide (0 ≤ x ∧ x < (((l.dims.map (·.1)).getLastD 1 : Nat) : Int))
    | none => false)
  match t.fn with
  | 3 => ix (layoutOf t.srcRec.body t.srcRec.base)
  | 4 => ix (layoutOf t.dstRec.body t.dstRec.base)
  | _ => false

/-- Whether a position that a transfer has yet to visit may write a scratch line (R304, R307). -/
def State.stillWrites (s : State) (t : Transfer) (l : Nat × Nat) : Bool :=
  let g := s.group t.g
  let left := (List.range (t.driver.count - t.pos)).map (t.pos + ·)
  !t.moved && (left.takeWhile fun p => !s.stopsAhead t p).any fun p => match s.spotsAhead t p with
    | none => true
    | some xs => xs.any fun x => decide ((s.scratchTeam g x.1, bitsOf x.1 0 22 / 128) = l)

/-- With SETFULL, the lines that have had their last write become full with it (R307). -/
def State.fillLines (s : State) (t : Transfer) : State × Transfer :=
  if !t.setFull then (s, t)
  else
    let (open', now) := t.lines.partition fun l => s.stillWrites t l
    (now.foldl (fun s l => s.setFullBit l.1 l.2 true) s, { t with lines := open' })

/-- TRANSFER_START (R291, R303 to R306): a transfer starts, or goes on, and moves up to `n` elements. -/
def execTransferStart (c i n : Nat) (s : State) : Host.Outcome State Fault Refusal :=
  if !s.mayMove c i then .next s
  else
    match (s.core c).shuttle[i]? with
    | none => .next s
    | some t =>
      let s := if t.first && !t.started then
          s.setGroup t.g { s.group t.g with crc := 0xFFFFFFFF#32, crcAt := 0, chainSeq := t.seq, chainBad := 0 } else s
      let (s, t) := s.moveMany { t with started := true, paused := false } n
      let (s, t) := s.fillLines t
      .next (s.setTransfer c i t)

/-- The transfers of a group that has ended (R311): those not in progress and those held are abandoned, with their
operations and their places in the array queue (R152, R302). -/
def State.endTransfers (s : State) (k : Nat) : State :=
  let tk := (s.group k).team
  let tm := s.team tk
  let gone := fun (t : Transfer) => decide (t.g = k) && (!t.started || t.paused)
  let core := s.core tm.core
  let seqs := ((core.shuttle ++ tm.savedCopies).filter gone).map (·.seq)
  let place := fun (e : ArrEntry) => decide (e.g = k) && e.kind.isCopy && seqs.contains e.seq
  let s := s.setCore tm.core { core with shuttle := core.shuttle.filter fun t => !gone t }
  let s := s.setTeam tk { tm with savedCopies := tm.savedCopies.filter fun t => !gone t }
  let s := (core.arr.filter place).foldl (fun s e => s.abandonFill tm.core e) s
  let s := (tm.savedArr.filter place).foldl (fun s e => s.abandonSaved tk e) s
  let g := s.group k
  (s.setGroup k { g with ops := g.ops.filter fun o => !(decide (o.cls = .copy) && seqs.contains o.seq) }).settle k

/-- TRANSFER_FAULT_HOLD (R309, R311): the fault of a transfer becomes its operation's; a transfer whose group has ended is
abandoned. -/
def execTransferFaultHold (c i : Nat) (s : State) : Host.Outcome State Fault Refusal :=
  match (s.core c).shuttle[i]? with
  | none => .next s
  | some t =>
    match t.fault with
    | none => .next s
    | some (cause, w, va) =>
      let g := s.group t.g
      if g.sched = .done ∨ g.sched = .killed then .next (s.endTransfers t.g)
      else .next (s.setGroup t.g (g.setOp t.seq fun o => { o with fault := some (cause, w, 0xFF, va) }))

/-- Where one buffered element or scale of a multicast lands: byte address, low bit, count, place. -/
def Transfer.spotsOf (t : Transfer) (key : Nat) : List (Nat × Nat × Nat × Nat) :=
  let l := layoutOf t.dstRec.body t.dstRec.base
  let off := l.offset (indexOf l.dims (key / 2))
  if key % 2 = 0 then l.spots off else l.scaleSpot off
/-- The scratch lines that buffered elements land in. -/
def Transfer.linesOf (t : Transfer) (xs : Tab Nat) : List Nat :=
  (xs.flatMap fun e => (t.spotsOf e.1).map fun y => bitsOf y.1 0 22 / 128).eraseDups

/-- Elements that one step of a delivery lands. -/
def deliverStep : Nat := 32

/-- Lands buffered elements in the scratch of a team (R305). -/
def State.deliverTo (s : State) (t : Transfer) (tm : Nat) (xs : Tab Nat) : State :=
  xs.foldl (fun s e =>
    let new := patchBits (fun a => s.scratchByte tm (bitsOf a 0 22)) (t.spotsOf e.1) e.2
    new.foldl (fun s b => s.scratchWrite tm (bitsOf b.1 0 22) [b.2]) s) s

/-- Whether a scratch line of a team lies in a bank that BANKCFG has marked changing (R185, R207). -/
def State.lineChanging (s : State) (tm line : Nat) : Bool :=
  let x := s.team tm
  let core := s.core x.core
  match core.change with
  | some (_, _, out) =>
    let sb := (List.range 24).filter fun j => core.bankMode j = 1 || bitOf out j
    x.resident && bitOf out (sb.getD (line % Nat.max 1 sb.length) 0)
  | none => false

/-- MULTICAST_DELIVERY (R305): a team takes the next part of the data, or refuses what is left of it, which adds 1 to COUNT, or
no path carries it (R310). With SETFULL, a line becomes full with its last write (R307). -/
def execMulticastDelivery (c i n : Nat) (s : State) : Host.Outcome State Fault Refusal :=
  match (s.core c).shuttle[i]? with
  | none => .next s
  | some t =>
    if !(t.moved && t.teams.contains n) then .next s
    else
      let g := s.group t.g
      let tm := s.clusterTeam g n
      let at' := t.given.read 0 n
      let left := t.buf.drop at'
      let others := t.teams.filter (· ≠ n)
      let full := fun (s : State) (ls : List Nat) => if t.setFull then ls.foldl (fun s l => s.setFullBit tm l true) s else s
      if (s.team tm).done || (t.linesOf left).any fun l => s.lineChanging tm l then
        let s := full s (if (s.team tm).done then [] else t.linesOf (t.buf.take at'))
        let s := (s.setGroup t.g { g with fence := fenceAdd g.fence 2 }).fenceToFrame t.g 4 1
        .next (s.setTransfer c i { t with teams := others, refused := t.refused + 2 ^ n, status := Nat.max t.status 2 })
      else if s.scratchDead g.core tm 0 then
        let s := full s (t.linesOf (t.buf.take at'))
        .next ((s.failOps t.g [t.seq] 1).setTransfer c i { t with teams := others, status := Nat.max t.status 3 })
      else
        let now := left.take deliverStep
        let rest := left.drop deliverStep
        let s := full (s.deliverTo t tm now) ((t.linesOf now).filter fun l => !(t.linesOf rest).contains l)
        .next (s.setTransfer c i (if rest.isEmpty then { t with teams := others }
          else { t with given := t.given.write 0 n (at' + deliverStep) }))

/-- The final value of a chain comes back under the tag of its last packet (R459). -/
def State.chainReply (s : State) (tag : Nat) (v : Word) : State :=
  let note := fun (ts : List Transfer) => ts.map fun (t : Transfer) =>
    if t.tag = some tag ∧ t.reply.isNone then { t with reply := some v } else t
  { s with
    cores := s.cores.map fun e => (e.1, { e.2 with shuttle := note e.2.shuttle })
    teams := s.teams.map fun e => (e.1, { e.2 with savedCopies := note e.2.savedCopies }) }

/-- CRC_REPLY (R306, R459): the peer's port returns a chain's final value. -/
def execCrcReply (c i : Nat) (v : Word) (s : State) : Host.Outcome State Fault Refusal :=
  match (s.core c).shuttle[i]? with
  | none => .next s
  | some t =>
    if t.last && t.moved && t.reply.isNone && decide ((s.group t.g).crcAt = 2) then
      .next (s.setTransfer c i { t with reply := some v })
    else .next s

-- Completion ------------------------------------------------------------------------------------------------------

/-- Writes result words to a group's registers, or to its frame where the group has been written back or the register
line is not in the register cache (R307): none while the frame faults. -/
def State.writeDst (s : State) (k : Nat) (d : Dst) (lanes : List Nat) (ws : List Word) : Option State :=
  let g := s.group k
  let there := fun (s : State) (o : Nat) (w : Word) =>
    match s.vwrite (some g.core) g.asid (s.frameBase g + o) (leBytes 4 w.toNat) true with
    | .ok s => some s
    | .error _ => none
  match d with
  | .s r _ =>
    let s := s.setGroup k ((ws.zipIdx).foldl (fun g e => g.setSreg (r + e.2) e.1) g)
    if g.sched = .active then some s
    else (ws.zipIdx).foldl (fun s e => s.bind fun s => there s (0x260 + 4 * (r + e.2)) e.1) (some s)
  | .v r _ =>
    (ws.zipIdx).foldl (fun s e => s.bind fun s =>
      let g := s.group k
      let q := r + e.2
      let held := decide (g.sched = .active) && (decide (lanes.length = 32) || !g.absent.contains q)
      let s := s.setGroup k (if held then g.writeLanes q lanes (lanes.map fun _ => e.1)
        else lanes.foldl (fun g l => g.setVreg q l e.1) g)
      if held then some s
      else lanes.foldl (fun s l => s.bind fun s => there s (0x800 + 128 * q + 4 * l) e.1) (some s)) (some s)
  | _ => some s

/-- The completion word (R308). -/
def Transfer.word (t : Transfer) : Nat := t.status + 2 ^ 4 * t.refused + 2 ^ 16 * Nat.min t.oob 65535

/-- The record that a failed transfer gives its group (R310): cause, word, address. -/
def Transfer.failure (t : Transfer) : Option (Nat × Nat × Nat) :=
  if t.status = 5 then some (causeRecord, 9, 0)
  else
    match t.poisonVa with
    | some a => some (causePoison, t.word, a)
    | none => if t.refused ≠ 0 ∨ t.status = 2 then some (causeLanding, t.word, 0) else none

/-- Whether a transfer is ready to complete: its data has moved, every delivery has landed or been refused, a chain's
reply is back unless a write of the chain has failed, and a slot's turn has come (R149, R302, R307, R459). -/
def State.mayComplete (s : State) (c i : Nat) : Bool :=
  let core := s.core c
  match core.shuttle[i]? with
  | none => false
  | some t =>
    let reply := !t.last || decide ((s.group t.g).crcAt ≠ 2) || t.reply.isSome || decide ((s.group t.g).chainBad ≠ 0)
    let turn := match core.arr.findIdx? fun e => decide (e.g = t.g ∧ e.seq = t.seq) && e.kind.isCopy with
      | none => true
      | some j => match core.arr[j]? with
        | some e => !core.arrayOff && (core.arr.take j).all fun x => !core.conflict x e
        | none => true
    t.moved && t.teams.isEmpty && reply && turn

/-- The bytes of a slot that a copy fills: the elements in visiting order (R302). An element that was not written leaves
its bits. -/
def Transfer.slotData (t : Transfer) (old : Tab Byte) : Tab Byte :=
  let w := tyBits (layoutOf t.dstRec.body 0).ty
  t.buf.foldl (fun d e =>
    if e.1 % 2 = 1 then d
    else
      let p := e.1 / 2
      if w = 4 then
        let b := (d.read 0#8 (p / 2)).toNat
        let lo := 4 * (p % 2)
        d.write 0#8 (p / 2) (BitVec.ofNat 8 (b - bitsOf b lo 4 * 2 ^ lo + e.2 % 16 * 2 ^ lo))
      else Tab.writeFrom 0#8 d (p * (w / 8)) (leBytes (w / 8) e.2)) old

/-- Whether the final value of a transfer's chain is not specified: its bytes went to more than one place, or a peer gave no
value for them (R306, R461). -/
def State.chainOpen (s : State) (t : Transfer) : Bool :=
  let g := s.group t.g
  decide (t.fn = 5) && (decide (g.crcAt = 3) || (decide (g.crcAt = 2) && t.reply.isNone))

/-- The result words of a transfer: the completion word, and a chain's final value; LAST takes the status of a failed write of
its chain (R306, R308, R459). -/
def State.transferWords (s : State) (t : Transfer) : Transfer × List Word :=
  if t.fn = 5 then
    let g := s.group t.g
    let t := if t.last then { t with status := Nat.max t.status g.chainBad } else t
    let fin := if s.chainOpen t then Config.freeWord s.free
      else match t.reply with
        | some v => v
        | none => g.crc ^^^ 0xFFFFFFFF#32
    let t := if t.last ∧ fin ≠ t.word2 then { t with status := Nat.max t.status 1 } else t
    (t, [BitVec.ofNat 32 t.word, if t.last then fin else 0#32])
  else (t, [BitVec.ofNat 32 t.word])

/-- TRANSFER_COMPLETE (R307): the result, the ring, the counter, in this order. A transfer whose result cannot be written
because its frame faults waits. -/
def execTransferComplete (c i : Nat) (s0 : State) : Host.Outcome State Fault Refusal :=
  let s := s0
  let core := s.core c
  match core.shuttle[i]? with
  | none => .next s
  | some t =>
    if !s.mayComplete c i then .next s
    else
      let (t, ws) := s.transferWords t
      let s := if s.chainOpen t then { s with free := s.free + 1 } else s
      let core := s.core c
      let core := match t.slot with
        | some p => core.setSlot p { core.slot p with data := t.slotData (core.slot p).data }
        | none => core
      let core := { core with
        shuttle := core.shuttle.take i ++ core.shuttle.drop (i + 1)
        arr := core.arr.filter fun e => !(decide (e.g = t.g ∧ e.seq = t.seq) && e.kind.isCopy) }
      let s := s.setCore c core
      let g := s.group t.g
      let ended := decide (g.sched = .done ∨ g.sched = .killed)
      match if ended then some s else s.writeDst t.g t.dst t.lanes ws with
      | none => .next s0
      | some s =>
        let s := match t.ring with
          | some (r, j) =>
            let tm := s.team t.team
            let key := 32 * r + j % Nat.max 1 (tm.ringSize.getD r 1)
            s.setTeam t.team { tm with ringF := tm.ringF.write false key (!tm.ringF.read false key) }
          | none => s
        let g := s.group t.g
        let g := match t.failure with
          | some (cause, w, va) =>
            let ext := (s.task g.task).ext
            let r : FaultRec := ⟨cause, gradeExt ext 3, 2, 0xFF, false, ext, w, g.gidx, g.taskId, t.pc.toNat, va⟩
            if ended then g else { g with imprec := g.imprec ++ [(Cls.copy, r)] }
          | none => g
        .next ((s.setGroup t.g (g.setOp t.seq fun o => { o with
          done := true, failed := t.failure.isSome || decide (t.status = 3) })).settle t.g)

end Sys2Proof.Machine
end

