-- ==== Sys2Proof/Machine/Channel.lean ====
section
/-! DEFINITION. Queues, channels and the CHAN instructions (12_channels.md R314 to R327), and the words of the link
registers (R343). -/
namespace Sys2Proof.Machine

-- Queues ----------------------------------------------------------------------------------------------------------

/-- Whether a push to a queue-table entry is on its way (R324). -/
def State.pushInFlight (s : State) (core q : Nat) : Bool :=
  s.groups.any fun e => e.2.ops.any fun o => !o.done && (match o.kind with
    | .push id _ _ => s.qidHere id && decide (qidCore id = core) && decide (qidIndex id = q)
    | _ => match o.dst with
      | .chan _ id => s.qidHere id && decide (qidCore id = core) && decide (qidIndex id = q)
      | _ => false)

/-- Whether a queue-table entry and its bank space are in use (R314, R324). -/
def State.queueBusy (s : State) (core q : Nat) : Bool := (s.queue core q).live || s.pushInFlight core q

/-- Free places of 2^(L+2) bytes in the FIFO banks of a core, as bank and base (R314). -/
def State.queueSpace (s : State) (core l : Nat) : List (Nat × Nat) :=
  let size := 2 ^ (l + 2)
  let used := (List.range 64).filter (s.queueBusy core)
  (s.core core).banksIn 2 |>.flatMap fun b => ((List.range (131072 / size)).map fun i => (b, i * size)).filter fun x =>
    used.all fun q =>
      let y := s.queue core q
      decide (y.bank ≠ b) || decide (y.base + 2 ^ (y.logcap + 2) ≤ x.2) || decide (x.2 + size ≤ y.base)

/-- The id of a queue of this device (R314). -/
def State.qidOf (s : State) (core q gen : Nat) : Nat := q + 2 ^ 6 * core + 2 ^ 16 * gen + 2 ^ 32 * (s.sysv 0x502 % 65536)

/-- Frees a queue (R319, R324): its entries are discarded and the bundles that wait on it issue again, to trap. -/
def State.freeQueue (s : State) (core q : Nat) : State :=
  let x := s.queue core q
  let s := s.setQueue core q { x with live := false, entries := [], waiters := [], taken := 0 }
  { s with groups := s.groups.map fun e => if x.waiters.contains e.1 then (e.1, { e.2 with blocked := false }) else e }

/-- The checks of a CHAN member (R322). -/
def chanPre (g : Group) (uses : List Use) (operandOk : Bool) : Pre :=
  { controlPre g uses with inRegion := false, operandOk := operandOk }

-- CHBIND, CHFREE, CHSTAT ------------------------------------------------------------------------------------------

/-- A failed CHBIND (R323). -/
def bindFailure (n : Nat) : Nat := 2 ^ 63 + n

/-- CHBIND NEW: the queue and the id (R323). Which free entry and place it takes is a free value. -/
def State.bindNew (s : State) (c l : Nat) : State × Nat :=
  let g := s.me
  let qs := (List.range 64).filter fun q => !s.queueBusy g.core q
  match qs, s.queueSpace g.core l with
  | q0 :: _, p0 :: _ =>
    let q := qs.getD (Config.freeNat s.free % qs.length) q0
    let ps := s.queueSpace g.core l
    let p := ps.getD (Config.freeNat (s.free + 1) % ps.length) p0
    let gen := ((s.queue g.core q).gen + 1) % 65536
    let id := s.qidOf g.core q gen
    let s := s.setQueue g.core q ⟨true, gen, g.team, g.asid, l, p.1, p.2, [], [], 0⟩
    ({ s.setMe { s.me with chans := g.chans.put c (some ⟨id, true, 0, l⟩) } with free := s.free + 2 }, id)
  | _, _ => (s, bindFailure 1)

/-- CHBIND JOIN (R323, R341). What a peer device answers, L of its queue too, is a free value. -/
def State.bindJoin (s : State) (c id : Nat) : State × Nat :=
  let g := s.me
  let bind := fun (s : State) (pop : Bool) (l : Nat) => s.setMe { s.me with chans := s.me.chans.put c (some ⟨id, pop, 0, l⟩) }
  if s.qidHere id then
    let q := s.queue (qidCore id) (qidIndex id)
    if !s.diePath (g.core / 96) (qidCore id / 96) then (s, bindFailure 4)
    else if bitOf id 15 || decide (2 ^ 48 ≤ id) || !s.qidLive id || decide (q.asid ≠ g.asid) then (s, bindFailure 2)
    else (bind s (decide (q.team = g.team)) q.logcap, id)
  else
    let (s, live) := s.peerLive (qidDev id)
    if !live then (s, bindFailure 4)
    else
      let ok := Config.freeBit s.free
      let l := Config.freeNat (s.free + 1) % 16
      let s := { s with free := s.free + 2 }.toPeer (s.hardware g.core) (qidDev id) g.asid id ⟨0x09, [], [], 255, none⟩
      if ok && !bitOf id 15 && decide (id < 2 ^ 48) then (bind s false l, id) else (s, bindFailure 2)

/-- CHBIND (R323). -/
def execChbind (d a b : Operand) (s : State) : Host.Outcome State Fault Refusal :=
  s.run fun s => do
    let g0 := s.me
    let us := [dstN d 2, srcN a 2, src b]
    let s ← (chanPre g0 us (!isV d && (isS a || isZero a) && !isVec g0 b)).check s
    let (s, cw) ← scalarRead s b
    let x := cw.toNat
    let join := bitOf x 3
    let l := bitsOf x 4 4
    must (decide (x < 256) && (join || (decide (5 ≤ l) && isZero a)) && (!join || !isZero a)) causeOperand
    let id := s.me.scalar64 a
    let (s, r) := if (s.me.chans.read none (x % 8)).isSome then (s, bindFailure 3)
      else if join then s.bindJoin (x % 8) id else s.bindNew (x % 8) l
    .ok ((s.setMe (s.me.writeWide d 2 (g0.bundle.take 1) [r])).finish g0 us)

/-- CHFREE (R324). -/
def execChfree (q : Bool) (c : BitVec 3) (s : State) : Host.Outcome State Fault Refusal :=
  s.run fun s => do
    let g0 := s.me
    let own := s.me.chans.read none c.toNat
    -- the breach of R321 is found at step 6, before a region's at step 7
    let s ← { chanPre g0 [] true with inRegion := true }.check s
    mustW (!q || own.all (·.pop)) causeChannel 2
    mustW (decide (g0.reg.nest = 0)) causeRegion 2
    match own with
    | none => .ok (s.finish g0 [])
    | some b => do
      let s := if q && s.qidLive b.qid then s.freeQueue (qidCore b.qid) (qidIndex b.qid) else s
      .ok ((s.setMe { s.me with chans := s.me.chans.erase c.toNat }).finish g0 [])

/-- The word of CHSTAT (R325). Whether a peer's queue has been freed is a free value. -/
def State.chstatWord (s : State) (g : Group) (b : Binding) : Nat :=
  let here := s.qidHere b.qid
  let q := s.queue (qidCore b.qid) (qidIndex b.qid)
  let live := here && s.qidLive b.qid
  let stale := if here then !live else Config.freeBit b.qid
  let cap := b.logcap % 16
  (if live then (q.entries.length - q.taken) % 65536 + 2 ^ 16 * (2 ^ q.logcap - q.entries.length - s.reserved b.qid) else 0) + 2 ^ 32 + 2 ^ 33 * b2n b.pop +
    2 ^ 34 * b2n (here && decide (qidCore b.qid ≠ g.core)) + 2 ^ 35 * b2n (!here) + 2 ^ 36 * b2n stale + 2 ^ 40 * cap +
    2 ^ 48 * b.failed

/-- CHSTAT (R325). -/
def execChstat (d : Operand) (c : BitVec 3) (s : State) : Host.Outcome State Fault Refusal :=
  s.run fun s => do
    let g0 := s.me
    let us := [dstN d 2]
    let s ← (chanPre g0 us (!isV d)).check s
    let w := match s.me.chans.read none c.toNat with
      | none => 0
      | some b => s.chstatWord g0 b
    .ok ((s.setMe (s.me.writeWide d 2 (g0.bundle.take 1) [w])).finish g0 us)

/-- SEND (R326). -/
def execSend (a : Operand) (k : BitVec 2) (c : BitVec 3) (s : State) : Host.Outcome State Fault Refusal :=
  s.run fun s => do
    let g0 := s.me
    let us := [dst (.chan c), src a]
    let vec := execVec g0 (.chan c) [a]
    let s ← { chanPre g0 us true with vec := vec, privOk := decide (k ≠ 3#2) || g0.priv }.check s
    let lanes := g0.execLanes vec
    let (s, xs) ← readSource s s lanes a
    let s ← s.push c.toNat xs k.toNat
    .ok (s.finish g0 us)

-- Link registers --------------------------------------------------------------------------------------------------

/-- A Mirmar link. -/
def State.link (s : State) (n : Nat) : Link := s.net.links.read Link.init n
/-- Replaces a Mirmar link. -/
def State.setLink (s : State) (n : Nat) (l : Link) : State :=
  { s with net := { s.net with links := s.net.links.put n l } }
/-- MLINK_n (R343). -/
def State.mlinkWord (s : State) (n : Nat) : Nat :=
  let l := s.link n
  l.st + 2 ^ 3 * b2n l.en + 2 ^ 4 * (l.lanes % 256) + 2 ^ 12 * Nat.min l.retries 65535 + 2 ^ 28 * (l.peer % 65536) +
    2 ^ 44 * (l.peerLink % 32) + 2 ^ 49 * b2n l.slow
/-- BRIDGE_i (R343). -/
def State.bridgeWord (s : State) (i : Nat) : Nat := s.bridgeLive i + 2 ^ 32 * (s.net.bridgeHalf.read 0 i % 2 ^ 32)

/-- LSTAT (R327). -/
def execLstat (d a : Operand) (s : State) : Host.Outcome State Fault Refusal :=
  s.run fun s => do
    let g0 := s.me
    let us := [dstN d 2, src a]
    let s ← (chanPre g0 us (!isV d && !isVec g0 a)).check s
    let (s, x) ← scalarRead s a
    let n := x.toNat
    must (decide (n < 18) || decide (0x100 ≤ n ∧ n < 0x103)) causeOperand
    let w := if n < 18 then s.mlinkWord n else s.bridgeWord (n - 0x100)
    .ok ((s.setMe (s.me.writeWide d 2 (g0.bundle.take 1) [w])).finish g0 us)

-- Steps -----------------------------------------------------------------------------------------------------------

/-- CHANNEL_POP_UNBLOCK (R316): the bundle that waits longest for a queue issues again. -/
def execChannelPopUnblock (k : Nat) (s : State) : Host.Outcome State Fault Refusal :=
  if s.cores.any fun c => c.2.queues.any fun q => decide (q.2.waiters.head? = some k) && !q.2.entries.isEmpty then
    .next (s.setGroup k { s.group k with blocked := false })
  else .next s

/-- REMOTE_PUSH_ARRIVAL (R317 to R319, R341): the entries are appended, or the push is answered full, refused or found
dead; a push to a peer leaves through its Mirmar port. -/
def execRemotePushArrival (k seq : Nat) (s : State) : Host.Outcome State Fault Refusal :=
  let g := s.group k
  match g.op seq with
  | none => .next s
  | some o =>
    match o.kind with
    | .push qid xs cls =>
      if o.done || !o.accs.isEmpty || g.pushBefore o.pushPlace qid then .next s
      else if !s.qidHere qid then
        let (s, live) := s.peerLive (qidDev qid)
        if !live then .next ((s.pushFailed k o 0).settle k)
        else
          let bs := xs.flatMap fun x => leBytes 4 x.toNat
          let s := s.setExt g.task
          let a : Acc := ⟨0, qid, .ext false, [], [], [], []⟩
          let s := s.setGroup k ((s.group k).setOp seq fun o => { o with accs := [a] })
          .next (s.toPeer ⟨g.core, o.slack, some (k, seq)⟩ (qidDev qid) g.asid qid ⟨0x05, [], bs, 255, some cls⟩)
      else if !s.diePath (g.core / 96) (qidCore qid / 96) then .next ((s.pushFailed k o 0).settle k)
      else if !s.qidLive qid then .next ((s.pushFailed k o 2).settle k)
      else
        let q := s.queue (qidCore qid) (qidIndex qid)
        if 2 ^ q.logcap < q.entries.length + s.reserved qid + xs.length then
          let a : Acc := ⟨0, qid, .held, [], [], [], []⟩
          .next (s.setGroup k (g.setOp seq fun o => { o with accs := [a] }))
        else
          let s := s.setQueue (qidCore qid) (qidIndex qid) { q with entries := q.entries ++ xs.map fun x => (x, false) }
          .next ((s.setGroup k ((s.group k).setOp seq fun o => { o with done := true })).settle k)
    | _ => .next s

/-- PUSH_RESEND (R318): a push that was answered full is sent again. -/
def execPushResend (k seq : Nat) (s : State) : Host.Outcome State Fault Refusal :=
  let g := s.group k
  match g.op seq with
  | none => .next s
  | some o =>
    if decide (o.cls = .msg) && o.accs.any fun a => a.st = .held then
      .next (s.setGroup k (g.setOp seq fun o => { o with accs := [] }))
    else .next s

end Sys2Proof.Machine
end

