-- ==== Sys2Proof/Machine/Float.lean ====
section
/-! DEFINITION. Floating-point instructions (05_numbers.md, R126, R131 to R141). -/
namespace Sys2Proof.Machine

/-- Floating majors in vector execution are not for the copy and matrix roles (R356). -/
def floatRole (g : Group) (vec : Bool) : Bool := !(vec && (decide (g.role = 1) || decide (g.role = 2)))

/-- The checks of a floating instruction. -/
def floatPre (g : Group) (d : Operand) (uses : List Use) : Pre :=
  let p := Pre.plain g 0 d uses
  { p with roleOk := floatRole g p.vec }

/-- `op d, a, b` on floating words. -/
def State.float2 (s : State) (nw : Bool) (d a b : Operand) (f : Word → Word → Word) :
    Host.Outcome State Fault Refusal :=
  s.run fun s => s.pipe (floatPre s.me d [dst d, src a, src b]) nw d [a, b] fun _ => perLane fun
    | [x, y] => f x y
    | _ => 0#32

/-- `op d, a` on floating words. -/
def State.float1 (s : State) (nw : Bool) (d a : Operand) (f : Word → Word) : Host.Outcome State Fault Refusal :=
  s.run fun s => s.pipe (floatPre s.me d [dst d, src a]) nw d [a] fun _ => perLane fun
    | [x] => f x
    | _ => 0#32

/-- FADD (R133). -/
def execFadd (nw : Bool) (d a b : Operand) (f r : BitVec 2) (s : State) : Host.Outcome State Fault Refusal :=
  s.float2 nw d a b fun x y => packedOp f.toNat r.toNat (fpArith 0 r.toNat) [x, y]
/-- FSUB (R133). -/
def execFsub (nw : Bool) (d a b : Operand) (f r : BitVec 2) (s : State) : Host.Outcome State Fault Refusal :=
  s.float2 nw d a b fun x y => packedOp f.toNat r.toNat (fpArith 1 r.toNat) [x, y]
/-- FMUL (R133). -/
def execFmul (nw : Bool) (d a b : Operand) (f r : BitVec 2) (s : State) : Host.Outcome State Fault Refusal :=
  s.float2 nw d a b fun x y => packedOp f.toNat r.toNat (fpArith 2 r.toNat) [x, y]
/-- FFMA (R131, R133): with nw = 1 there is no addend. -/
def execFfma (nw : Bool) (d a b : Operand) (f r : BitVec 2) (s : State) : Host.Outcome State Fault Refusal :=
  s.run fun s =>
    let uses := if nw then [dst d, src a, src b] else [dst d, src a, src b, src d]
    let p := floatPre s.me d uses
    s.pipe { p with operandOk := nw || isReg d } nw d (if nw then [a, b] else [a, b, d])
      fun _ => perLane fun xs => packedOp f.toNat r.toNat (fpArith 3 r.toNat) xs
/-- FMIN (R135). -/
def execFmin (nw : Bool) (d a b : Operand) (s : State) : Host.Outcome State Fault Refusal := s.float2 nw d a b (fpMinMax false)
/-- FMAX (R135). -/
def execFmax (nw : Bool) (d a b : Operand) (s : State) : Host.Outcome State Fault Refusal := s.float2 nw d a b (fpMinMax true)
/-- FABS (R135). -/
def execFabs (nw : Bool) (d a : Operand) (s : State) : Host.Outcome State Fault Refusal :=
  s.float1 nw d a fun x => x &&& 0x7FFFFFFF#32
/-- FNEG (R135). -/
def execFneg (nw : Bool) (d a : Operand) (s : State) : Host.Outcome State Fault Refusal :=
  s.float1 nw d a fun x => x ^^^ 0x80000000#32
/-- FCOPYSIGN (R135). -/
def execFcopysign (nw : Bool) (d a b : Operand) (s : State) : Host.Outcome State Fault Refusal :=
  s.float2 nw d a b fun x y => (x &&& 0x7FFFFFFF#32) ||| (y &&& 0x80000000#32)
/-- FCLASS (R136). -/
def execFclass (nw : Bool) (d a : Operand) (s : State) : Host.Outcome State Fault Refusal := s.float1 nw d a fpClass
/-- FRINT (R135). -/
def execFrint (nw : Bool) (d a : Operand) (r : BitVec 2) (s : State) : Host.Outcome State Fault Refusal :=
  s.float1 nw d a (fpRint r.toNat)
/-- FSCALE (R135). -/
def execFscale (nw : Bool) (d a b : Operand) (s : State) : Host.Outcome State Fault Refusal := s.float2 nw d a b fpScale
/-- FRCP (R135). -/
def execFrcp (nw : Bool) (d a : Operand) (s : State) : Host.Outcome State Fault Refusal :=
  s.float1 nw d a fun x => f32Word 0 (f32Val x).recip
/-- FRSQ (R135). -/
def execFrsq (nw : Bool) (d a : Operand) (s : State) : Host.Outcome State Fault Refusal :=
  s.float1 nw d a fun x => f32Word 0 (f32Val x).rsqrt
/-- FSQRT (R135). -/
def execFsqrt (nw : Bool) (d a : Operand) (s : State) : Host.Outcome State Fault Refusal :=
  s.float1 nw d a fun x => f32Word 0 (f32Val x).sqrt
/-- FEX2 (R135). -/
def execFex2 (nw : Bool) (d a : Operand) (s : State) : Host.Outcome State Fault Refusal :=
  s.float1 nw d a fun x => f32Word 0 (f32Val x).exp2
/-- FLG2 (R135). -/
def execFlg2 (nw : Bool) (d a : Operand) (s : State) : Host.Outcome State Fault Refusal :=
  s.float1 nw d a fun x => f32Word 0 (f32Val x).log2

/-- SRSEED (R137): vector execution whatever the class of a; an open run closes before it. -/
def execSrseed (a : Operand) (s : State) : Host.Outcome State Fault Refusal :=
  s.runControl fun s => do
    let g0 := s.me
    let p : Pre := { Pre.plain g0 0 .zero [src a] with vec := true, roleOk := floatRole g0 true }
    let s ← p.check s
    let s0 := s
    let (s, x) ← readSource s s g0.bundle a
    let (s, ys) ← s0.picked s true ((g0.bundle.zip x).map fun e => (srSeed e.2 e.1).toNat)
    let sr := (List.range 32).map fun l => match (g0.bundle.zip ys).find? fun e => e.1 = l with
      | some e => BitVec.ofNat 32 e.2
      | none => g0.sr.getD l 1#32
    .ok ((s.setMe { s.me with sr := sr }).finish g0 [src a])

/-- FCMP (R138): `t` 0 f32, 1 f16, 2 bf16. -/
def execFcmp (t : BitVec 2) (p : BitVec 4) (a b : Operand) (c : BitVec 4) (s : State) :
    Host.Outcome State Fault Refusal :=
  s.run fun s =>
    let pre := Pre.plain s.me 0 .zero [src a, src b]
    let ty := match t.toNat with
      | 0 => Ty.f32
      | 1 => Ty.f16
      | _ => Ty.bf16
    s.compare { pre with roleOk := floatRole s.me pre.vec, codes := [3000] } p.toNat [(a, 1), (b, 1)] fun
      | [x, y] => fpCond c.toNat (ty.value x) (ty.value y)
      | _ => false

/-- Whether a mode draws (R126). -/
def drawsMode (m : Nat) : Bool := decide (m = 5) || decide (m = 6)

/-- The generators of some lanes after one draw each, and the draws (R125, R126). -/
def Group.draw (g : Group) (lanes : List Nat) : Group × List Nat :=
  let next := fun l => srNext (g.sr.getD l 1#32)
  ({ g with sr := (g.sr.zipIdx).map fun e => if lanes.contains e.2 then srNext e.1 else e.1 },
    lanes.map fun l => (next l).toNat / 65536)

/-- FCVT (R139 to R141). `m` is the mode, `src` and `dt` the types' codes. -/
def execFcvt (nw : Bool) (d a : Operand) (m : BitVec 3) (sc dc : BitVec 4) (s : State) :
    Host.Outcome State Fault Refusal :=
  s.run fun s => do
    let g0 := s.me
    let st := Ty.ofCode sc.toNat
    let dt := Ty.ofCode dc.toNat
    let ws := if st.width = 64 then 2 else 1
    let wd := if dt.width = 64 then 2 else 1
    let uses := [dstN d wd, srcN a ws]
    let p := floatPre g0 d uses
    let s ← { p with legal := runLegal g0 nw && !(nw && decide (wd = 2)) }.check s
    let lanes := g0.execLanes p.vec
    let s0 := s
    let (s, xs) ← readWides s lanes s [(a, ws)]
    let (g1, rs) := if drawsMode m.toNat then s.me.draw lanes else (s.me, lanes.map fun _ => 0)
    let res := ((xs.headD []).zip rs).map fun e =>
      let y := convert dt st m.toNat e.2 e.1
      if wd = 2 then y else (placeResult dt y).toNat
    let (s, ys) ← s0.picked s p.vec res
    -- a trap takes no draw (R126): the states advance only here
    let s := s.setMe { s.me with sr := g1.sr }
    if wd = 2 then .ok ((s.setMe (s.me.writeWide d 2 lanes ys)).finish g0 uses)
    else do
      let vs := ys.map (BitVec.ofNat 32)
      let s ← s.writeResult d lanes vs
      .ok (s.finishPipe g0 uses nw p.vec d lanes vs)

end Sys2Proof.Machine
end

