-- ==== Sys2Proof/Machine/Region.lean ====
section
/-! DEFINITION. Forwarding atomic regions: the XREG instructions and the steps of the batten
(10_regions.md R265 to R290). -/
namespace Sys2Proof.Machine

-- The batten ------------------------------------------------------------------------------------------------------

/-- An occupied region slot. -/
def State.rslot (s : State) (x : Nat) : Option RSlot := s.batten.slots.read none x
/-- Replaces a region slot. -/
def State.setRslot (s : State) (x : Nat) (r : Option RSlot) : State :=
  { s with batten := { s.batten with slots := s.batten.slots.write none x r } }
/-- Regions with an edge into one of a list. -/
def edgesFrom (es : List (Nat × Nat)) (xs : List Nat) : List Nat :=
  (es.filter fun e => xs.contains e.1).map (·.2)
/-- The regions that `xs` must commit before, and `xs` themselves (R266). -/
def reachable (es : List (Nat × Nat)) : Nat → List Nat → List Nat
  | 0, xs => xs
  | n + 1, xs =>
    match ((edgesFrom es xs).filter fun y => !xs.contains y).eraseDups with
    | [] => xs
    | new => reachable es n (xs ++ new)
/-- Regions other than `x` with a version of a line (R272). -/
def Batten.writers (b : Batten) (x key : Nat) : List Nat :=
  ((b.versions.filter fun v => decide (v.key = key) && decide (v.slot ≠ x)).map (·.slot)).eraseDups
/-- Other open regions whose signature a line matches (R268, R272). -/
def Batten.readers (b : Batten) (x asid line : Nat) : List Nat :=
  (b.list.filter fun e => decide (e.1 ≠ x) && (signature asid line).all fun i => e.2.sig.contains i).map (·.1)
/-- The regions on the cycles that edges from `ys` into `x` would close (R273): none where no cycle closes. -/
def Batten.cycle (b : Batten) (x : Nat) (ys : List Nat) : List Nat :=
  let after := reachable b.edges 256 [x]
  if !(ys.any fun y => after.contains y) then []
  else (x :: ys ++ after.filter fun n => (reachable b.edges 256 [n]).any fun m => ys.contains m).eraseDups
/-- The region with the highest begin number (R273). -/
def Batten.latest (b : Batten) (xs : List Nat) : Option Nat :=
  minBy (fun x => b.nextBegin - (match b.slots.read none x with
    | some r => r.begin
    | none => 0)) xs
/-- The depth of a region with these flow sources (R272). -/
def Batten.depthOf (b : Batten) (srcs : List Nat) : Nat :=
  match srcs with
  | [] => 1
  | _ => 1 + srcs.foldl (fun n y => Nat.max n (match b.slots.read none y with
      | some r => r.depth
      | none => 0)) 0

/-- The batten forgets a region: its versions, its edges, its place among the sources of others (R276, R278). -/
def Batten.forget (b : Batten) (x : Nat) : Batten :=
  { b with
    slots := b.slots.map fun e => (e.1, e.2.map fun r => { r with flow := r.flow.filter (· ≠ x) })
    edges := b.edges.filter fun e => e.1 ≠ x ∧ e.2 ≠ x
    versions := b.versions.filter fun v => v.slot ≠ x }

/-- The batten forgets a region, and its slot is free (R265). -/
def State.dropRegion (s : State) (x : Nat) : State :=
  let b := s.batten.forget x
  { s with batten := { b with slots := b.slots.erase x } }

/-- The regions that depend on one: those with a flow edge from it (R272). -/
def Batten.dependants (b : Batten) (x : Nat) : List Nat := (b.list.filter fun e => e.2.flow.contains x).map (·.1)

/-- One region aborts (R278, R279): its versions, its edges and its signature are gone at once, and its group learns of it at
its next issue. `tell` is false for a group that has ended (R285). The slot stays taken (R265). -/
def State.abortOne (s : State) (x code qcode : Nat) (tell : Bool) : State :=
  match s.rslot x with
  | none => s
  | some r =>
    let b := s.batten.forget x
    let s := { s with batten := { b with
      aborts := b.aborts + 1
      slots := b.slots.put x (some { r with st := .aborting, sig := [], flow := [], wset := [], depth := 1 }) } }
    if tell then
      let g := s.group r.g
      s.setGroup r.g { g with reg := { g.reg with abortPending := some (code, qcode) } }
    else s

/-- The dependants of aborted regions abort with 0x11, and theirs in the same way (R278). -/
def State.abortDeps (s : State) : Nat → List Nat → State
  | 0, _ => s
  | _, [] => s
  | n + 1, y :: ys =>
    match s.rslot y with
    | some r =>
      if r.st = .aborting then State.abortDeps s n ys
      else State.abortDeps (s.abortOne y 0x11 0 true) n (ys ++ s.batten.dependants y)
    | none => State.abortDeps s n ys

/-- An abort with all its cascade (R278). -/
def State.abortRegion (s : State) (x code qcode : Nat) (tell : Bool) : State :=
  (s.abortOne x code qcode tell).abortDeps 65536 (s.batten.dependants x)

/-- Whether a request of a region is in flight (R265): its group runs and has an operation of it that has not ended. -/
def State.regionFlies (s : State) (x : Nat) (r : RSlot) : Bool :=
  let g := s.group r.g
  decide (g.sched = .active) && g.ops.any fun o => decide (o.slot = x + 1) && !o.done

/-- The group of the region in a slot, its operation and the slot's record, for an access of it. -/
def State.regionAccess (s : State) (k seq : Nat) : Option (Op × Nat × RSlot) :=
  match (s.group k).op seq with
  | none => none
  | some o =>
    if o.slot = 0 then none
    else
      match s.rslot (o.slot - 1) with
      | none => none
      | some r => if r.g = k ∧ (r.st = .opened ∨ r.st = .requesting) then some (o, o.slot - 1, r) else none

/-- Whether an operation has an access to a line in a state. -/
def Op.accessAt (o : Op) (line : Nat) (st : AccSt) : Bool :=
  o.accs.any fun a => decide (a.addr / 128 = line) && decide (a.st = st)

/-- Whether an earlier region access of the group to the line is still on its way (R196, R270). -/
def Group.regionBefore (g : Group) (seq line : Nat) : Bool :=
  g.ops.any fun o => decide (o.seq < seq) && decide (0 < o.slot) && o.pendingAt line

/-- The committed bytes of a line overlaid with every version in chain order (R270). -/
def State.overlaid (s : State) (key : Nat) (l : Line) : Nat → Byte := fun o =>
  s.batten.versions.foldl (fun b v => if v.key = key then (match v.bytes.read none o with
    | some x => x
    | none => b) else b) (l.bytes.read 0#8 o)

/-- Enters the edges of an access once they close no cycle (R272, R273): victims abort one after another; none where the
access's own region was the victim. -/
def State.enterEdges (s : State) (x asid line : Nat) (store : Bool) : Nat → State × Bool
  | 0 => (s, false)
  | n + 1 =>
    let key := lineKey asid line
    let ys := s.batten.writers x key ++ (if store then s.batten.readers x asid line else [])
    match s.batten.cycle x ys with
    | [] => (s, true)
    | set =>
      match s.batten.latest set with
      | none => (s, false)
      | some v =>
        let s := s.abortRegion v 0x10 0 true
        match s.rslot x with
        | some r => if r.st = .aborting then (s, false) else State.enterEdges s x asid line store n
        | none => (s, false)

/-- Whether the home slice keeps a region access to a line from the batten (R270, R271): a region store has entered its edges
there and is about to merge, or the access is a store and a load of another region waits for its depth. -/
def State.lineTaken (s : State) (k asid line : Nat) (store : Bool) : Bool :=
  s.groups.any fun e => decide (e.2.asid = asid) && e.2.ops.any fun o => decide (0 < o.slot) && !o.done &&
    (o.accessAt line .merge || (store && decide (e.1 ≠ k) && o.accessAt line .depth))

/-- REGION_ACCESS_AT_BATTEN (R270 to R274). -/
def execRegionAccessAtBatten (k seq line : Nat) (s : State) : Host.Outcome State Fault Refusal :=
  let g := s.group k
  match s.regionAccess k seq with
  | none => .next s
  | some (o, x, _) =>
    if !o.accessAt line .batten || g.regionBefore seq line || s.lineTaken k g.asid line o.isStore then .next s
    else
      let (s, enter) := s.enterEdges x g.asid line o.isStore 257
      if !enter then .next s
      else
        let key := lineKey g.asid line
        let ys := s.batten.writers x key
        let r := (s.rslot x).getD ⟨k, g.asid, .opened, 0, [], 1, [], []⟩
        let into := fun (zs : List Nat) => (s.batten.edges ++ zs.map fun y => (y, x)).eraseDups
        if o.isStore then
          let s := { s with batten := { s.batten with edges := into (ys ++ s.batten.readers x g.asid line) } }
          .next (s.moveLine k seq line .batten .merge)
        else
          let flow := (r.flow ++ ys).eraseDups
          let depth := s.batten.depthOf flow
          if 8 < depth then .next (s.moveLine k seq line .batten .depth)
          else
            let got := if (s.l2Line key).present then Fetch.line s (s.l2Line key)
              else s.fetch g.asid line false false g.priv o.ret
            match got with
            | .fail c w => .next (s.setGroup k ((s.group k).setOp seq fun o => o.mapAccs
                (fun a => decide (a.addr / 128 = line) && decide (a.st = .batten)) fun a => { a with st := .failed c w }))
            | .ext _ => .next (s.setGroup k ((s.group k).setOp seq fun o => o.mapAccs
                (fun a => decide (a.addr / 128 = line) && decide (a.st = .batten))
                fun a => { a with st := .failed causeRegion 7 }))
            | .line s' l =>
              let s' := { s' with batten := { s'.batten with edges := into ys } }
              let s' := s'.setRslot x (some { r with
                depth := depth, flow := flow, sig := (r.sig ++ signature g.asid line).eraseDups })
              let w := match o.kind with
                | .load w _ => w
                | _ => 0
              .next ((s'.setGroup k ((s'.group k).setOp seq fun o => o.mapAccs
                (fun a => decide (a.addr / 128 = line) && decide (a.st = .batten)) fun a =>
                  if l.poison then { a with st := .failed causePoison 0 }
                  else { a with
                    st := .got
                    data := a.merge w fun i => s'.overlaid key l (a.addr % 128 + i) })).settle k)

/-- DEPTH_WAIT_END (R274): the load goes to the batten again once the depth allows it. -/
def execDepthWaitEnd (k seq line : Nat) (s : State) : Host.Outcome State Fault Refusal :=
  let g := s.group k
  match s.regionAccess k seq with
  | none => .next s
  | some (o, x, r) =>
    let flow := (r.flow ++ s.batten.writers x (lineKey g.asid line)).eraseDups
    if !o.accessAt line .depth ∨ 8 < s.batten.depthOf flow then .next s
    else .next (s.moveLine k seq line .depth .batten)

/-- VWAYS; 0 acts as 1 (R288). -/
def State.vways (s : State) : Nat := Nat.max 1 (bitsOf (s.sysv 0x560) 1 4)

/-- REGION_STORE_MERGE (R271, R275). DESIGN CHOICE (notes/assumptions/150.md): where both limits are met the status is 0x12; and
a version that finds no way because no block can leave its set waits for one. -/
def execRegionStoreMerge (k seq line : Nat) (s : State) : Host.Outcome State Fault Refusal :=
  let g := s.group k
  match s.regionAccess k seq with
  | none => .next s
  | some (o, x, r) =>
    if !o.accessAt line .merge then .next s
    else
      let key := lineKey g.asid line
      let mine := fun (v : Version) => decide (v.key = key) && decide (v.slot = x)
      let old := (s.batten.versions.find? mine).map (·.bytes)
      if old.isNone ∧ !r.wset.contains key ∧ 512 ≤ r.wset.length then .next (s.abortRegion x 0x12 0 true)
      else if old.isNone ∧ s.vways ≤ s.versionWays key then .next (s.abortRegion x 0x13 0 true)
      else
        let here := fun (a : Acc) => decide (a.addr / 128 = line) && decide (a.st = .merge)
        let bytes := (o.accs.filter here).foldl (fun t a => putBytes t (a.addr % 128) a.op1) (old.getD [])
        let s := if old.isNone then s.makeRoom key none else s
        if old.isNone && s.setFull key then .next s
        else
        let b := s.batten
        let v : Version := ⟨x, key, bytes⟩
        let s := { s with batten := { b with versions := (b.versions.filter fun v => !mine v) ++ [v] } }
        let s := s.setRslot x (some { r with wset := (r.wset ++ [key]).eraseDups })
        .next ((s.setGroup k ((s.group k).setOp seq fun o =>
          let o := o.mapAccs here fun a => { a with st := AccSt.got }
          { o with done := o.accs.all fun a => decide (a.st = AccSt.got) })).settle k)

/-- Whether a region may commit (R276). -/
def State.commits (s : State) (x : Nat) (r : RSlot) : Bool :=
  decide (r.st = .requesting ∨ r.st = .committing) && ((s.group r.g).ops.all fun o => decide (o.slot ≠ x + 1) || o.done ||
      (!o.isStore && o.accs.all fun a => decide (a.st = .got))) &&
    s.batten.edges.all fun e => e.2 ≠ x

/-- REGION_COMMIT (R276): in the first phase the lines of the region are locked; in the second every version merges into its
committed line, and the region is gone from the batten. -/
def execRegionCommit (x : Nat) (s : State) : Host.Outcome State Fault Refusal :=
  match s.rslot x with
  | none => .next s
  | some r =>
    if !s.commits x r then .next s
    else if r.st = .requesting then .next (s.setRslot x (some { r with st := .committing }))
    else
      let core := (s.group r.g).core
      let vs := s.batten.versions.filter fun v => v.slot = x
      let s := vs.foldl (fun s v => (s.commitLine v.key v.bytes (s.l2Line v.key).ret).updateL1 core v.key v.bytes) s
      let s := s.dropRegion x
      let g := s.group r.g
      let g := { g with
        reg := { g.reg with code := 1, qcode := 0, slot := 256, ckpt := none }
        blocked := false
        ops := g.ops.map fun o => if o.kind = .region then { o with done := true } else o }
      .next ((s.setGroup r.g g).settle r.g)

/-- REGION_ABORT (R265, R278): the slot of an aborted region is free once no request of it is in flight. -/
def execRegionAbort (x code : Nat) (s : State) : Host.Outcome State Fault Refusal :=
  match s.rslot x with
  | none => .next s
  | some r => if r.st = .aborting ∧ code = 0x11 ∧ !s.regionFlies x r then .next (s.dropRegion x) else .next s

/-- An uncorrectable error of the batten's state is a grade-E event (R266). -/
def execBattenError (s : State) : Host.Outcome State Fault Refusal :=
  if s.batten.bad then
    .next (({ s with free := s.free + 1, batten := { s.batten with bad := false } }).logEvent (some unitBatten)
      (eventRec 5 (Config.freeWord s.free).toNat 0))
  else .next s

/-- The group leaves an aborted region (R279, R284): the checkpoint is restored, the lanes resume after the XOPEN, the
status word is written. -/
def Group.leaveRegion (g : Group) (c : Ckpt) (code qcode : Nat) : Group :=
  let lanes := c.lanes.map fun x => if x.st = .live then { x with pc := g.reg.xpc + 4#64 } else x
  let line := fun (r : Nat) => decide (r < 2000) && c.absent.contains r
  let kept := fun (i : Nat) => line (i / 32)
  let old : Tab Word := c.v.filter fun e => !kept e.1
  let now : Tab Word := g.v.filter fun e => kept e.1
  let wrong : Tab (List (Nat × Byte)) := c.regErr.filter fun e => !line e.1
  let g : Group := { g with
    lanes := lanes, v := now.foldl (fun (t : Tab Word) e => t.put e.1 e.2) old, s := c.s, p := c.p, h := c.h, wb := c.wb, sr := c.sr
    ihead := c.ihead, absent := g.absent.filter fun r => c.absent.contains r
    poison := (g.poison.filter line) ++ c.poison.filter fun r => !line r
    regErr := (g.regErr.filter fun e => line e.1).foldl (fun (t : Tab (List (Nat × Byte))) e => t.put e.1 e.2) wrong
    dirty := (g.dirty ++ (List.range g.nreg).filter fun r => !c.absent.contains r).eraseDups
    latches := [], stream := 0#32, run := none, runFull := false, aged := none, imx := none, blocked := false, entered := false
    missing := none, storing := none, tstat := none
    ops := (g.ops.filter fun o => o.slot = 0).map fun o =>
      if o.kind = .region then { o with done := true, failed := true } else o
    reg := { g.reg with
      nest := 0, serial := false, slot := 0, ckpt := none, code := code, qcode := qcode, aborts := g.reg.aborts + 1
      abortPending := none } }
  g.setSreg g.reg.xd (BitVec.ofNat 32 (code + 256 * qcode))

/-- REGION_ABORT_DELIVERY (R279). -/
def execRegionAbortDelivery (k : Nat) (s : State) : Host.Outcome State Fault Refusal :=
  let g := s.group k
  match g.reg.abortPending, g.reg.ckpt with
  | some (code, qcode), some c =>
    if g.sched = .active then .next ((s.setGroup k (g.leaveRegion c code qcode)).settle k) else .next s
  | _, _ => .next s

/-- The serial token of an address space goes back (R285, R286). -/
def State.releaseSerial (s : State) (k : Nat) : State :=
  { s with batten := { s.batten with serial := s.batten.serial.filter fun e => e.2 ≠ k } }

/-- A serial region's slot is free again (R265). -/
def State.dropSerial (s : State) (k : Nat) : State :=
  match s.batten.list.find? fun e => e.2.g = k with
  | some e => if e.2.st = .opened then s.dropRegion e.1 else s
  | none => s

/-- A group that ends discards its region and its serial token (R285). A region whose commit has begun commits. -/
def State.endRegion (s : State) (k : Nat) : State :=
  let s := if (s.group k).reg.serial then s.dropSerial k
    else match s.batten.list.find? fun e => decide (e.2.g = k) && decide (e.2.st = .opened ∨ e.2.st = .requesting) with
    | some e => s.abortRegion e.1 0 0 false
    | none => s
  let g := s.group k
  (s.setGroup k { g with reg := { g.reg with nest := 0, serial := false, ckpt := none, abortPending := none } }).releaseSerial k

-- XREG ------------------------------------------------------------------------------------------------------------

/-- Whether the bundle holds every live lane while no lane is parked (R281). -/
def Group.whole (g : Group) : Bool :=
  decide (g.bundle.length = g.liveLanes.length) && (List.range 32).all fun l => !g.isParked l

/-- Free region slots. -/
def Batten.freeSlots (b : Batten) : List Nat := (List.range 256).filter fun x => (b.slots.read none x).isNone

/-- A region of the current group takes a slot (R265, R266): which of the free ones is a free value. None where none is. -/
def State.takeSlot (s : State) (asid : Nat) : Option (State × Nat) :=
  match s.batten.freeSlots with
  | [] => none
  | x :: xs =>
    let x := (x :: xs).getD (Config.freeNat s.free % (xs.length + 1)) 0
    let b := s.batten
    some ({ s with
      free := s.free + 1
      batten := { b with
        slots := b.slots.put x (some ⟨s.cur, asid, .opened, b.nextBegin, [], 1, [], []⟩)
        nextBegin := b.nextBegin + 1 } }, x)

/-- The end of XSERIAL, and of an XOPEN that behaves as one (R265, R282, R286): the token is taken; then every region of the
address space that was open then has ended; then a slot is taken. -/
def State.takeSerial (s : State) (d : Option Nat) : Go State := do
  let g0 := s.me
  awaits (s.batten.serial.all fun e => e.1 ≠ g0.asid ∨ e.2 = s.cur)
  let s := if s.batten.serial.any fun e => e.2 = s.cur then s
    else { s with batten := { s.batten with serial := s.batten.serial ++ [(g0.asid, s.cur)] } }
  let s := s.setMe { s.me with reg := { s.me.reg with serial := true } }
  if s.batten.list.any fun e => decide (e.2.asid = g0.asid ∧ e.2.st ≠ .aborting) then .error (.after s)
  else
    match s.takeSlot g0.asid with
    | none => .error (.after s)
    | some (s, x) =>
      let g := { s.me with reg := { s.me.reg with nest := 1, slot := x } }
      let g := match d with
        | some n => g.setSreg n 0#32
        | none => g
      .ok ((s.setMe g).finish g0 [])

/-- The checkpoint that XOPEN takes (R284). -/
def Group.checkpoint (g : Group) : Ckpt := ⟨g.lanes, g.v, g.s, g.p, g.h, g.wb, g.sr, g.ihead, g.absent, g.poison, g.regErr⟩

/-- XOPEN (R282). -/
def execXopen (d : Operand) (s : State) : Host.Outcome State Fault Refusal :=
  s.run fun s => do
    let g0 := s.me
    let s ← { controlPre g0 [dst d] with operandOk := isS d, bundleOk := g0.whole }.check s
    mustW g0.rgn causeRegion 1
    mustW (decide (g0.reg.nest < 15)) causeRegion 4
    let n := match d with
      | .s n => n.toNat
      | _ => 0
    if 0 < g0.reg.nest then
      let g := (s.me.setSreg n 0#32)
      .ok ((s.setMe { g with reg := { g.reg with nest := g.reg.nest + 1 } }).finish g0 [dst d])
    else if g0.reg.serial then s.takeSerial (some n)
    else do
      let s ← s.waitAsSdrain
      loadsReturned s.me
      if !bitOf (s.sysv 0x560) 0 || s.batten.serial.any fun e => e.1 = g0.asid then do
        let s := s.setMe { s.me with reg := { s.me.reg with serial := true } }
        match s.takeSerial (some n) with
        | .error .block => .error (.after s)
        | r => r
      else
        match s.takeSlot g0.asid with
        | none => .error .block
        | some (s, x) =>
          let g := s.me
          let g := { g with
            ops := g.ops ++ [Op.base g.seq .region .region g0.pc], seq := g.seq + 1
            reg := { g.reg with
              nest := 1, serial := false, slot := x, xpc := g0.pc, xd := n, ckpt := some g0.checkpoint } }
          .ok (((s.setMe (g.setSreg n 0#32)).finish g0 [dst d]).writeCkpt s.cur)

/-- XSERIAL (R282, R286). -/
def execXserial (s : State) : Host.Outcome State Fault Refusal :=
  s.run fun s => do
    let g0 := s.me
    let s ← { controlPre g0 [] with bundleOk := g0.whole }.check s
    mustW g0.rgn causeRegion 1
    mustW (decide (g0.reg.nest = 0)) causeRegion 5
    if g0.reg.serial then s.takeSerial none
    else do
      let s ← s.waitAsSdrain
      loadsReturned s.me
      s.takeSerial none

/-- XCLOSE (R276, R282). -/
def execXclose (s : State) : Host.Outcome State Fault Refusal :=
  s.run fun s => do
    let g0 := s.me
    let s ← { controlPre g0 [] with bundleOk := g0.whole }.check s
    mustW (decide (0 < g0.reg.nest)) causeRegion 3
    if 1 < g0.reg.nest then
      .ok ((s.setMe { s.me with reg := { s.me.reg with nest := g0.reg.nest - 1 } }).finish g0 [])
    else if g0.reg.serial then do
      let s ← s.waitAsSdrain
      let g := s.me
      let s := (s.setMe { g with reg := { g.reg with nest := 0, serial := false, slot := 0, code := 2, qcode := 0 } }).dropSerial s.cur
      .ok ((s.releaseSerial s.cur).finish g0 [])
    else if g0.reg.slot = 256 then
      .ok ((s.setMe { s.me with reg := { s.me.reg with nest := 0, slot := 0 } }).finish g0 [])
    else do
      faultedOps s.me
      match s.rslot g0.reg.slot with
      | none => .error .block
      | some r =>
        let s := s.setRslot g0.reg.slot (some { r with st := if r.st = .opened then .requesting else r.st })
        .error (.after s)

/-- XQUIT (R278, R282). -/
def execXquit (a : Operand) (s : State) : Host.Outcome State Fault Refusal :=
  s.run fun s => do
    let g0 := s.me
    let s ← { controlPre g0 [src a] with operandOk := !isVec g0 a }.check s
    mustW (decide (0 < g0.reg.nest)) causeRegion 3
    mustW (!g0.reg.serial) causeRegion 5
    let (s, q) ← scalarRead s a
    .ok ((s.finish g0 [src a]).abortRegion g0.reg.slot 0x14 (q.toNat % 256) true)

/-- The words of XSTAT (R283). -/
def State.regionStat (s : State) (g : Group) : Nat :=
  let r := g.reg
  let opened := decide (0 < r.nest)
  let slot := if opened ∧ !r.serial then r.slot % 256 else 0
  let (w, dep) := match if opened ∧ !r.serial then s.rslot r.slot else none with
    | some x => (x.wset.length, x.depth)
    | none => (0, 0)
  r.code + 2 ^ 8 * r.qcode + 2 ^ 16 * b2n opened + 2 ^ 17 * b2n (opened && r.serial) + 2 ^ 18 * r.nest + 2 ^ 24 * slot +
    2 ^ 32 * (w + 2 ^ 10 * dep + 2 ^ 16 * (r.aborts % 2 ^ 16))

/-- The 64 bits of XDEPS (R283). -/
def State.regionDeps (s : State) (g : Group) (n : Nat) : Nat :=
  if g.reg.nest = 0 ∨ g.reg.serial then 0
  else (List.range 64).foldr (fun i m =>
    let e := if n < 4 then (64 * n + i, g.reg.slot) else (g.reg.slot, 64 * (n - 4) + i)
    2 * m + b2n (s.batten.edges.contains e)) 0

/-- XSTAT and XDEPS: a scalar pair. -/
def State.regionWord (s : State) (d : Operand) (f : State → Group → Nat) : Go State := do
  let g0 := s.me
  let s ← { controlPre g0 [dstN d 2] with operandOk := !isV d }.check s
  .ok ((s.setMe (s.me.writeWide d 2 (g0.bundle.take 1) [f s g0])).finish g0 [dstN d 2])
/-- XSTAT (R283). -/
def execXstat (d : Operand) (s : State) : Host.Outcome State Fault Refusal :=
  s.run fun s => s.regionWord d State.regionStat
/-- XDEPS (R283). -/
def execXdeps (d : Operand) (n : BitVec 3) (s : State) : Host.Outcome State Fault Refusal :=
  s.run fun s => s.regionWord d fun s g => s.regionDeps g n.toNat

end Sys2Proof.Machine
end

