-- ==== Sys2Proof/Machine/Sched.lean ====
section
/-! DEFINITION. Tasks, placement, write-back, restore, write-out and the end of groups, teams, clusters and tasks
(13_launch.md R345 to R369; 14_contexts.md R382 to R385; 06_matrix.md R153; 11_copy.md R311; 03_control.md R71). -/
namespace Sys2Proof.Machine

-- Tasks -----------------------------------------------------------------------------------------------------------

/-- The id of the task in an entry (R345). -/
def taskIdOf (slot gen : Nat) : Nat := slot + 2 ^ 8 * gen
/-- The entry that a task id names. -/
def idSlot (x : Nat) : Nat := bitsOf x 0 8
/-- GEN of a task id. -/
def idGen (x : Nat) : Nat := bitsOf x 8 23
/-- Whether a task id is stale (R345). -/
def State.stale (s : State) (x : Nat) : Bool :=
  decide (idGen x = 0) || decide ((s.task (idSlot x)).gen ≠ idGen x) || bitOf x 31
/-- Whether the task that an id names has not left the task table. -/
def State.idLive (s : State) (x : Nat) : Bool :=
  !s.stale x && decide ((s.task (idSlot x)).state ≠ .free)
/-- Groups, teams of a cluster, and all groups of a task (R346, R348). -/
def LaunchRec.teams (r : LaunchRec) : Nat := r.w * r.h
/-- All groups of a grid. -/
def LaunchRec.groups (r : LaunchRec) : Nat := r.ncl * r.teams * r.team
/-- The keys of the teams of a cluster. -/
def State.teamsOf (s : State) (c : Nat) : List Nat :=
  let slot := c / 2 ^ 16
  let n := (s.task slot).record.teams
  (List.range n).map fun i => teamKey slot (c % 2 ^ 16 * n + i)
/-- The keys of the groups of a team. -/
def State.groupsOf (s : State) (t : Nat) : List Nat :=
  let slot := t / 2 ^ 20
  let n := (s.task slot).record.team
  (List.range n).map fun i => groupKey slot (t % 2 ^ 20 * n + i)
/-- The cluster of a team. -/
def State.clusterOfTeam (s : State) (t : Nat) : Nat :=
  let slot := t / 2 ^ 20
  clusterKey slot (t % 2 ^ 20 / Nat.max 1 (s.task slot).record.teams)
/-- Whether a group has ended. -/
def Group.ended (g : Group) : Bool := decide (g.sched = .done ∨ g.sched = .killed)
/-- Whether every group of a team has ended. -/
def State.teamEnded (s : State) (t : Nat) : Bool := (s.groupsOf t).all fun k => (s.group k).ended
/-- Whether every group of a cluster has ended. -/
def State.clusterEnded (s : State) (c : Nat) : Bool := (s.teamsOf c).all s.teamEnded

/-- A group as it stands before its first activation (R125, R348, R350). -/
def State.newGroup (s : State) (k : Nat) : Group :=
  let slot := k / 2 ^ 26
  let i := k % 2 ^ 26
  let t := s.task slot
  let r := t.record
  let tidx := i / Nat.max 1 r.team
  let gid := i % Nat.max 1 r.team
  { Group.init with
    task := slot, taskId := taskIdOf slot t.gen, gidx := i, team := teamKey slot tidx, groupid := gid
    teamid := tidx % Nat.max 1 r.teams, clrank := tidx / Nat.max 1 r.teams, role := bitsOf r.rolemap (2 * gid) 2
    asid := r.asid, nreg := r.nreg, rgn := r.rgn
    lanes := List.replicate 32 ⟨BitVec.ofNat 64 r.kpc, 0#64, .live⟩
    s := Tab.writeFrom 0#32 [] 0 r.args
    sr := (List.range 32).map fun l => srSeed (BitVec.ofNat 32 i) l }

/-- The items that a team's queue is seeded with (R350), read from the scheduler's die (R345). Words that cannot be read are free values. -/
def State.seedItems (s : State) (r : LaunchRec) (tidx : Nat) : State × List Word :=
  match s.vread (some 0) r.asid (r.items + 4 * r.icount * tidx) (4 * r.icount) (decide (r.asid = 0)) with
  | .ok (s, bs) => (s, ((List.range r.icount).map fun i => BitVec.ofNat 32 (leNat ((bs.drop (4 * i)).take 4))).filter
      (· ≠ emptyItem))
  | .error _ => ({ s with free := s.free + r.icount }, (List.range r.icount).map fun i => Config.freeWord (s.free + i))

/-- A team as it stands at its first placement (R350). Its launch identity is its own: the task's id and its index (R297). -/
def newTeam (slot gen key : Nat) (r : LaunchRec) (items : List Word) : Team :=
  let tidx := key % 2 ^ 20
  { Team.init with
    task := slot, tidx := tidx, cluster := tidx / Nat.max 1 r.teams, teamid := tidx % Nat.max 1 r.teams
    scratchSize := 128 * r.scratch, nring := r.nring, ringSize := r.rings, itemCap := if r.itemq = 0 then 0 else 2 ^ r.itemq
    items := items, itemTail := items.length, itemClosed := r.iclose, launch := taskIdOf slot gen * 2 ^ 20 + tidx }

/-- Words are written at the tail of a team's item ring (R349, R357). A word whose address cannot be written stays with the
core alone. -/
def State.ringWrite (s : State) (t tail : Nat) (xs : List Word) : State :=
  let tm := s.team t
  let r := (s.task tm.task).record
  let base := s.saveBase t + (saveSizes r).2
  xs.zipIdx.foldl (fun s e =>
    match s.vwrite (some tm.core) r.asid (base + 4 * ((tail + e.2) % Nat.max 1 tm.itemCap)) (leBytes 4 e.1.toNat) true with
    | .ok s => s
    | .error _ => s) s

/-- Items are appended to a team's queue (R357, R367). -/
def State.putItems (s : State) (t : Nat) (xs : List Word) : State :=
  let tm := s.team t
  (s.setTeam t { tm with items := tm.items ++ xs, itemTail := tm.itemTail + xs.length }).ringWrite t tm.itemTail xs

-- Write-back and restore ------------------------------------------------------------------------------------------

/-- Whether an access to a line of a group's frame must wait at its home slice (R276, R423): the group neither issues nor
leaves its slot meanwhile. -/
def State.frameBusy (s : State) (k : Nat) : Bool :=
  let g := s.group k
  s.lineBusy g.core g.asid (s.frameBase g) (frameSize g.nreg g.rgn)

/-- A write-back that no trap caused (R382): the group becomes INACTIVE. -/
def State.writeBackGroup (s : State) (k : Nat) : State :=
  if s.frameBusy k then s
  else
  let s := (s.leaveQueues k).drainGroup k
  let g := { (s.group k).suspend with sched := .inactive, since := s.order }
  let s := { s.setGroup k g with order := s.order + 1 }
  match s.writeFrame g with
  | .ok s => s.setGroup k g.free
  | .error (_, w, va) => s.frameFault k 1 none w va

/-- Requests of the held-request list are issued again (R383); a held transfer, which is none of them, stays (R309). -/
def Op.reissue (o : Op) : Op :=
  if o.done || decide (o.cls = .copy) then o
  else
    let linear := o.lin && o.fault.isSome
    { o with
      fault := none
      done := linear
      accs := if linear then o.accs else o.accs.map fun a => match a.st with
        | .failed _ _ => { a with st := .wait }
        | _ => a }

/-- A store-fault entry is performed again (R383): a store is written again, and a RED's reduction is made again with the
operands it recorded (R248). -/
def Group.replayEntry (g : Group) (e : SfEntry) : Group :=
  let q := g.seq
  let g := { g with seq := q + 1, places := g.places.put q (g.placeOf e.part.first) }
  match e.part.kind with
  | .red op w =>
    let accs : List Acc := e.part.opnds.zipIdx.map fun x => ⟨x.2, x.1.1, .wait, [], x.1.2, [], []⟩
    { g with ops := g.ops ++ [{ Op.base q .red (.red op w) e.pc with accs := accs }] }
  | _ => { g with parts := g.parts ++ [{ e.part with id := g.newId, ops := [q], st := .wait, rel := none }] }

/-- Requests of the held list and replays in the issue order of what they repeat (R383). -/
def Group.byPlace (g : Group) (xs : List (Nat × Bool)) : List (Nat × Bool) :=
  xs.foldl (fun r x => (r.takeWhile fun y => !g.earlier x.1 y.1) ++ x :: r.dropWhile fun y => !g.earlier x.1 y.1) []

/-- The store-fault entries, and then the records that wait, are replayed in their order of arrival (R201, R383). `stay`
says that the group issues nothing until they have been performed. -/
def Group.replay (g : Group) (stay : Bool) : Group :=
  let es := g.sfq ++ g.sfwait
  let new := (List.range es.length).map fun i => (g.seq + i, stay)
  let used := fun (q : Nat) => (g.ops.any fun o => o.seq = q) || (g.parts ++ es.map (·.part)).any fun p => p.ops.contains q
  let g := es.foldl Group.replayEntry { g with sfq := [], sfwait := [], sfnew := false, places := g.places.filter fun e => used e.1 }
  { g with again := g.byPlace (g.again ++ new) }

/-- The held requests of a group start again (R383). -/
def State.reissueHeld (s : State) (k : Nat) : State :=
  let g := s.group k
  (s.setGroup k { g with ops := g.ops.map Op.reissue }).settle k

/-- The held transfers whose fault a settled record gives may go on, at the faulting element (R309, R311). -/
def State.resumeCopies (s : State) (k : Nat) (r : FaultRec) : State :=
  let g := s.group k
  let tm := s.team g.team
  let this := fun (o : Op) => decide (o.cls = .copy) && decide (o.pc.toNat = r.pc) && (match o.fault with
    | some f => decide (f.1 = r.cause) && decide (f.2.2.2 = r.va)
    | none => false)
  let qs := (g.ops.filter this).map (·.seq)
  let free := fun (ts : List Transfer) => ts.map fun t => if decide (t.g = k) && qs.contains t.seq then { t with fault := none } else t
  let core := s.core tm.core
  let s := s.setCore tm.core { core with shuttle := free core.shuttle }
  let s := s.setTeam g.team { tm with savedCopies := free tm.savedCopies }
  s.setGroup k { g with ops := g.ops.map fun o => if this o then { o with fault := none } else o }

/-- The engine state of a team that was out of its core returns before any of its groups issues (R153, R311): its names
may lie on other physical slots and tiles, which are free values. None while the core lacks room. -/
def Tab.moved {α : Type} (m : List (Nat × Nat)) (t : Tab α) : List (Nat × α) :=
  t.map fun e => ((m.find? fun x => x.1 = e.1).elim e.1 (·.2), e.2)

/-- A number under a renaming. -/
def renamed (m : List (Nat × Nat)) (n : Nat) : Nat := (m.find? fun x => x.1 = n).elim n (·.2)

/-- An array-queue entry on other slots and tiles. -/
def ArrKind.rename (ms mt : List (Nat × Nat)) : ArrKind → ArrKind
  | .tld sl b st => .tld (renamed ms sl) b st
  | .tldx w sl b st => .tldx w (renamed ms sl) b st
  | .tlds sl n b => .tlds (renamed ms sl) n b
  | .tst y t b st m => .tst y (renamed mt t) b st m
  | .tmv r t row => .tmv r (renamed mt t) row
  | .tmvi t row vs => .tmvi (renamed mt t) row vs
  | .trel ss ts => .trel (ss.map (renamed ms)) (ts.map (renamed mt))
  | .tzero i ts => .tzero i (ts.map (renamed mt))
  | .tscale sl sc => .tscale (renamed ms sl) (sc.map fun x => (renamed ms x.1, x.2))
  | .mma f va vb sat z t a b => .mma f va vb sat z (renamed mt t) (renamed ms a) (renamed ms b)
  | .mms r f va vb z t a b => .mms r f va vb z (renamed mt t) (renamed ms a) (renamed ms b)
  | .copy sl => .copy (renamed ms sl)

/-- `n` elements of a list from position `j` on, around its end. -/
def rotTake {α : Type} (xs : List α) (j n : Nat) : List α := ((xs.drop (j % Nat.max 1 xs.length)) ++ xs).take n

/-- Whether a team has engine state to be restored. -/
def Team.hasSaved (t : Team) : Bool :=
  !(t.savedSlots.isEmpty && t.savedTiles.isEmpty && t.savedArr.isEmpty && t.savedCopies.isEmpty)

/-- Restores the engine state of a resident team: none while its core lacks free slots or tiles, or places in its array queue
or its shuttle's, or the array is off (R149, R153, R169, R291). -/
def State.restoreTeam (s : State) (t : Nat) : Option State :=
  let tm := s.team t
  if !tm.hasSaved then some s
  else
    let core := s.core tm.core
    let fs := core.freeSlots
    let ft := core.freeTiles
    if fs.length < tm.savedSlots.length ∨ ft.length < tm.savedTiles.length ∨
        16 < core.arr.length + tm.savedArr.length ∨ 32 < core.shuttle.length + tm.savedCopies.length ∨
        (core.arrayOff ∧ (tm.savedSlots.isEmpty = false ∨ tm.savedTiles.isEmpty = false)) then none
    else
      let ms := (Tab.keys tm.savedSlots).zip (rotTake fs (Config.freeNat s.free) tm.savedSlots.length)
      let mt := (Tab.keys tm.savedTiles).zip (rotTake ft (Config.freeNat (s.free + 1)) tm.savedTiles.length)
      let core := (Tab.moved ms tm.savedSlots).foldl (fun c e => c.setSlot e.1
        { e.2 with scale := e.2.scale.map fun x => (renamed ms x.1, x.2) }) core
      let core := (Tab.moved mt tm.savedTiles).foldl (fun c e => c.setTile e.1 e.2) core
      let core := { core with
        arr := core.arr ++ tm.savedArr.map fun e => { e with kind := e.kind.rename ms mt }
        shuttle := core.shuttle ++ tm.savedCopies.map fun x => { x with slot := x.slot.map (renamed ms) } }
      let up := fun (m : List (Nat × Nat)) (xs : Tab Nat) => xs.map fun e => (e.1, renamed m (e.2 - 1) + 1)
      let s := s.setCore tm.core core
      some { s.setTeam t { tm with
          slotOf := up ms tm.slotOf, tileOf := up mt tm.tileOf
          savedSlots := [], savedTiles := [], savedArr := [], savedCopies := [] } with free := s.free + 2 }

/-- The L1 effect of an ACQA of clus or dev scope on a core (R220). -/
def State.acquireAll (s : State) (c asid : Nat) : State := s.sweep c asid allMemory

/-- Next(x) of R399: the word after, or the word after the pair where an IMX stands at x. A word that cannot be read is
no IMX. -/
def State.nextWord (s : State) (c asid : Nat) (priv : Bool) (x : Dword) : Dword :=
  match s.readLine (some c) asid x.toNat 4 priv with
  | .ok (_, b) => if leNat b / 2 ^ 26 = 0x3E then x + 8#64 else x + 4#64
  | .error _ => x + 4#64

/-- A restore of a group in its team's core (R350, R352, R383, R224): from the initial state, or from the frame. -/
def State.restoreGroup (s : State) (k : Nat) : State :=
  let g := s.group k
  let c := (s.team g.team).core
  if g.fresh then
    let s := if (s.task g.task).preds.isEmpty then s else s.acquireAll c g.asid
    let s := { s with order := s.order + 1 }
    s.setGroup k { g with sched := .active, core := c, fresh := false, blocked := false, since := s.order }
  else if s.lineBusy c g.asid (s.frameBase g) (frameSize g.nreg g.rgn) then s
  else
    match s.vread (some c) g.asid (s.frameBase g) 2048 true with
    | .error (_, w, va) => s.frameFault k 3 none w va
    | .ok (s, b) =>
      let s := if g.core = c then s else s.acquireAll c g.asid
      let g := s.group k
      let g := if g.take then { g.ofHeader b with lines := List.range g.nreg } else g
      let ts := (lanesOf g.hlanes).map fun l => (l, s.nextWord c g.asid g.priv (g.lane l).pc)
      let s := { s with order := s.order + 1 }
      let s := s.setGroup k { g.jump ts with
        sched := .active, core := c, blocked := false, since := s.order, frameRetry := 0, absent := List.range g.nreg
        take := false, hlanes := 0#32, replayDue := false }
      let s := s.reissueHeld k
      let s := s.setGroup k { s.group k with again := (s.group k).byPlace (((s.group k).ops.filter fun o => !o.done).map fun o => (o.seq, true)) }
      if g.replayDue then (s.setGroup k ((s.group k).replay true)).settle k else s

/-- Teams resident on a core, apart from those of some clusters. -/
def State.teamsOn (s : State) (c : Nat) (without : List Nat) : List Team :=
  (s.teams.filter fun e => e.2.resident && decide (e.2.core = c) && !without.contains (clusterKey e.2.task e.2.cluster)).map
    (·.2)
/-- The banks of a core take their new mode once no allocation is left in the scratch pool (R207). -/
def State.endChange (s : State) (c : Nat) : State :=
  let core := s.core c
  match core.change with
  | none => s
  | some (mask, m, _) =>
    if (s.teamsOn c []).any fun t => t.scratchSize ≠ 0 then s
    else s.setCore c { core.setMode mask m with change := none }

-- The end of groups, teams, clusters and tasks ----------------------------------------------------------------------

/-- The end of a team (R71, R143, R297, R314): claims, records and queues are freed, and it leaves its core. Where entries
of the team are still in the array queue, its slots and tiles become free after them (R149); DESIGN CHOICE (log 152): an array
that is off performs none of them, and they go. -/
def State.endTeam (s : State) (t : Nat) : State :=
  let tm := s.team t
  let core := s.core tm.core
  let s := if core.arrayOff then s.setCore tm.core { core with arr := core.arr.filter fun e => e.team ≠ t } else s
  let s := s.cores.foldl (fun s e => e.2.queues.foldl (fun s q =>
    if q.2.live && decide (q.2.team = t) then s.freeQueue e.1 q.1 else s) s) s
  let s := s.setTeam t { s.team t with
    done := true, resident := false, scratch := [], full := [], recs := [], items := [], slotOf := [], tileOf := []
    savedSlots := [], savedTiles := [], savedArr := [], savedCopies := [] }
  if tm.resident then (s.reap tm.core t).endChange tm.core else s

/-- The end of a cluster, and of its task's groups when it was the last (R353). -/
def State.endCluster (s : State) (c : Nat) : State :=
  let slot := c / 2 ^ 16
  let s := s.setCluster c { s.cluster c with placed := false, leaving := 0 }
  let t := s.task slot
  let t := { t with doneN := t.doneN + 1 }
  s.setTask slot { t with state := if t.ended + t.killed = t.record.groups then .completing else t.state }

/-- Marks the frame of a group that has ended (R374, R465). The other bytes of the line stay. -/
def State.markFrame (s : State) (g : Group) (code : Nat) : State :=
  let va := s.frameBase g + 0x280
  match s.vread (some g.core) g.asid va 128 true with
  | .error _ => s
  | .ok (s, b) =>
    let old := (b.getD 0x50 0#8).toNat
    match s.frameLine g.core g.asid va (setAt b 0x50 (BitVec.ofNat 8 (old / 8 * 8 + code))) false with
    | .ok s => s
    | .error _ => s

/-- Operations that go on after their group has ended: those already sent (R311, R369). -/
def Op.goesOn (o : Op) : Bool :=
  match o.kind with
  | .load _ _ => false
  | .matrix fill => !fill
  | .region => false
  | .store => decide (o.slot = 0)
  | _ => true

/-- What is left of a group that has ended, with its fault record (R71, R369). -/
def Group.over (g : Group) (how : Sched) (r : Option FaultRec) : Group :=
  { g with
    sched := how, hrec := r, wcb := [], sfq := [], sfwait := [], sfnew := false, again := [], rels := [], imprec := [], chans := []
    parts := g.parts.filter fun p => p.rel.isNone
    ops := g.ops.filter Op.goesOn
    chain := false, crcAt := 0, latches := [], run := none, imx := none, blocked := false, missing := none, nopre := false
    frameRetry := 0, frameLate := none, trapWait := none, wait := none, twait := none, rett := none, replayDue := false
    storing := none, tstat := none }

/-- The fault record of a group that ends: one that a kill leaves without a grade gets one (R369). -/
def State.lastRecord (s : State) (g : Group) (how : Sched) : Option FaultRec :=
  g.hrec.map fun r => if how = .killed ∧ r.grade = 0 then { r with grade := gradeExt (s.task g.task).ext 3 } else r

/-- The record of a trap whose write-back has not been made joins the fault queue with its grade when its group ends: nothing
drops it (R388, R392). -/
def State.tellWaiting (s : State) (g : Group) (how : Sched) : State :=
  match g.trapWait with
  | some r => s.enqueue (if how = .killed ∧ r.grade = 0 then { r with grade := gradeExt (s.task g.task).ext 3 } else r)
  | none => s

/-- The grades that a group's end leaves with its task, and its record in the fault queue (R369, R455). -/
def State.gradeEnd (s : State) (g : Group) (how : Sched) : State :=
  let s := match g.hrec, s.lastRecord g how with
    | some old, some r =>
      { s with fqWait := s.fqWait.map fun x => if x = old then r else x }.noteGrade g.task r.grade
    | _, _ => s
  let pending := g.inTrap && decide (g.trec.grade = 0) || (match g.trapWait with
    | some r => decide (r.grade = 0)
    | none => false)
  if how = .killed ∧ pending then s.noteGrade g.task (gradeExt (s.task g.task).ext 3) else s

/-- A group that has ended counts with its task. -/
def State.countEnd (s : State) (slot : Nat) (how : Sched) : State :=
  let t := s.task slot
  if t.ended + t.killed < t.record.groups then
    s.setTask slot (if how = .done then { t with ended := t.ended + 1 } else { t with killed := t.killed + 1 })
  else s

/-- A team and a cluster end with their last group (R71, R353). -/
def State.endAbove (s : State) (tm : Nat) : State :=
  let s := if s.teamEnded tm then s.endTeam tm else s
  let c := s.clusterOfTeam tm
  if s.clusterEnded c then s.endCluster c else s

/-- A group ends, done or killed (R71, R369). -/
def State.endGroup (s : State) (k : Nat) (how : Sched) : State :=
  let s := (((s.leaveQueues k).endRegion k).abandonFills k).endTransfers k
  let g := s.group k
  let r := s.lastRecord g how
  let s := (((s.gradeEnd g how).tellWaiting g how).setGroup k (g.over how r)).settle k
  let s := s.countEnd g.task how
  (s.markFrame g (if how = .done then 4 else 5)).endAbove g.team

/-- Ends a group of a task that may never have been placed (R369). -/
def State.killGroup (s : State) (k : Nat) : State :=
  let s := if (s.groups.any fun e => e.1 = k) then s else s.setGroup k (s.newGroup k)
  s.endGroup k .killed

/-- Ends every group of a task and drops its unplaced clusters (R369, R447). -/
def State.killTask (s : State) (slot : Nat) : State :=
  let t := s.task slot
  let s := s.setTask slot { t with whole := true }
  let mine := (s.groups.filter fun e => decide (e.2.task = slot) && !e.2.ended).map (·.1)
  let s := mine.foldl (fun s k => s.endGroup k .killed) s
  let t := s.task slot
  s.setTask slot { t with killed := t.record.groups - t.ended, state := .completing }

-- Placement -------------------------------------------------------------------------------------------------------

/-- The core at a column and row of the placement plane (R14, R24). -/
def planeCore (x y : Nat) : Nat := 96 * (x / 12) + 12 * y + x % 12
/-- The cores of a rectangle, by teamid (R348). -/
def rectCores (r : LaunchRec) (x0 y0 : Nat) : List Nat :=
  (List.range r.teams).map fun i => planeCore (x0 + i % Nat.max 1 r.w) (y0 + i / Nat.max 1 r.w)
/-- Whether a rectangle is split (R24). -/
def splitRect (r : LaunchRec) (x0 : Nat) : Bool := decide (x0 ≤ 11 ∧ 12 < x0 + r.w) || decide (x0 ≤ 23 ∧ 24 < x0 + r.w)
/-- The rectangles of a shape that a task may use, as column and row. -/
def rects (r : LaunchRec) : List (Nat × Nat) :=
  ((List.range 8).flatMap fun y => (List.range 36).map fun x => (x, y)).filter fun p =>
    decide (p.1 + r.w ≤ 36 ∧ p.2 + r.h ≤ 8) && (r.splitok || !splitRect r p.1)
/-- Rows of a scratch pool that an allocation takes (R185). -/
def Core.poolRows (c : Core) (bytes : Nat) : Nat := ceilDiv (bytes / 128) (Nat.max 1 (c.banksIn 1).length)
/-- Where an allocation may begin in the pool of a core (R185). -/
def State.poolSpace (s : State) (c bytes : Nat) (without : List Nat) : List Nat :=
  let core := s.core c
  let n := core.poolRows bytes
  if bytes = 0 then [0]
  else if (core.banksIn 1).isEmpty ∨ core.change.isSome then []
  else
    let used := ((s.teamsOn c without).filter fun t => t.scratchSize ≠ 0).map fun t =>
      (t.poolRow, t.poolRow + core.poolRows t.scratchSize)
    (List.range (1024 + 1 - Nat.min 1024 n)).filter fun a => decide (a + n ≤ 1024) &&
      used.all fun u => decide (a + n ≤ u.1) || decide (u.2 ≤ a)
/-- Whether a core is in service for teams, with claims or without (R92, R169, R445). -/
def Core.inService (c : Core) (claims : Bool) : Bool := !c.out && !c.coreOff && !(c.arrayOff && claims)
/-- Whether a core may take a team of a task (R354). -/
def State.coreTakes (s : State) (c : Nat) (r : LaunchRec) (claims : Bool) (without : List Nat) : Bool :=
  (s.core c).inService claims && decide ((s.teamsOn c without).length < 64) &&
    !(s.poolSpace c (128 * r.scratch) without).isEmpty
/-- Whether the teams of a cluster hold matrix claims. -/
def State.hasClaims (s : State) (c : Nat) : Bool :=
  (s.teamsOf c).any fun t =>
    let tm := s.team t
    !(tm.savedSlots.isEmpty && tm.savedTiles.isEmpty) || tm.slotOf.any (fun e => e.2 ≠ 0) || tm.tileOf.any fun e => e.2 ≠ 0
/-- The rank of a rectangle (R355). -/
def State.rectRank (s : State) (r : LaunchRec) (p : Nat × Nat) : Nat :=
  let n := ((rectCores r p.1 p.2).map fun c => (s.teamsOn c []).length).foldl (· + ·) 0
  ((n * 2 + b2n (splitRect r p.1)) * 8 + p.2) * 36 + p.1
/-- The rectangle that a cluster takes, if any is allowed (R354, R355). -/
def State.rectFor (s : State) (c : Nat) : Option (Nat × Nat) :=
  let r := (s.task (c / 2 ^ 16)).record
  let claims := s.hasClaims c
  minBy (s.rectRank r) ((rects r).filter fun p => (rectCores r p.1 p.2).all fun k => s.coreTakes k r claims [])
/-- Whether some rectangle would be allowed on an empty device (R355). -/
def State.everFits (s : State) (c : Nat) : Bool :=
  let r := (s.task (c / 2 ^ 16)).record
  let claims := s.hasClaims c
  (rects r).any fun p => (rectCores r p.1 p.2).all fun k =>
    let core := s.core k
    core.inService claims && decide (r.scratch ≤ 1024 * (core.banksIn 1).length)
/-- The least clrank of a task that no step has touched yet. -/
def State.nextCluster (s : State) (slot : Nat) : Option Nat :=
  let r := (s.task slot).record
  let used := s.clusters.filter fun e => e.1 / 2 ^ 16 = slot
  ((List.range (used.length + 1)).find? fun i => !(used.any fun e => e.1 % 2 ^ 16 = i)).bind fun i =>
    if i < r.ncl then some (clusterKey slot i) else none
/-- Whether a cluster waits for a rectangle (R355). -/
def State.waits (s : State) (c : Nat) : Bool :=
  let x := s.cluster c
  decide ((s.task (c / 2 ^ 16)).state = .active) && !x.placed && !x.dropped && decide (c % 2 ^ 16 < (s.task (c / 2 ^ 16)).record.ncl) &&
    !s.clusterEnded c
/-- The clusters that wait, as far as the scheduler may choose among them. -/
def State.waiting (s : State) : List Nat :=
  ((s.clusters.map (·.1)) ++ s.tasks.filterMap fun e => s.nextCluster e.1).filter s.waits
/-- The order in which waiting clusters are considered (R355, R361). -/
def State.waitRank (s : State) (c : Nat) : Nat :=
  let t := s.task (c / 2 ^ 16)
  (((23 - t.prio) * 2 ^ 64 + (s.cluster c).turn) * 2 ^ 64 + t.order) * 2 ^ 16 + c % 2 ^ 16
/-- The waiting cluster that is placed next. -/
def State.nextPlacement (s : State) : Option Nat :=
  minBy s.waitRank (s.waiting.filter fun c => (s.rectFor c).isSome)

/-- One team takes its core: a new team starts as R350 says, and a returning one keeps its state. -/
def State.placeTeam (s : State) (t core : Nat) (ever : Bool) : State :=
  let slot := t / 2 ^ 20
  let task := s.task slot
  let (s, tm) := if ever then (s, s.team t)
    else
      let (s, items) := s.seedItems task.record (t % 2 ^ 20)
      (s, newTeam slot task.gen t task.record items)
  let space := s.poolSpace core (128 * task.record.scratch) []
  let row := space.getD (Config.freeNat s.free % Nat.max 1 space.length) 0
  let s := { s.setTeam t { tm with core := core, resident := !tm.done, poolRow := row } with free := s.free + 1 }
  let s := if ever then s else s.ringWrite t 0 tm.items
  (s.groupsOf t).foldl (fun s k =>
    let g := if (s.groups.any fun e => e.1 = k) then s.group k else { s.newGroup k with core := core }
    if g.sched = .unplaced then
      { s.setGroup k { g with sched := .inactive, since := s.order } with order := s.order + 1 }
    else s.setGroup k g) s

/-- A cluster takes a rectangle (R354). -/
def State.place (s : State) (c : Nat) (p : Nat × Nat) : State :=
  let slot := c / 2 ^ 16
  let t := s.task slot
  let x := s.cluster c
  let s := s.setTask slot { t with nofit := false, placedN := t.placedN + b2n (!x.ever) }
  let s := s.setCluster c { x with
    task := slot, clrank := c % 2 ^ 16, placed := true, ever := true, x0 := p.1, y0 := p.2, turn := 0, leaving := 0 }
  ((s.teamsOf c).zip (rectCores t.record p.1 p.2)).foldl (fun s e => s.placeTeam e.1 e.2 x.ever) s

-- Write-out -------------------------------------------------------------------------------------------------------

/-- Whether every matrix entry and transfer of a team has completed or waits on a fault (R153, R311). -/
def State.enginesIdle (s : State) (t : Nat) : Bool :=
  let tm := s.team t
  let core := s.core tm.core
  let stuck := s.stuckEntries core [] core.arr
  (core.arr.all fun e => decide (e.team ≠ t) || stuck.contains e || e.kind.isCopy || core.arrayOff) &&
    (core.shuttle.all fun x => decide (x.team ≠ t) || x.paused) &&
    s.groups.all fun e => decide (e.2.team ≠ t) || e.2.ops.all fun o => o.done || decide (o.cls ≠ .mat) || decide (o.kind ≠ .store)

/-- A write of the hardware's own in a form that the spec does not give: every byte that it may write takes a free value
(R349). -/
def State.freeWrite (s : State) (c asid va n : Nat) : State :=
  match s.vwrite (some c) asid va ((List.range n).map fun i => BitVec.ofNat 8 (Config.freeNat (s.free + i))) true with
  | .ok s => { s with free := s.free + n }
  | .error _ => s

/-- A team leaves its core: its engine state and its scratch go to its save area (R153, R188, R311, R349). The header and
the matrix state stand there in a device-internal form, so those bytes take free values; what a restore takes from them is
kept in the team's fields. -/
def State.saveTeam (s : State) (t : Nat) : State :=
  let tm := s.team t
  let core := s.core tm.core
  let mine := fun (e : Nat × Slot) => decide (e.2.owner = t + 1)
  let mineT := fun (e : Nat × Tile) => decide (e.2.owner = t + 1)
  let s := s.setCore tm.core { core with
    slots := core.slots.filter fun e => !mine e
    tiles := core.tiles.filter fun e => !mineT e
    arr := core.arr.filter fun e => e.team ≠ t
    shuttle := core.shuttle.filter fun x => x.team ≠ t }
  let s := s.setTeam t { tm with
    resident := false
    savedSlots := core.slots.filter mine, savedTiles := core.tiles.filter mineT
    savedArr := core.arr.filter fun e => e.team = t
    savedCopies := core.shuttle.filter fun x => x.team = t }
  let asid := (s.task tm.task).record.asid
  let s := s.freeWrite tm.core asid (s.saveBase t) 0x10000
  let s := if core.slots.any mine || core.tiles.any mineT then s.freeWrite tm.core asid (s.saveBase t + 0x10000) 0x100000 else s
  let image := (List.range tm.scratchSize).map fun i => tm.scratch.read 0#8 i
  match s.vwrite (some tm.core) (s.task tm.task).record.asid (s.saveBase t + 0x110000) image true with
  | .ok s => s
  | .error _ => s

/-- One step of a cluster's write-out (R361), with its reason: one that a team quantum ends goes behind the clusters of its
priority. Its groups are written back, except in a NOPRE section that still counts
(R92, R363); once all are out and the engines are idle, its teams leave their cores. -/
def State.writeOut (s : State) (c how : Nat) : State :=
  let x := s.cluster c
  let s := s.setCluster c { x with leaving := how }
  let teams := s.teamsOf c
  let groups := teams.flatMap s.groupsOf
  let s := groups.foldl (fun s k =>
    let g := s.group k
    if g.sched = .active ∧ (!g.nopre ∨ (s.core g.core).coreOff) then s.writeBackGroup k else s) s
  let out := groups.all fun k =>
    let g := s.group k
    decide (g.sched ≠ .active) && !(decide (g.sched = .held) && decide (g.frameRetry = 1 ∨ g.frameRetry = 2))
  if out && teams.all s.enginesIdle then
    let s := teams.foldl State.saveTeam s
    let s := teams.foldl (fun s t => s.endChange (s.team t).core) s
    let s := groups.foldl (fun s k =>
      let g := s.group k
      if g.sched = .inactive then s.setGroup k { g with sched := .unplaced } else s) s
    { s.setCluster c { s.cluster c with
        placed := false, leaving := 0, turn := if how = 3 then s.order + 1 else 0 } with order := s.order + 1 }
  else s

/-- Clusters with a team on a core that no longer serves them (R92, R169, R445). DESIGN CHOICE (log 152): a team that has
released all its names holds no claim, whatever entries of it an array that is off still holds. -/
def State.mustMove (s : State) (c : Nat) : Bool :=
  (s.teamsOf c).any fun t =>
    let tm := s.team t
    tm.resident && !(s.core tm.core).inService (tm.slotOf.any (fun e => e.2 ≠ 0) || tm.tileOf.any fun e => e.2 ≠ 0)

/-- The priority of a cluster. -/
def State.clusterPrio (s : State) (c : Nat) : Nat := (s.task (c / 2 ^ 16)).prio

/-- Clusters with a resident team on some cores. -/
def State.clustersOn (s : State) (cs : List Nat) : List Nat :=
  ((s.teams.filter fun e => e.2.resident && cs.contains e.2.core).map fun e => clusterKey e.2.task e.2.cluster).eraseDups

/-- The clusters that are written out for a waiting cluster without a rectangle (R361). -/
def State.victims (s : State) (w : Nat) : List Nat :=
  let r := (s.task (w / 2 ^ 16)).record
  let p := s.clusterPrio w
  let claims := s.hasClaims w
  let lower := (s.clusters.filter fun e => e.2.placed && decide (s.clusterPrio e.1 < p)).map (·.1)
  let ok := (rects r).filter fun q => (rectCores r q.1 q.2).all fun k => s.coreTakes k r claims lower
  let rank := fun (q : Nat × Nat) =>
    let cs := s.clustersOn (rectCores r q.1 q.2)
    (cs.foldl (fun n c => Nat.max n (s.clusterPrio c + 1)) 0) * 2 ^ 40 + s.rectRank r q
  match minBy rank ok with
  | none => []
  | some q => (s.clustersOn (rectCores r q.1 q.2)).filter fun c => lower.contains c

/-- Whether a cluster's write-out for a higher priority is due or under way (R361), or its core no longer serves it. -/
def State.outDue (s : State) (c : Nat) : Bool :=
  let x := s.cluster c
  x.placed && (decide (x.leaving ≠ 0) || s.mustMove c || s.waiting.any fun w =>
    decide (s.clusterPrio c < s.clusterPrio w) && (s.rectFor w).isNone && (s.victims w).contains c)

end Sys2Proof.Machine
end

