-- ==== Sys2Proof/Machine/Work.lean ====
section
/-! DEFINITION. The WORK instructions, BANKCFG and the scheduling steps (13_launch.md R345 to R371; 07_memory.md R207;
03_control.md R60, R70, R71). -/
namespace Sys2Proof.Machine

-- LAUNCH ----------------------------------------------------------------------------------------------------------

/-- A number of `n` bits at bit `lo` of the doubleword at an offset of a record. -/
def recField (b : Bytes) (o lo n : Nat) : Nat := bitsOf (leNat ((b.drop o).take 8)) lo n

/-- The fields of a launch record (R346). -/
def parseRecord (b : Bytes) : LaunchRec where
  prio := recField b 0 8 5
  rgn := bitOf (leNat (b.take 8)) 13
  splitok := bitOf (leNat (b.take 8)) 15
  w := recField b 0 16 4 + 1
  h := recField b 0 20 3 + 1
  team := recField b 0 24 5 + 1
  nreg := 8 * (recField b 0 32 7 + 1)
  itemq := recField b 0 40 4
  asid := recField b 0 48 16
  kpc := recField b 0x08 0 64
  ncl := recField b 0x10 0 16
  scratch := recField b 0x10 32 15
  rolemap := recField b 0x18 0 64
  ctxb := recField b 0x20 0 64
  tsave := recField b 0x28 0 64
  items := recField b 0x30 0 64
  icount := recField b 0x38 0 32
  iclose := bitOf (recField b 0x38 0 64) 32
  done := recField b 0x40 0 64
  nring := recField b 0x48 8 4
  rings := (List.range (recField b 0x48 8 4)).map fun n => recField b 0x48 (16 + 5 * n) 5 + 1
  args := (List.range 16).map fun i => BitVec.ofNat 32 (leNat ((b.drop (0x50 + 4 * i)).take 4))
  rd := (List.range (recField b 0x48 0 4)).map fun i => (recField b (0x90 + 16 * i) 0 64, recField b (0x98 + 16 * i) 0 64)
  wr := (List.range (recField b 0x48 4 4)).map fun i => (recField b (0x110 + 16 * i) 0 64, recField b (0x118 + 16 * i) 0 64)

/-- Whether an address field is a virtual address of this alignment (R171, R346). -/
def fieldOk (a m : Nat) : Bool := decide (a < 2 ^ 52) && decide (a % m = 0)

/-- The rules of R347 in their order, each with its word and whether it is kept. -/
def recordRules (b : Bytes) : List (Nat × Bool) :=
  let r := parseRecord b
  let zero := fun (o lo n : Nat) => decide (recField b o lo n = 0)
  let ranges := (r.rd ++ r.wr).filter fun x => x.2 ≠ 0
  [(1, decide (recField b 0 0 8 = 1) && zero 0 14 1 && zero 0 23 1 && zero 0 29 3 && zero 0 39 1 && zero 0 44 4 &&
      zero 0x10 16 16 && zero 0x10 47 17 && zero 0x38 33 31 && zero 0x48 12 4 && zero 0x48 56 8),
    (2, decide (r.w * r.h ≤ 12) && decide (r.ncl ≠ 0)),
    (3, decide (r.rolemap / 2 ^ (2 * r.team) = 0)),
    (4, decide (r.scratch ≤ 23552)),
    (5, !decide (1 ≤ r.itemq ∧ r.itemq ≤ 3) && (if r.itemq = 0 then decide (r.icount = 0) else decide (r.icount ≤ 2 ^ r.itemq))),
    (6, fieldOk r.kpc 4 && fieldOk r.ctxb 4096 && fieldOk r.tsave 65536 && fieldOk r.items 4 && fieldOk r.done 8 &&
      (decide (r.icount ≠ 0) || decide (r.items = 0)) && ranges.all fun x => fieldOk x.1 1),
    (7, ranges.all fun x => decide (x.1 + x.2 ≤ 2 ^ 52)),
    (8, decide (r.prio ≤ 23)),
    (9, decide (recField b 0x48 0 4 ≤ 8) && decide (recField b 0x48 4 4 ≤ 8) && decide (r.nring ≤ 8) &&
      decide (recField b 0x48 16 40 / 2 ^ (5 * r.nring) = 0))]

/-- The word of the first rule that a record breaks (R347). -/
def recordFault (b : Bytes) : Option Nat := ((recordRules b).find? fun x => !x.2).map (·.1)

/-- A range widened to whole 256-byte units (R351). -/
def widened (x : Nat × Nat) : Nat × Nat := (x.1 / 256, (x.1 + x.2 + 255) / 256)
/-- Whether two ranges meet. -/
def rangesMeet (xs ys : List (Nat × Nat)) : Bool :=
  (xs.filter fun x => x.2 ≠ 0).any fun x => (ys.filter fun y => y.2 ≠ 0).any fun y =>
    decide ((widened x).1 < (widened y).2) && decide ((widened y).1 < (widened x).2)
/-- Whether a new task with record `t` becomes a successor of a task with record `u` (R351). -/
def succeeds (t u : LaunchRec) : Bool :=
  decide (t.asid = u.asid) && (rangesMeet t.wr (u.rd ++ u.wr) || rangesMeet t.rd u.wr)

/-- The task table's part of LAUNCH (R345, R351, R365, R447): the entry, or the status. -/
def State.enterTask (s : State) (r : LaunchRec) : State × Nat :=
  if s.phase = 4 then (s, 0x80000003)
  else if bitOf (s.sysv 0x703) 3 then (s, 0x80000002)
  else
    match (List.range 256).find? fun i => (s.task i).state = .free with
    | none => (s, 0x80000001)
    | some slot =>
      let gen := (s.task slot).gen % 0x7FFFFF + 1
      let preds := (s.tasks.filter fun e => decide (e.2.state ≠ .free) && succeeds r e.2.record).map
        fun e => taskIdOf e.1 e.2.gen
      let t : Task := { Task.init with
        state := if preds.isEmpty then .active else .waiting, gen := gen, record := r, order := s.order, preds := preds
        prio := r.prio }
      ({ s.setTask slot t with order := s.order + 1 }, taskIdOf slot gen)

/-- The checks of a WORK instruction (R364). -/
def workPre (g : Group) (uses : List Use) (operandOk priv : Bool) : Pre :=
  { controlPre g uses with inRegion := false, operandOk := operandOk, privOk := priv }

/-- LAUNCH (R365). -/
def execLaunch (d a : Operand) (s0 : State) : Host.Outcome State Fault Refusal :=
  s0.leavePlace.run fun s => do
    let g0 := s.me
    let us := [dst d, srcN a 2]
    let s ← (workPre g0 us (isS d && !isV a) g0.priv).check s
    gateAccess s.me
    let g := s.me
    let va := g.scalar64 a
    let _ ← s.checkAddrs g false false 1 64 [(g.first, va)]
    counterRoom g
    let s := s.setMe g.drain
    if s.me.ownWrites va 400 || s.ownPending va 400 || s.lineBusy g.core g.asid va 400 then .error (.after (s.holdPlace s0))
    else do
      let (s, b) ← s.bodyRead va 400
      match recordFault b with
      | some w => trapW causeLaunch w
      | none => do
        let (s, x) := s.enterTask (parseRecord b)
        let s ← s.writeResult d [g.first] [BitVec.ofNat 32 x]
        .ok ((s.endPlace s0 g0.pc).finish g0 us)

-- LWAIT, LQUERY, PRIO -----------------------------------------------------------------------------------------------

/-- The low word of the completion word (R353). -/
def Task.lowWord (t : Task) : Nat :=
  (if t.whole then 2 else if t.killed ≠ 0 then 1 else 0) + 2 ^ 4 * t.grade + 2 ^ 8 * Nat.min t.killed 0x7FFFFF

/-- LWAIT (R366). -/
def execLwait (d a : Operand) (s : State) : Host.Outcome State Fault Refusal :=
  s.run fun s => do
    let g0 := s.me
    let us := [dst d, src a]
    let s ← (workPre g0 us ((isS d || isZero d) && !isVec g0 a) g0.priv).check s
    let s0 := s
    let (s, x) ← scalarRead s a
    let id := x.toNat
    -- what a channel operand names stays reserved for the instruction while it waits (R316)
    let waits : Go State := .error (.after ((s0.setMe { s0.me with twait := some (id, none) }).reservePops (onceEach us)))
    let answer := fun (s : State) (w : Nat) => do
      let s := s.setMe { s.me with twait := none }
      let s ← s.writeResult d [g0.first] [BitVec.ofNat 32 w]
      .ok (s.finish g0 us)
    match s.me.twait with
    | some (i, some w) =>
      if i = id then answer s w
      else if s.stale id then answer s 0x80000000
      else if (s.task (idSlot id)).state = .free then answer s (s.task (idSlot id)).result
      else waits
    | _ =>
      if s.stale id then answer s 0x80000000
      else if (s.task (idSlot id)).state = .free then answer s (s.task (idSlot id)).result
      else waits

/-- LQUERY's word (R366). STATE has no code for an entry that is FREE again under an unchanged generation: there it is a
free value (notes/assumptions/91.md). -/
def State.queryWord (s : State) (id : Nat) : Nat :=
  if s.stale id then 0
  else
    let t := s.task (idSlot id)
    let st := match t.state with
      | .free => Config.freeNat s.free % 4
      | .waiting => 1
      | .active => 2
      | .completing => 3
    st + 2 ^ 8 * t.prio + 2 ^ 16 * (t.preds.filter s.idLive).length + 2 ^ 24 * b2n t.nofit +
      2 ^ 32 * (t.placedN % 65536) + 2 ^ 48 * (t.doneN % 65536)

/-- LQUERY (R366). -/
def execLquery (d a : Operand) (s : State) : Host.Outcome State Fault Refusal :=
  s.run fun s => do
    let g0 := s.me
    let us := [dstN d 2, src a]
    let s ← (workPre g0 us (!isV d && !isVec g0 a) g0.priv).check s
    let (s, x) ← scalarRead s a
    let w := s.queryWord x.toNat
    let s := { s with free := s.free + 1 }
    .ok ((s.setMe (s.me.writeWide d 2 [g0.first] [w])).finish g0 us)

/-- PRIO (R368). -/
def execPrio (d a b : Operand) (s : State) : Host.Outcome State Fault Refusal :=
  s.run fun s => do
    let g0 := s.me
    let us := [dst d, src a, src b]
    let own := isZero b
    let s ← (workPre g0 us ((isS d || isZero d) && !isVec g0 a && !isVec g0 b) (own || g0.priv)).check s
    let (s, x) ← scalarRead s a
    let (s, y) ← scalarRead s b
    must (decide (x.toNat ≤ 23)) causeOperand
    must (!own || decide (x.toNat ≤ (s.task g0.task).record.prio)) causePriv
    let slot := if own then g0.task else idSlot y.toNat
    let live := own || !s.stale y.toNat
    let t := s.task slot
    let s := if live then s.setTask slot { t with prio := x.toNat } else s
    let s ← s.writeResult d [g0.first] [if live then BitVec.ofNat 32 t.prio else 0xFFFFFFFF#32]
    .ok (s.finish g0 us)

-- Items -----------------------------------------------------------------------------------------------------------

/-- The team that ITEMPUT and ITEMCLOSE name (R367): word 1 where there is none, or it has no queue. -/
def State.itemTeam (s : State) (g : Group) (b : Operand) (y : Word) : Go Nat := do
  let n := if isZero b then g.teamid else y.toNat
  mustW (decide (n < s.clusterTeams g)) causeOperand 1
  let t := s.clusterTeam g n
  mustW (decide ((s.team t).itemCap ≠ 0) && !(s.team t).done) causeOperand 1
  .ok t

/-- ITEMPUT (R367). -/
def execItemput (a b : Operand) (s : State) : Host.Outcome State Fault Refusal :=
  s.run fun s => do
    let g0 := s.me
    let us := [src a, src b]
    let s ← (workPre g0 us (!isVec g0 b) true).check s
    let s0 := s
    let (s, xs) ← readSource s s (g0.execLanes (isVec g0 a)) a
    let (s, y) ← scalarRead s b
    let t ← s.itemTeam g0 b y
    let tm := s.team t
    mustW (!tm.itemClosed) causeOperand 2
    let items := xs.filter (· ≠ emptyItem)
    -- what a channel operand names stays reserved for the instruction while it waits (R316)
    if tm.items.length + items.length ≤ tm.itemCap then .ok ((s.putItems t items).finish g0 us)
    else .error (.after (s0.reservePops [(a, xs.length), (b, 1)]))

/-- ITEMCLOSE (R367). -/
def execItemclose (b : Operand) (s : State) : Host.Outcome State Fault Refusal :=
  s.run fun s => do
    let g0 := s.me
    let us := [src b]
    let s ← (workPre g0 us (!isVec g0 b) true).check s
    let (s, y) ← scalarRead s b
    let t ← s.itemTeam g0 b y
    .ok ((s.setTeam t { s.team t with itemClosed := true }).finish g0 us)

-- NOPRE, OKPRE, GKILL ---------------------------------------------------------------------------------------------

/-- NOPRE (R363): no effect while the section is open. -/
def execNopre (s : State) : Host.Outcome State Fault Refusal :=
  s.run fun s => do
    let g0 := s.me
    let s ← (workPre g0 [] true true).check s
    .ok ((s.setMe { s.me with nopre := true }).finish g0 [])

/-- OKPRE (R363). -/
def execOkpre (s : State) : Host.Outcome State Fault Refusal :=
  s.run fun s => do
    let g0 := s.me
    let s ← (workPre g0 [] true true).check s
    .ok ((s.setMe { s.me with nopre := false }).finish g0 [])

/-- GKILL (R369): `i` is the group index. A group that ends itself does so at the issue boundary that follows, and d is
not written. -/
def State.gkill (s : State) (g0 : Group) (us : List Use) (d : Operand) (id i : Nat) : Go State :=
  let slot := idSlot id
  let t := s.task slot
  let k := groupKey slot i
  let write := fun (s : State) (x : Nat) => s.writeResult d [g0.first] [BitVec.ofNat 32 x]
  let ended := decide (t.state = .free ∨ t.state = .completing)
  if s.stale id then (write s 2).map fun s => s.finish g0 us
  else if i = 0xFFFFFFFF then
    if ended then (write s 1).map fun s => s.finish g0 us
    else if slot = g0.task then .ok ((s.finish g0 us).killTask slot)
    else (write s 0).map fun s => (s.finish g0 us).killTask slot
  else if t.record.groups ≤ i then (write s 3).map fun s => s.finish g0 us
  else if ended || (s.group k).ended then (write s 1).map fun s => s.finish g0 us
  else if k = s.cur then .ok ((s.finish g0 us).killGroup k)
  else (write s 0).map fun s => (s.finish g0 us).killGroup k

/-- GKILL (R369). -/
def execGkill (d a b : Operand) (s : State) : Host.Outcome State Fault Refusal :=
  s.run fun s => do
    let g0 := s.me
    let us := [dst d, src a, src b]
    let s ← (workPre g0 us ((isS d || isZero d) && !isVec g0 a && !isVec g0 b) g0.priv).check s
    let (s, x) ← scalarRead s a
    let (s, y) ← scalarRead s b
    s.gkill g0 us d x.toNat y.toNat

-- BANKCFG ---------------------------------------------------------------------------------------------------------

/-- Whether a bank holds a line of a live allocation (R185, R207). -/
def State.bankInUse (s : State) (c j : Nat) : Bool :=
  let pool := (s.core c).banksIn 1
  (s.teamsOn c []).any fun t => match pool.findIdx? (· = j) with
    | none => false
    | some n => decide (n < t.scratchSize / 128)

/-- The L1 lines of banks that leave cache mode are dropped (R207): which lines lie in them is a free value. -/
def State.shrinkL1 (s : State) (c : Nat) : State :=
  let core := s.core c
  let kept := ((core.l1.zipIdx).filter fun e => Config.freeBit (s.free + e.2)).map (·.1)
  { s.setCore c { core with l1 := kept.take core.l1Room } with free := s.free + core.l1.length }

/-- BANKCFG (R207). -/
def execBankcfg (d a b : Operand) (s : State) : Host.Outcome State Fault Refusal :=
  s.run fun s => do
    let g0 := s.me
    let us := [dst d, src a, src b]
    let s ← { controlPre g0 us with
      operandOk := isS d && !isVec g0 a && !isVec g0 b, privOk := g0.priv, inRegion := false }.check s
    let s0 := s
    let (s, x) ← scalarRead s a
    let (s, y) ← scalarRead s b
    let m := y.toNat
    must (decide (m ≤ 2)) causeOperand
    let c := g0.core
    let core := s.core c
    awaits core.change.isNone
    let banks := (List.range 24).filter fun j => bitOf x.toNat j && decide (core.bankMode j ≠ m)
    let mask := banks.foldl (fun r j => r + 2 ^ j) 0
    let answer := fun (s : State) (st : Nat) => (s.writeResult d [g0.first] [BitVec.ofNat 32 st]).map fun s => s.finish g0 us
    if banks.any fun j => core.bankMode j = 2 && core.queues.any fun q => q.2.live && decide (q.2.bank = j) then answer s 1
    else if m ≠ 0 && ((core.banksIn 0).filter fun j => !banks.contains j).isEmpty then answer s 2
    else
      let shrink := fun (s : State) =>
        let s := s.setCore c ((s.core c).setMode mask m)
        if banks.any fun j => core.bankMode j = 0 then s.shrinkL1 c else s
      if banks.any fun j => decide (core.bankMode j = 1) && s.bankInUse c j then
        -- the instruction waits inside itself; what its channel operands name stays reserved for it (R316)
        let s' := shrink (s0.reservePops (onceEach us))
        let left := (banks.filter fun j => core.bankMode j = 1).foldl (fun r j => r + 2 ^ j) 0
        let s' := s'.setCore c { (s'.core c).setMode mask 3 with change := some (mask, m, left) }
        let out := (s'.teams.filter fun e => e.2.resident && decide (e.2.core = c) && decide (e.2.scratchSize ≠ 0)).map
          fun e => clusterKey e.2.task e.2.cluster
        .error (.after (out.foldl (fun s k => s.setCluster k { s.cluster k with leaving := 2 }) s'))
      else answer (shrink s) 0

-- Steps -----------------------------------------------------------------------------------------------------------

/-- NOPRE_OVERRUN (R363): a section that has been open too long is closed; the group traps at its next issue. -/
def execNopreOverrun (k : Nat) (s : State) : Host.Outcome State Fault Refusal :=
  let g := s.group k
  if g.nopre then .next (s.setGroup k { g with nopre := false, overrun := true })
  else if g.overrun && decide (g.sched = .active) then
    .next ((s.setGroup k { g with overrun := false }).takeTrap k (Trap.precise causeNopre none))
  else .next s

/-- TASK_ACTIVATION (R351). -/
def execTaskActivation (t : Nat) (s : State) : Host.Outcome State Fault Refusal :=
  let x := s.task t
  if decide (x.state = .waiting) && x.preds.all fun i => !s.idLive i then
    .next (s.setTask t { x with state := .active })
  else .next s

/-- CLUSTER_PLACEMENT (R354, R355): the first waiting cluster that a rectangle is allowed for takes it; NOFIT is set for
one that no rectangle would ever be. -/
def execClusterPlacement (c : Nat) (s : State) : Host.Outcome State Fault Refusal :=
  if s.nextPlacement = some c then
    match s.rectFor c with
    | some p => .next (s.place c p)
    | none => .next s
  else if s.waits c && !s.everFits c then
    .next (s.setTask (c / 2 ^ 16) { s.task (c / 2 ^ 16) with nofit := true })
  else .next s

/-- Whether an INACTIVE group is ready to be restored (R358, R360). -/
def State.readyToRun (s : State) (k : Nat) : Bool :=
  let g := s.group k
  decide (g.sched = .inactive) && decide (g.sleep = 0) && !g.blocked && (s.team g.team).resident &&
    decide ((s.cluster (s.clusterOfTeam g.team)).leaving = 0)

/-- The core of a group's team. -/
def State.teamCore (s : State) (k : Nat) : Nat := (s.team (s.group k).team).core
/-- The priority of a group. -/
def State.prioOf (s : State) (k : Nat) : Nat := (s.task (s.group k).task).prio
/-- The INACTIVE ready groups of a core. -/
def State.waitersOn (s : State) (c : Nat) : List Nat :=
  (s.groups.filter fun e => s.readyToRun e.1 && decide (s.teamCore e.1 = c)).map (·.1)
/-- The groups that hold the slots of a core (R360, R385). -/
def State.slotsOn (s : State) (c : Nat) : List Nat :=
  (s.groups.filter fun e => decide (e.2.core = c) && (decide (e.2.sched = .active) ||
    (decide (e.2.sched = .held) && decide (e.2.frameRetry = 1 ∨ e.2.frameRetry = 2)))).map (·.1)
/-- The group of a core that is restored next (R360). -/
def State.nextActivation (s : State) (c : Nat) : Option Nat :=
  if 64 ≤ (s.slotsOn c).length then none
  else minBy (fun k => (23 - s.prioOf k) * 2 ^ 64 + (s.group k).since) (s.waitersOn c)

/-- GROUP_ACTIVATION (R350, R360, R383). -/
def execGroupActivation (k : Nat) (s : State) : Host.Outcome State Fault Refusal :=
  if s.nextActivation (s.teamCore k) = some k then
    match s.restoreTeam (s.group k).team with
    | none => .next s
    | some s =>
      if (s.group k).frameRetry = 4 then
        -- an append that met a fault is made before the restore, or holds the group (R385)
        let s := s.setGroup k { s.group k with frameRetry := 0 }
        let s' := s.appendFrame k
        if (s'.group k).frameRetry = 4 then
          match s.translate (s.group k).asid (s.frameBase (s.group k) + 0x280) true false true with
          | .fail _ w => .next (s.frameFault k 4 none w (s.frameBase (s.group k) + 0x280))
          | _ => .next (s'.restoreGroup k)
        else .next (s'.restoreGroup k)
      else .next (s.restoreGroup k)
  else .next s

/-- ACTIVE groups of a core that may be written back (R363). -/
def State.removable (s : State) (c : Nat) : List Nat :=
  (s.slotsOn c).filter fun k => decide ((s.group k).sched = .active) && !(s.group k).nopre

/-- PRIORITY_WRITE_BACK (R360): the lowest priority goes, among equals the one activated latest. -/
def execPriorityWriteBack (k : Nat) (s : State) : Host.Outcome State Fault Refusal :=
  let c := (s.group k).core
  let victim := minBy (fun k => s.prioOf k * 2 ^ 64 + (2 ^ 64 - 1 - (s.group k).since)) (s.removable c)
  if decide (victim = some k) && (s.waitersOn c).any fun w => decide (s.prioOf k < s.prioOf w) then
    .next (s.writeBackGroup k)
  else .next s

/-- GROUP_QUANTUM (R360). -/
def execGroupQuantum (k : Nat) (s : State) : Host.Outcome State Fault Refusal :=
  let c := (s.group k).core
  if (s.removable c).contains k && (s.waitersOn c).any fun w => decide (s.prioOf k ≤ s.prioOf w) then
    .next (s.writeBackGroup k)
  else .next s

/-- BLOCKED_GROUP_WRITE_BACK (R360): of a group that is blocked, or sleeps for more than 4,096 cycles (R70). -/
def execBlockedGroupWriteBack (k : Nat) (s : State) : Host.Outcome State Fault Refusal :=
  let g := s.group k
  if (s.removable g.core).contains k && (g.blocked || (decide (g.sleep ≠ 0) && decide (4096 < g.sleepCount))) && !(s.waitersOn g.core).isEmpty then
    .next (s.writeBackGroup k)
  else .next s

/-- PRIORITY_WRITE_OUT (R361, R207, R92, R169): a step of the write-out of a cluster in the way of a higher priority, of
BANKCFG, or on a core that no longer serves it. -/
def execPriorityWriteOut (c : Nat) (s : State) : Host.Outcome State Fault Refusal :=
  let how := (s.cluster c).leaving
  if s.outDue c then .next (s.writeOut c (if how = 0 then 1 else how)) else .next s

/-- TEAM_QUANTUM (R361). -/
def execTeamQuantum (c : Nat) (s : State) : Host.Outcome State Fault Refusal :=
  let x := s.cluster c
  if x.placed && (decide (x.leaving ≠ 0) || s.waiting.any fun w => decide (s.clusterPrio c ≤ s.clusterPrio w)) then
    .next (s.writeOut c (if x.leaving = 0 then 3 else x.leaving))
  else .next s

/-- SLEEP_EXPIRY (R70): the rest of a group's sleep passes, for every group; nothing ends a sleep early. -/
def execSleepExpiry (k : Nat) (s : State) : Host.Outcome State Fault Refusal :=
  let n := (s.group k).sleep
  .next { s with groups := s.groups.map fun e => (e.1, { e.2 with sleep := e.2.sleep - n }) }

/-- AGING_ISSUE (R60): the lowest lane that has not advanced in 1,024 issues decides the next bundle, but not while a latch run
is open, whose lanes issue next (R83). -/
def execAgingIssue (k : Nat) (s : State) : Host.Outcome State Fault Refusal :=
  let g := s.group k
  if g.run.any fun r => !r.closed then .next s
  else
  match (List.range 32).find? fun l => g.isLive l && decide (1024 ≤ g.stall.read 0 l) with
  | none => .next s
  | some l => .next (s.setGroup k { g with aged := some l, stall := g.stall.erase l, blocked := false })

/-- GROUP_COMPLETION (R71): the buffer is drained and the counters retire; a fault that is left stops the group first
(R200, R201, R310). -/
def execGroupCompletion (k : Nat) (s : State) : Host.Outcome State Fault Refusal :=
  let g := s.group k
  if decide (g.sched ≠ .active) || ((List.range 32).any fun l => g.isLive l || g.isParked l) || s.frameBusy k then .next s
  else
    let s := (s.setGroup k g.drain).settle k
    let g := s.group k
    match g.sfq, faultedOps g, noImprecise g .mat with
    | e :: _, _, _ => .next ((s.setGroup k { g with sfnew := false }).takeTrap k (storeFaultTrap g e))
    | [], .error (.trap t), _ => .next (s.takeTrap k t)
    | [], _, .error (.trap t) => .next (s.takeTrap k t)
    | _, _, _ =>
      if g.ops.isEmpty && g.wcb.isEmpty && g.parts.isEmpty && g.rels.isEmpty then .next (s.endGroup k .done) else .next s

/-- Whether every write of a task's groups has been performed, those of entries in the array queues and of regions that commit
among them (R352, R353). -/
def State.taskQuiet (s : State) (slot : Nat) : Bool :=
  (s.cores.all fun c => c.2.arr.all fun e => decide (e.team / 2 ^ 20 ≠ slot)) &&
  (s.batten.list.all fun e => decide ((s.group e.2.g).task ≠ slot) || decide (e.2.st ≠ .committing)) &&
  s.groups.all fun e => decide (e.2.task ≠ slot) || (e.2.parts.isEmpty && e.2.ops.all fun o =>
    o.done || (o.isAtomic && o.accs.all fun a => decide (a.st = .got)) || !(o.isAtomic || decide (o.kind = .copy)))

/-- TASK_COMPLETION_WORD (R353): the word is written, and the entry is FREE. -/
def execTaskCompletionWord (slot : Nat) (s : State) : Host.Outcome State Fault Refusal :=
  let t := s.task slot
  if t.state ≠ .completing ∨ !s.taskQuiet slot then .next s
  else
    let id := taskIdOf slot t.gen
    let r := t.record
    let s := match s.vwrite (some 0) r.asid r.done (leBytes 4 t.lowWord ++ leBytes 4 id) (decide (r.asid = 0)) with
      | .ok s => s
      | .error (c, w, va) => s.logEvent (some unitScheduler) ⟨c, gradeExt t.ext 3, 3, 0xFF, false, t.ext, w, 0xFFFFFFFF, id, 0, va⟩
    let s := s.setTask slot { t with state := .free, result := t.lowWord }
    let told := fun (g : Group) => match g.twait with
      | some (i, none) => if i = id then { g with twait := some (i, some t.lowWord), blocked := false } else g
      | _ => g
    .next { s with
      groups := (s.groups.filter fun e => e.2.task ≠ slot).map fun e => (e.1, told e.2)
      teams := s.teams.filter fun e => e.2.task ≠ slot
      clusters := s.clusters.filter fun e => e.1 / 2 ^ 16 ≠ slot }

end Sys2Proof.Machine
end

