-- ==== Sys2Proof/Machine/Trap.lean ====
section
/-! DEFINITION. Settling a trap, the device fault queue, register misses, frame faults and debug stops
(14_contexts.md R381 to R402; 16_system.md R444; 03_control.md R87, R88). -/
namespace Sys2Proof.Machine

-- Flags and settling ----------------------------------------------------------------------------------------------

/-- A flags word that R397 describes: bits [3:2] and [31:7] are 0, and GRADE names one of the grades A to E. -/
def flagsOk (f : Nat) : Bool := decide (f / 2 ^ 7 = 0) && decide (bitsOf f 2 2 = 0) && decide (bitsOf f 4 3 ≤ 4)

/-- The grade that a pending record takes (R388, R402 step 2). -/
def settleGrade (ext : Bool) (r : FaultRec) (f : Nat) : FaultRec :=
  if r.grade = 0 then { r with grade := gradeExt ext (bitsOf f 4 3 + 1) } else r

/-- Steps 2 and 3 of R402 on a group whose trap is recorded in `r`: the record's grade, and DISCARD. -/
def State.settleTrap (s : State) (k : Nat) (r : FaultRec) (f : Nat) : State × FaultRec :=
  let g := s.group k
  let r' := settleGrade (s.task g.task).ext r f
  let s := s.noteGrade g.task r'.grade
  (if bitOf f 1 then s.setGroup k { s.group k with sfq := [], sfwait := [], sfnew := false } else s, r')

/-- Room in the store-fault record queue takes the records that wait for it, in order (R201, R376). -/
def Group.refillRecords (g : Group) : Group :=
  let n := 16 - g.sfq.length
  let g := { g with sfq := g.sfq ++ g.sfwait.take n, sfwait := g.sfwait.drop n }
  { g with sfnew := g.sfnew && !g.sfq.isEmpty }

/-- A HELD group leaves HELD (R402 steps 2 to 5, R385, R444). A group whose HCAUSE is a FRAME_FAULT retries the frame
access that faulted; another takes the frame as system software left it (R375), even while an append to it waits. -/
def State.resume (s : State) (k f : Nat) : State :=
  let g := s.group k
  match g.hrec with
  | none => s
  | some r =>
    let (s, r') := s.settleTrap k r f
    let s := s.resumeCopies k r
    let g := s.group k
    let whole := decide (r.cause ≠ causeFrame)
    let skip := bitOf f 0 && decide (r'.cls = 0)
    let g := { g with
      hrec := none, hlanes := if whole && !skip then 0#32 else g.hlanes, replayDue := g.replayDue || !bitOf f 1
      take := g.take || whole, dbgOnce := g.dbgOnce || (g.dbgStop && whole), dbgStop := g.dbgStop && !whole
      blocked := false, since := s.order }
    let s := { s with order := s.order + 1 }
    if g.frameRetry = 1 then
      let g := { g with frameRetry := 0, trapWait := none, sched := if g.trapWait.isSome then .held else .inactive
                        hrec := g.trapWait }
      match (s.setGroup k g).writeFrame g with
      | .ok s => match g.hrec with
        | some w => (s.setGroup k g.free).enqueue w
        | none => s.setGroup k g.free
      | .error (_, word, va) => (s.setGroup k g).frameFault k 1 g.hrec word va
    else if g.frameRetry = 2 then
      let g := { g with sched := .active, frameRetry := 0, replayDue := false }
      (s.setGroup k (if bitOf f 1 then g else g.replay true)).settle k
    else if g.frameRetry = 4 then s.setGroup k { g with sched := .inactive }
    else (s.setGroup k { g with sched := .inactive, frameRetry := 0 }).appendFrame k

-- The device fault queue ------------------------------------------------------------------------------------------

/-- Records that the ring holds: 2^(LOG + 6), with values of LOG above 10 acting as 10 (R396). -/
def State.fqSize (s : State) : Nat := 2 ^ (Nat.min (bitsOf (s.sysv 0x221) 0 4) 10 + 6)
/-- FQ_HEAD (R396). -/
def State.fqHead (s : State) : Nat := s.sysv 0x222 % s.fqSize
/-- FQ_TAIL (R396). -/
def State.fqTail (s : State) : Nat := s.sysv 0x223 % s.fqSize
/-- Whether a record can be appended (R392, R396): one place of the ring stays free, since equal indices mean empty. -/
def State.fqRoom (s : State) : Bool := bitOf (s.sysv 0x221) 4 && decide ((s.fqHead + 1) % s.fqSize ≠ s.fqTail)

/-- Bytes at a physical address, written by linear access; they stay within one sector (R173). -/
def State.linearBytes (s : State) (pa : Nat) (bs : Bytes) : State :=
  s.linearWrite (pa / 128) ((bs.zipIdx).map fun e => (pa % 128 + e.2, some e.1))

/-- The push of an index to FQ_QUEUE (R393), and whether it has ended. It waits while the queue has no free place (R317,
R318). A push that R319 refuses or finds dead ends without an entry. One to another device leaves through its port, under the
operation 0 of no group, and ends with the answer; a full queue's answer has it sent again. -/
def State.fqPushOne (s : State) (i : Nat) : State × Bool :=
  let qid := s.sysv 0x224
  if s.qidHere qid then
    let q := s.queue (qidCore qid) (qidIndex qid)
    if !s.qidLive qid then (s, true)
    else if 2 ^ q.logcap ≤ q.entries.length + s.reserved qid then (s, false)
    else (s.setQueue (qidCore qid) (qidIndex qid) { q with entries := q.entries ++ [(BitVec.ofNat 32 i, false)] }, true)
  else if s.fqSent then (s, false)
  else
    let (s, live) := s.peerLive (qidDev qid)
    if live then
      ({ s.toPeer ⟨0, (s.core 0).slack, some (noGroup, 0)⟩ (qidDev qid) 0 qid ⟨0x05, [], leBytes 4 i, 255, some 3⟩ with fqSent := true }, false)
    else (s, true)

/-- The push of the index that waits longest. -/
def State.fqPushes (s : State) : State :=
  match s.fqPush with
  | [] => s
  | i :: r => match s.fqPushOne i with
    | (s, true) => { s with fqPush := r }
    | (s, false) => s

/-- FAULT_RECORD_APPEND (R392, R393): the record that waits longest is appended, and its index is pushed and announced
as FQ_CTL asks; without a record, a push that waited for queue space is tried again. -/
def execFaultRecordAppend (s : State) : Host.Outcome State Fault Refusal :=
  match s.fqWait with
  | r :: rest =>
    if s.fqRoom then
      let i := s.fqHead
      let s := { s with fqWait := rest }
      let s := s.linearBytes (s.sysv 0x220 + 32 * i) r.bytes
      let s := s.forceSys 0x222 ((i + 1) % s.fqSize)
      let s := if bitOf (s.sysv 0x221) 5 then ({ s with fqPush := s.fqPush ++ [i] }).fqPushes else s
      .next (if bitOf (s.sysv 0x221) 6 then s.msix 0 else s)
    else .next s.fqPushes
  | [] => .next s.fqPushes

-- Register misses and frame faults ----------------------------------------------------------------------------------

/-- A register line has been fetched (R375, R377, R380, R381, R284), and is clean: the bytes count where the frame holds the
line as system software left it; a line that cannot be decoded marks the register poisoned, and one that can ends the mark; an
open region's checkpoint takes its copy. -/
def Group.fillLine (g : Group) (r : Nat) (line : Option Bytes) : Group :=
  let x := match line with
    | none => { g with poison := r :: g.poison.filter (· ≠ r) }
    | some b =>
      let x := if g.lines.contains r then
          (List.range 32).foldl (fun (x : Group) l => x.setVreg r l (BitVec.ofNat 32 (leNat ((b.drop (4 * l)).take 4)))) g
        else g
      { x with poison := g.poison.filter (· ≠ r) }
  let g := { x with dirty := g.dirty.filter (· ≠ r), regErr := g.regErr.erase r }
  let copied := fun (c : Ckpt) => if c.absent.contains r then
      { c with absent := c.absent.filter (· ≠ r), poison := (if g.poison.contains r then [r] else []) ++ c.poison.filter (· ≠ r)
               regErr := c.regErr.erase r
               v := (List.range 32).foldl (fun t l => t.write 0#32 (32 * r + l) (g.vreg r l)) c.v } else c
  { g with
    absent := g.absent.filter (· ≠ r), lines := g.lines.filter (· ≠ r), missing := none, blocked := false
    reg := { g.reg with ckpt := g.reg.ckpt.map copied } }

/-- REGISTER_MISS_FILL (R380, R381, R385). -/
def execRegisterMissFill (k reg : Nat) (s : State) : Host.Outcome State Fault Refusal :=
  let g := s.group k
  if g.sched ≠ .active ∨ g.lineWanted ≠ some reg ∨ s.frameBusy k then .next s
  else
    let va := s.frameBase g + 0x800 + 128 * reg
    let fill := fun (s : State) (line : Option Bytes) =>
      let g := (s.group k).fillLine reg line
      (s.setGroup k { g with used := g.used.write 0 reg (s.tick + 1) }).writeCkpt k
    match s.vread (some g.core) g.asid va 128 true with
    | .ok (s, b) => .next (fill s (some b))
    | .error (c, w, _) =>
      if c = causePoison then .next (fill s none)
      else .next (s.frameFault k 2 none w va)

/-- Whether a group holds lines of its core's register cache: it is ACTIVE, or resident under FRAME_FAULT (R380, R385). -/
def Group.resident (g : Group) : Bool :=
  decide (g.sched = .active) || (decide (g.sched = .held) && decide (g.frameRetry = 1 ∨ g.frameRetry = 2))

/-- Lines of a core's register cache that are in use (R380). -/
def State.cacheLines (s : State) (c : Nat) : Nat :=
  s.groups.foldl (fun n e => if decide (e.2.core = c) && e.2.resident then n + (e.2.nreg - e.2.absent.length) else n) 0

/-- The lines that ACTIVE groups of core `c` other than `k` hold in its register cache, as group and register. A group whose
frame cannot be written now gives none (R276, R423). -/
def State.regVictims (s : State) (c k : Nat) : List (Nat × Nat) :=
  (s.groups.filter fun e => decide (e.1 ≠ k) && decide (e.2.core = c) && decide (e.2.sched = .active) &&
    !s.frameBusy e.1).flatMap fun e => ((List.range e.2.nreg).filter fun r => !e.2.absent.contains r).map fun r => (e.1, r)

/-- A line gives way to group `k` of core `c` (R380): the least recently used one of another ACTIVE group. A dirty line is written to its frame, which decodes it (R96); a clean one is given up, and the frame's copy
stands. An instruction that waits has read and written no register yet, so no line of its group is in use. A write that faults
is that group's FRAME_FAULT (R385). None when there is no such line. -/
def State.evictRegLine (s : State) (c k : Nat) : Option State :=
  let age := fun (v : Nat × Nat) => (s.group v.1).used.read 0 v.2
  match minBy age (s.regVictims c k) with
  | none => none
  | some (j, r) =>
    let g := s.group j
    let bad := g.poison.contains r || decide (2 < g.wrongBytes r)
    let out := fun (s : State) (poison : List Nat) => s.setGroup j { s.group j with
      absent := r :: g.absent, regErr := g.regErr.erase r, dirty := g.dirty.filter (· ≠ r), poison := poison }
    if !g.dirty.contains r then some (out s (g.poison.filter (· ≠ r)))
    else
      match s.frameLine g.core g.asid (s.frameBase g + 0x800 + 128 * r) (g.vregLine r) bad with
      | .ok s => some (out (s.noteDecode g r) ((if bad then [r] else []) ++ g.poison.filter (· ≠ r)))
      | .error (_, w, va) =>
        let s := (s.leaveQueues j).drainGroup j
        some ((s.setGroup j (s.group j).suspend).frameFault j 1 none w va)

/-- Lines give way until `more` of the 8,192 are free; `n` bounds the attempts. -/
def State.evictRegLines (s : State) (c k more : Nat) : Nat → State
  | 0 => s
  | n + 1 =>
    if s.cacheLines c + more ≤ Config.registerLines then s
    else match s.evictRegLine c k with
      | none => s
      | some s => State.evictRegLines s c k more n

/-- Lines of the register cache of core `c` give way to group `k`, until `more` of the 8,192 are free (R22, R380). -/
def State.makeLines (s : State) (c k more : Nat) : State :=
  s.evictRegLines c k more (s.cacheLines c + more - Config.registerLines + s.groups.length)

/-- The cores with groups. -/
def State.coresInUse (s : State) : List Nat := (s.groups.map fun e => e.2.core).eraseDups

/-- No core holds more than 8,192 lines (R22). -/
def State.cachesFit (s : State) : Bool := s.coresInUse.all fun c => decide (s.cacheLines c ≤ Config.registerLines)

/-- Whether a group waits until fewer than four groups of its core are resident under FRAME_FAULT (R385). -/
def Group.frameWaits (g : Group) : Bool :=
  decide (g.sched = .held) && g.hrec.isNone && decide (g.frameRetry = 1 ∨ g.frameRetry = 2)

/-- FRAME_FAULT (R385) of a group that waited for one of the four residents of its core: the fault arises now. -/
def execFrameFault (k va word : Nat) (s : State) : Host.Outcome State Fault Refusal :=
  let g := s.group k
  if g.frameWaits && decide (s.frameHeld g.core < 4) && decide (g.frameLate = some (word, va)) then
    let r := frameFaultRec s g word va
    .next ((s.setGroup k { g with hrec := some r, frameLate := none }).enqueue r)
  else .next s

/-- LOCAL_TRAP (R391): the group's bundle takes a precise trap that R390 makes local. -/
def execLocalTrap (k cause word : Nat) (s : State) : Host.Outcome State Fault Refusal :=
  let t := Trap.precise cause (some word)
  if decide ((s.group k).sched = .active) && (s.group k).localTrap t then .next (s.takeTrap k t) else .next s

/-- SUPERVISOR_TRAP (R392): the group's bundle takes a precise trap that R390 does not make local. -/
def execSupervisorTrap (k cause word : Nat) (s : State) : Host.Outcome State Fault Refusal :=
  let t := Trap.precise cause (some word)
  if decide ((s.group k).sched = .active) && !(s.group k).localTrap t then .next (s.takeTrap k t) else .next s

-- Debug stops -------------------------------------------------------------------------------------------------------

/-- A debug stop (R444): 1 BRK, 2 a breakpoint register, 3 the end of a step, 4 OP stop or STOPTASK. `after` is set for
BRK. -/
def debugTrap (word : Nat) (after : Bool) : Trap := ⟨causeBreak, some word, 0, none, 0, none, after, true⟩

/-- A group is to make a debug stop at its next issue boundary, one that has not been placed yet at its first (R443, R444). -/
def State.haltGroup (s : State) (k : Nat) : State :=
  let s := if (s.groups.any fun e => e.1 = k) then s else s.setGroup k (s.newGroup k)
  let g := s.group k
  if g.ended || g.dbgStop then s else s.setGroup k { g with dbg := true }

/-- The group makes a debug stop: MSI-X vector 3 (R437), and with STOPTASK every group of its task is to stop (R443). -/
def State.debugStop (s : State) (k word : Nat) (after : Bool) : State :=
  let task := (s.group k).task
  let s := s.setGroup k { s.group k with dbg := false, dbgStep := 0, dbgLeft := [], dbgOnce := false }
  let s := (s.takeTrap k (debugTrap word after)).msix 3
  let s := s.setGroup k { s.group k with dbgStop := true }
  if bitOf (s.sysv 0x600) 3 then
    (((List.range (s.task task).record.groups).map (groupKey task)).filter (· ≠ k)).foldl State.haltGroup s
  else s

/-- The breakpoint registers that hold an address (R443, R444). -/
def State.marked (s : State) (va : Nat) : Bool :=
  (List.range 16).any fun n => bitOf (s.sysv (0x610 + n)) 0 && decide (s.sysv (0x610 + n) / 4 = va / 4)

/-- The masks of the bundles of a group, by ascending program counter (R88); `n` bounds their number. -/
def Group.bundles (g : Group) : Nat → Word → List Word
  | 0, _ => []
  | n + 1, m =>
    match g.bundleIn m with
    | [] => []
    | ls => maskOfLanes ls :: g.bundles n (m &&& ~~~maskOfLanes ls)

/-- The group right before its bundle issues: an aged lane decides it (R60), and an all-bundle step begins (R88). -/
def Group.ready (g : Group) : Group :=
  let g := if g.run.all (·.closed) && g.aged.isNone && decide (g.dbgStep ≠ 3) then
      { g with aged := (List.range 32).find? fun l => g.isLive l && decide (1024 ≤ g.stall.read 0 l) } else g
  if g.dbgStep = 2 then { g with dbgStep := 3, stepBlocked := false, dbgLeft := g.bundles 32 0xFFFFFFFF#32 } else g

/-- Whether the bundle that a group is about to issue holds a marked word (R444): the word itself, or the second word of an
IMX pair. -/
def State.breakpointDue (s : State) (k : Nat) : Bool :=
  let g := (s.group k).ready
  let ctl := s.sysv 0x600
  let pc := g.pc
  bitOf ctl 0 && !g.dbgOnce && decide (bitsOf ctl 16 16 = g.asid) &&
    decide (ctl / 2 ^ 32 = 0 ∨ ctl / 2 ^ 32 = g.taskId) && !g.bundle.isEmpty &&
    (s.marked pc.toNat || (decide (s.nextWord g.core g.asid g.priv pc = pc + 8#64) && s.marked (pc + 4#64).toNat))

/-- Whether a debug step is in progress inside an open latch run, which counts as one step (R87). -/
def Group.inStep (g : Group) : Bool := g.run.isSome && decide (g.dbgStep = 1 ∨ g.dbgStep = 3)

/-- BREAKPOINT_HIT (R444, R87, R88): the group makes the debug stop that is due before its next issue: one that was
asked for, the end of a step, or a breakpoint; none while a step is inside a latch run. -/
def execBreakpointHit (k : Nat) (s : State) : Host.Outcome State Fault Refusal :=
  let g := s.group k
  if g.sched ≠ .active ∨ g.inStep then .next s
  else if g.dbg then .next (s.debugStop k 4 false)
  else if g.dbgStep = 4 then .next (s.debugStop k 3 false)
  else if s.breakpointDue k then .next ((s.setGroup k g.ready).debugStop k 2 false)
  else .next s

/-- The group that a debug command names, if its task is in the table (R443). -/
def State.debugGroup (s : State) (task group : Nat) : Option Nat :=
  let k := groupKey (idSlot task) group
  if s.idLive task && decide (group < (s.task (idSlot task)).record.groups) then some k else none

/-- DBG_CMD_RESUME (R444): ignored unless the group is in a debug stop. -/
def State.debugResume (s : State) (task group : Nat) : State :=
  match s.debugGroup task group with
  | none => s
  | some k => if (s.group k).dbgStop && (s.group k).hrec.isSome then s.resume k 0 else s

/-- DBG_CMD_STEP (R444): one step in the mode of DBG_CTL.STEP, 1 head bundle and 2 all bundles (R443). -/
def State.debugStep (s : State) (task group : Nat) : State :=
  match s.debugGroup task group with
  | none => s
  | some k =>
    if (s.group k).dbgStop && (s.group k).hrec.isSome then
      let s := s.resume k 0
      s.setGroup k { s.group k with stepBlocked := false, dbgStep := if bitsOf (s.sysv 0x600) 1 2 = 2 then 2 else 1 }
    else s

/-- DBG_CMD_STOP (R444): takes effect at the group's next issue boundary. -/
def State.debugHalt (s : State) (task group : Nat) : State :=
  match s.debugGroup task group with
  | none => s
  | some k => s.haltGroup k

/-- DBG_CMD_RESUME (R444). -/
def execDbgCmdResume (task group : Nat) (s : State) : Host.Outcome State Fault Refusal := .next (s.debugResume task group)
/-- DBG_CMD_STEP (R444). -/
def execDbgCmdStep (task group : Nat) (s : State) : Host.Outcome State Fault Refusal := .next (s.debugStep task group)
/-- DBG_CMD_STOP (R444). -/
def execDbgCmdStop (task group : Nat) (s : State) : Host.Outcome State Fault Refusal := .next (s.debugHalt task group)

end Sys2Proof.Machine
end

