-- ==== Sys2Proof/Machine/Resil.lean ====
section
/-! DEFINITION. The resilient memory's machinery: placement in reverse, spares, drops, rebuild, slice retirement,
scrubbing, repair, and the MAINT instructions (15_resilience.md R404 to R433; R455). -/
namespace Sys2Proof.Machine

-- Events ------------------------------------------------------------------------------------------------------------

/-- A record of kind 3 (R455): a channel or slice, or 0x1FF for none. -/
def State.resEvent (s : State) (unit : Option Nat) (grade ch va : Nat) : State :=
  s.logEvent unit (eventRec grade (3 * 2 ^ 28 + ch) va)

/-- A record of kind 3 whose grade no rule gives: A or B, a free value. -/
def State.resEventFree (s : State) (unit : Option Nat) (ch va : Nat) : State :=
  { s with free := s.free + 1 }.resEvent unit (1 + b2n (Config.freeBit s.free)) ch va

-- Placement in reverse ----------------------------------------------------------------------------------------------

/-- The data slot number of a physical slot (R409); none for a spare slot. -/
def dataSlot (sl : Nat) : Option Nat := if sl % 12 = 11 then none else some (11 * (sl / 12) + sl % 12)
/-- The physical slot of a data slot number. -/
def physSlot (d : Nat) : Nat := d + d / 11

/-- The page and position that R408 places in a data slot of a channel. -/
def pageOf (ch d : Nat) : Option (Nat × Nat) :=
  let e := ch / 128
  let j := ch % 128 / 32
  let i := ch % 32
  let row := d / 9
  let k := d % 9
  let page := fun (a x pass pos : Nat) =>
    let n := 192 * row + 3 * (32 * pass + x) + a
    if n ≤ Config.lastPage then some (n, pos) else none
  if k < 2 then page e i k j
  else if k < 4 then page e (i ^^^ 16) (k - 2) (4 + j)
  else if k < 6 then page ((e + 2) % 3) i (k - 4) (8 + j)
  else if k < 8 then page ((e + 1) % 3) (i ^^^ 16) (k - 6) (12 + j)
  else
    let x := i ^^^ 16
    if (j + 4 - x % 4) % 2 = 0 then page ((e + 2) % 3) x ((j + 4 - x % 4) % 4 / 2) 16
    else page ((e + 1) % 3) i ((j + 7 - i % 4) % 4 / 2) 17

/-- The pages whose entries of the Page Placement Array differ from a cold reset's: every page that is not in STATE 3, and every
relocated one (R411, R440). -/
def State.enteredPages (s : State) : List Nat :=
  (s.mem.filterMap fun c =>
    if Config.reservedBase ≤ c.1 ∧ c.1 < Config.reservedBase + 8 * (Config.lastPage + 1) then
      some ((c.1 - Config.reservedBase) / 8) else none).eraseDups

/-- The page and position whose chunks a physical slot holds now, if any (R408, R409, R411). -/
def State.slotPage (s : State) (ch sl : Nat) : Option (Nat × Nat) :=
  match dataSlot sl with
  | some d =>
    match pageOf ch d with
    | some (n, p) => if s.home n p = (ch, sl) then some (n, p) else none
    | none => none
  | none =>
    s.enteredPages.findSome? fun n => (ppaRelocs (s.ppa n)).findSome? fun r =>
      if r.2.1 = ch ∧ 12 * r.2.2 + 11 = sl then some (n, r.1) else none

-- Spares ------------------------------------------------------------------------------------------------------------

/-- Whether a channel takes new relocations (R419). -/
def ChState.takes : ChState → Bool
  | .up => true
  | .watch => true
  | .repair => false
  | .dropped => false
  | .retired => false

/-- The lowest free spare slot of a channel. -/
def State.freeSpare (s : State) (ch : Nat) : Option Nat :=
  let c := s.chan ch
  if !c.st.takes then none
  else (List.range (c.spares.length + c.slotsOut.length + 1)).find? fun x =>
    decide (x ≤ 43689) && !c.spares.contains x && !c.slotsOut.contains (12 * x + 11)

/-- The order in which the channels of a stack are tried (R419). -/
def spareOrder : List Nat :=
  [8, 24, 4, 12, 20, 28, 1] ++ (List.range 32).filter fun m => !([8, 24, 4, 12, 20, 28, 1].contains m)

/-- The spare slot that R419 chooses for a page: channel and spare number. -/
def State.chooseSpare (s : State) (n : Nat) : Option (Nat × Nat) :=
  let a := n % 192 % 3
  let x := n % 192 / 3 % 32
  let homes := (List.range 18).map (s.home n)
  let avail := homes.filter fun h => !(s.chan h.1).st.erases
  let relocs := ppaRelocs (s.ppa n)
  let stackNos := [(a + 1) % 3, (a + 2) % 3].flatMap fun e => (List.range 4).map (4 * e + ·)
  (stackNos.filter fun k => decide ((avail.filter fun h => h.1 / 32 = k).length = 1) && !(relocs.any fun r => r.2.1 / 32 = k)).findSome?
    fun k => spareOrder.findSome? fun m =>
      let ch := 32 * k + (x ^^^ m)
      (s.freeSpare ch).map fun sp => (ch, sp)

/-- Takes a spare slot. -/
def State.takeSpare (s : State) (ch sp : Nat) : State :=
  s.setChan ch { s.chan ch with spares := sp :: (s.chan ch).spares }

/-- A relocation's bits in an entry (R411). -/
def relocBits (i pos ch sp : Nat) : Nat :=
  (1 + 2 * pos + 2 ^ 6 * ch + 2 ^ 15 * sp) * 2 ^ (31 * i)

/-- An entry with a position relocated: in place of its own relocation, else in the first place that is free; none when
both are taken by other positions. -/
def ppaRelocate (e pos ch sp : Nat) : Option Nat :=
  let own := fun (i : Nat) => bitOf e (31 * i) && decide (bitsOf e (31 * i + 1) 5 = pos)
  let put := fun (i : Nat) => e - bitsOf e (31 * i) 31 * 2 ^ (31 * i) + relocBits i pos ch sp
  if own 0 then some (put 0)
  else if own 1 then some (put 1)
  else if !bitOf e 0 then some (put 0)
  else if !bitOf e 31 then some (put 1)
  else none

-- Chunks ------------------------------------------------------------------------------------------------------------

/-- One chunk of a stripe is written with its decoded value, P or Q with their value over the decoded data
(R406, R420, R428). -/
def State.rewriteChunk (s : State) (st pos : Nat) : State :=
  let er := s.erasures st
  let s := (List.range 32).foldl (fun (s : State) b =>
    let k := 32 * st + b
    let s0 := s.res.s0.read 0#8 k
    let s1 := s.res.s1.read 0#8 k
    let d := fun (i : Nat) => decodeDiff er s0 s1 i
    if pos = 16 then
      { s with res := { s.res with s0 := s.res.s0.write 0#8 k ((List.range 16).foldl (fun r i => r ^^^ d i) 0#8) } }
    else if pos = 17 then
      { s with res := { s.res with s1 := s.res.s1.write 0#8 k ((List.range 16).foldl (fun r i => r ^^^ gfShift i (d i)) 0#8) } }
    else
      let a := 512 * st + 32 * pos + b
      { s with
        mem := memSet s.mem a (memByte s.mem a ^^^ d pos)
        res := { s.res with
          s0 := s.res.s0.write 0#8 k (s0 ^^^ d pos)
          s1 := s.res.s1.write 0#8 k (s1 ^^^ gfShift pos (d pos)) } }) s
  s.clearChunkFault st pos

/-- A chunk moves to its page's new slot, or a repaired row takes its value again: a stripe that cannot be decoded is
poisoned (R416), and one that holds no data or is entered as poisoned keeps its bytes. -/
def State.moveChunk (s : State) (st pos : Nat) : State :=
  if 2 < (s.erasures st).length then s.noteStripe st
  else if s.res.poison.contains st ∨ 2 ≤ ppaState (s.ppa (st / 128)) then s.clearChunkFault st pos
  else if s.erased st pos then s.rewriteChunk st pos
  else s

/-- All chunks of a page's position move. -/
def State.moveChunks (s : State) (n pos : Nat) : State :=
  (List.range 128).foldl (fun s t => s.moveChunk (128 * n + t) pos) s

-- Slice retirement --------------------------------------------------------------------------------------------------

/-- The owner of every bucket. -/
def State.owners (s : State) : List Nat := (List.range 4096).map s.sliceOfBucket

/-- Buckets that each slice holds. -/
def countOwners (os : List Nat) : Tab Nat := os.foldl (fun t z => t.put z (t.read 0 z + 1)) []

/-- The slice that takes a bucket of slice `z` (R422): the live one with the fewest buckets on z's die, else of the whole
device. -/
def State.newOwner (s : State) (z : Nat) (counts : Tab Nat) : Option Nat :=
  let live := (List.range Config.channels).filter fun x => x ≠ z ∧ !s.res.retiredSlices.contains x
  let near := live.filter fun x => x / 128 = z / 128
  minBy (fun x => counts.read 0 x * 1024 + x) (if near.isEmpty then live else near)

/-- The next slice map: the moved buckets and their new owners (R422). -/
def State.nextOwners (s : State) (z : Nat) : List (Nat × Nat) :=
  let os := s.owners
  let mine := (List.range 4096).filter fun b => os.getD b 0 = z
  (mine.foldl (fun (r : Tab Nat × List (Nat × Nat)) b =>
    match s.newOwner z r.1 with
    | none => r
    | some x => (r.1.put x (r.1.read 0 x + 1), r.2 ++ [(b, x)])) (countOwners os, [])).2

/-- SLICE_RETIREMENT_PREPARE (R423 step 1): the next map goes to the shadow, and prepare to every requester. One
retirement runs at a time. -/
def State.prepareSlice (s : State) : State :=
  match s.res.retiring, s.res.waiting with
  | none, z :: rest =>
    let moved := s.nextOwners z
    let owner := fun (b : Nat) => ((moved.find? fun e => e.1 = b).map (·.2)).getD (s.sliceOfBucket b)
    let shadow := (List.range 4096).flatMap fun b => leBytes 2 (owner b)
    { s with
      mem := memWrite s.mem (Config.reservedBase + 0x5000000 + 0x2000 * ((s.res.gen + 1) % 4)) shadow
      res := { s.res with retiring := some z, waiting := rest, markers := [] } }
  | _, _ => s

/-- Requesters of R423: cores, shuttles, the batten, the rebuild engines, the device scheduler. -/
def requesters : Nat := 2 * Config.cores + 5

/-- PREPARE_RECEIPT (R423 step 2): a requester loads the new map and sends its markers. -/
def execPrepareReceipt (req : Nat) (s : State) : Host.Outcome State Fault Refusal :=
  if s.res.retiring.isSome && decide (req < requesters) && !s.res.markers.contains req then
    .next { s with res := { s.res with markers := req :: s.res.markers } }
  else .next s

/-- The address of a cached line. -/
def keyVa (k : Nat) : Nat := 128 * (k % 2 ^ 45)

/-- SLICE_HANDOFF (R423 steps 4 and 5): dirty sectors are written back, TLB entries and lines are dropped but for lines
with versions or held writes, and the buckets go to their new owners. -/
def execSliceHandoff (s : State) : Host.Outcome State Fault Refusal :=
  match s.res.retiring with
  | none => .next s
  | some z =>
    if s.res.markers.length < requesters then .next s
    else
      let mine := (s.l2.map (·.1)).filter fun k => s.homeSlice (keyVa k) = z
      let moved := s.nextOwners z
      let s := mine.foldl (fun s k => if (s.l2Line k).dirty then (s.noteBlock k).writeBack k else s) s
      let kept := fun (k : Nat) => (s.l2Line k).dirty || s.batten.versions.any (fun v => v.key = k) ||
        s.groups.any fun e => e.2.parts.any fun p => decide (p.st = .held) && decide (lineKey e.2.asid p.line = k)
      let s := { s with
        l2 := s.l2.filter fun e => !mine.contains e.1 || kept e.1
        tlb := s.tlb.filter fun t => t.slice ≠ z
        res := { s.res with
          map := moved.foldl (fun (m : Tab Nat) (e : Nat × Nat) => m.write 0 e.1 (e.2 + 1)) s.res.map
          gen := (s.res.gen + 1) % 4
          retiredSlices := z :: s.res.retiredSlices
          retiring := none, markers := [] } }
      .next (s.resEventFree (some (unitSlice z)) z 0).prepareSlice

/-- REHASH_REPLY (R424): a request for a bucket that has moved, which reached its retired slice late, is sent again to the new owner
under the new map, and holds the core's other requests to the bucket until it has been served. -/
def execRehashReply (k seq line : Nat) (s : State) : Host.Outcome State Fault Refusal :=
  let b := bucketOf (128 * line)
  let due := match (s.group k).ops.find? fun o => o.seq = seq with
    | none => false
    | some o => o.accs.any fun a => decide (a.addr / 128 = line) && decide (a.st = .walk ∨ a.st = .wait)
  if s.res.map.read 0 b = 0 ∨ !due then .next s
  else
    let left := s.res.reissued.filter fun e => s.unserved e.2.2.1 e.2.2.2 e.2.1 && decide (e ≠ ((s.group k).core, b, k, seq))
    let s := { s with res := { s.res with reissued := left ++ [((s.group k).core, b, k, seq)] } }
    .next (s.moveLine k seq line .walk .wait)

-- Drops -------------------------------------------------------------------------------------------------------------

/-- The slots of a charge table entry's channel are freed (R426). -/
def State.dropCharges (s : State) (p : Charge → Bool) : State :=
  { s with res := { s.res with charges := s.res.charges.filter fun c => !p c } }

/-- The stripes that a drop has left undecodable are entered in the poison table (R416): those of the pages that have been written,
where more than two channels erase. -/
def State.noteLost (s : State) : State :=
  if (s.res.chans.filter fun e => e.2.st.erases).length ≤ 2 ∧ s.res.chunkFault.isEmpty then s
  else
    s.enteredPages.foldl (fun s n =>
      if ppaState (s.ppa n) = 3 then s else (List.range 128).foldl (fun s t => s.noteStripe (128 * n + t)) s) s

/-- A channel is dropped (R417): every stripe takes it as an erasure at once, writes that its controller has not acknowledged are
made by the new one (R415), what cannot be decoded is noted (R416), the drop is logged, its slice retires, and with AUTO it is
queued for rebuild. A repair of the channel has failed then, and its held writes are performed (R428). -/
def State.dropChannel (s : State) (ch reason : Nat) : State :=
  let c := s.chan ch
  if c.st = .dropped ∨ c.st = .retired then s
  else
    let again := s.res.sent.eraseDups.filter fun st => decide (s.controllerOf st = ch)
    let s := s.setChan ch { c with st := .dropped, ended := if c.st = .repair then some false else c.ended }
    let s := (again.foldl State.resendStripe s).noteLost
    let s := if c.st = .repair then s.releaseWrites else s
    let s := s.logEvent (some (unitChannel ch)) (eventRec 2 (ch + 2 ^ 9 * reason) 0)
    let r := s.res
    let s := { s with res := { r with
      waiting := if r.retiredSlices.contains ch || r.waiting.contains ch || r.retiring = some ch then r.waiting
        else r.waiting ++ [ch]
      rebuild := if bitOf (s.sysv 0x400) 0 then { r.rebuild with queue := r.rebuild.queue ++ [ch] } else r.rebuild } }
    s.prepareSlice

/-- CHANNEL_NO_RESPONSE_DROP (R417). -/
def execChannelNoResponseDrop (ch : Nat) (s : State) : Host.Outcome State Fault Refusal :=
  if ch < Config.channels then .next (s.dropChannel ch 1) else .next s

/-- CHANNEL_UNCORRECTABLE_DROP (R417): more than DROP_AT reads from distinct slots came back uncorrectable. -/
def execChannelUncorrectableDrop (ch : Nat) (s : State) : Host.Outcome State Fault Refusal :=
  if decide (ch < Config.channels) && decide (bitsOf (s.sysv 0x400) 3 8 < (s.chan ch).uncorr.length) then
    .next (s.dropChannel ch 2)
  else .next s

/-- More than DROP_AT slots of a channel have answered reads as uncorrectable: whether within 10 ms is a free value, and the count
starts anew where it was not (R417). -/
def execUncorrectableWindow (ch : Nat) (s : State) : Host.Outcome State Fault Refusal :=
  if (s.chan ch).uncorr.length ≤ bitsOf (s.sysv 0x400) 3 8 then .next s
  else
    let s := { s with free := s.free + 1 }
    if Config.freeBit (s.free - 1) then execChannelUncorrectableDrop ch s
    else .next (s.setChan ch { s.chan ch with uncorr := [] })

-- Slots -------------------------------------------------------------------------------------------------------------

/-- Retires a physical slot (R427): a position it holds moves to the given spare. -/
def State.retireSlot (s : State) (ch sl : Nat) (to' : Option (Nat × Nat × Nat × Nat)) : State :=
  let va := match to' with
    | none => 0
    | some (n, _) => 65536 * n
  let s := match to' with
    | none => s
    | some (n, p, c, sp) =>
      let s := (s.takeSpare c sp).moveChunks n p
      match ppaRelocate (s.ppa n) p c sp with
      | some e => s.setPpa n e
      | none => s
  let x := s.chan ch
  let s := s.setChan ch { x with
    slotsOut := if x.slotsOut.contains sl then x.slotsOut else sl :: x.slotsOut
    spares := if sl % 12 = 11 then x.spares.filter (· ≠ sl / 12) else x.spares }
  let s := s.dropCharges fun c => decide (c.channel = ch ∧ c.slot = sl)
  s.resEventFree (some (unitChannel ch)) ch va

/-- A page is left unrelocated, a grade-B event (R419, R455). -/
def State.leaveUnrelocated (s : State) (ch n : Nat) : State := s.resEvent (some (unitChannel ch)) 2 ch (65536 * n)

/-- The status of retiring a slot, and the state after it (R427, R432). -/
def State.tryRetire (s : State) (ch sl : Nat) : State × Nat :=
  if Config.channels ≤ ch ∨ 524288 ≤ sl then (s, 3)
  else if (s.chan ch).st = .dropped ∨ (s.chan ch).st = .retired then (s, 2)
  else
    match s.slotPage ch sl with
    | none => (s.retireSlot ch sl none, 0)
    | some (n, p) =>
      if decide (sl % 12 ≠ 11) && decide ((ppaRelocs (s.ppa n)).length = 2) then (s.leaveUnrelocated ch n, 2)
      else
        match s.chooseSpare n with
        | none => (s.leaveUnrelocated ch n, 4)
        | some (c, sp) => (s.retireSlot ch sl (some (n, p, c, sp)), 0)

/-- A charge of a slot (R425, R426): at THRESH the channel enters WATCH, and with PREDICT the slot is retired. DESIGN CHOICE
(unsafe, log 99): a count reaches THRESH when a charge makes it equal; one that stands above THRESH because THRESH was lowered
does nothing. -/
def State.chargeMem (s : State) (ch sl : Nat) : State :=
  let cs := s.res.charges
  let passes := s.res.passes
  let r : State × Nat := match cs.find? fun c => c.channel = ch ∧ c.slot = sl with
    | some c =>
      let n := Nat.min (2 ^ 32 - 1) (c.count + 1)
      let up := replaceFirst (fun (c : Charge) => decide (c.channel = ch ∧ c.slot = sl)) (fun (c : Charge) => { c with count := n, last := passes }) cs
      ({ s with res := { s.res with charges := up } }, n)
    | none =>
      if cs.length < 3904 then
        let free := (List.range 3904).filter fun i => !(cs.any fun c => c.entry = i)
        let i := free.getD (Config.freeNat s.free % Nat.max 1 free.length) 0
        ({ s with free := s.free + 1, res := { s.res with charges := cs ++ [⟨i, ch, sl, 1, passes⟩] } }, 1)
      else
        match minBy (fun (c : Charge) => c.count * 2 ^ 64 + c.last) cs with
        | none => (s, 1)
        | some old =>
          let up := replaceFirst (fun (c : Charge) => decide (c = old)) (fun _ => (⟨old.entry, ch, sl, 1, passes⟩ : Charge)) cs
          let s : State := { s with res := { s.res with charges := up } }
          (s.resEvent (some (unitChannel old.channel)) 1 old.channel 0, 1)
  let s := r.1
  let count := r.2
  let thresh := bitsOf (s.sysv 0x401) 9 8
  if decide (thresh ≠ 0) && decide (count = thresh) then
    let c := s.chan ch
    let s := if c.st = .up then s.setChan ch { c with st := .watch } else s
    if bitOf (s.sysv 0x400) 1 then (s.tryRetire ch sl).1 else s
  else s

-- Scrubbing ---------------------------------------------------------------------------------------------------------

/-- What a byte position of a stripe without erasure shows (R425): nothing, a wrong position with its error, or more
errors than one. -/
def syndromeFinding (s0 s1 : Byte) : Option (Option (Nat × Byte)) :=
  if s0 = 0#8 ∧ s1 = 0#8 then none
  else if s1 = 0#8 then some (some (16, s0))
  else if s0 = 0#8 then some (some (17, s1))
  else
    match (List.range 16).find? fun i => gfShift i s0 = s1 with
    | some i => some (some (i, s0))
    | none => some none

/-- One correction (R425, R455): the chunk at a position, with the bytes that were wrong. -/
def State.correctChunk (s : State) (st pos : Nat) (bytes : List (Nat × Byte)) : State :=
  let s := bytes.foldl (fun (s : State) e =>
    let k := 32 * st + e.1
    if pos = 16 then { s with res := { s.res with s0 := s.res.s0.write 0#8 k 0#8 } }
    else if pos = 17 then { s with res := { s.res with s1 := s.res.s1.write 0#8 k 0#8 } }
    else
      let a := 512 * st + 32 * pos + e.1
      { s with
        mem := memSet s.mem a (memByte s.mem a ^^^ e.2)
        res := { s.res with s0 := s.res.s0.write 0#8 k 0#8, s1 := s.res.s1.write 0#8 k 0#8 } }) s
  let (ch, sl) := s.home (st / 128) pos
  let c := s.chan ch
  let s := s.setChan ch { c with corrections := Nat.min 65535 (c.corrections + 1) }
  let s := s.logEvent (some (unitChannel ch))
    (eventRec 1 (2 * 2 ^ 28 + ch + 2 ^ 9 * pos + 2 ^ 14 * bytes.length) (512 * st))
  (s.clearChunkFault st pos).chargeMem ch sl

/-- A visit to a stripe (R425): the state after it, the symbols corrected, and whether it has come to be poisoned. Pages in STATE 3
and stripes with two erasures are passed over (R412). -/
def State.scrub (s : State) (st : Nat) : State × Nat × Bool :=
  if ppaState (s.ppa (st / 128)) = 3 then (s, 0, false)
  else
    let fresh := decide (ppaState (s.ppa (st / 128)) ≠ 2) && !s.res.poison.contains st
    let er := s.erasures st
    let s := s.readFaults st
    let syn := fun (b : Nat) => (s.res.s0.read 0#8 (32 * st + b), s.res.s1.read 0#8 (32 * st + b))
    match er with
    | [] =>
      let found := (List.range 32).map fun b => (b, syndromeFinding (syn b).1 (syn b).2)
      let wrong := (List.range 18).filterMap fun p =>
        let bs := found.filterMap fun e => match e.2 with
          | some (some (q, d)) => if q = p then some (e.1, d) else none
          | _ => none
        if bs.isEmpty then none else some (p, bs)
      let s := wrong.foldl (fun s e => s.correctChunk st e.1 e.2) s
      let n := (wrong.map fun e => e.2.length).foldl (· + ·) 0
      if found.any fun e => e.2 = some none then (s.poisonEvent st (wrong.head?.map (·.1)), n, fresh) else (s, n, false)
    | [p] =>
      let bad := (List.range 32).any fun b =>
        let (s0, s1) := syn b
        if p = 17 then decide (s0 ≠ 0#8) else if p = 16 then decide (s1 ≠ 0#8) else decide (s1 ≠ gfShift p s0)
      if bad then (s.poisonEvent st (some p), 0, fresh) else (s, 0, false)
    | [_, _] => (s, 0, false)
    | p :: _ => (s.poisonEvent st (some p), 0, fresh)

/-- PATROL_SCRUB_VISIT (R425, R430): the next stripe in ascending order; the pass ends after the last placed page. -/
def execPatrolScrubVisit (st : Nat) (s : State) : Host.Outcome State Fault Refusal :=
  if bitOf (s.sysv 0x401) 0 && decide (st = s.res.cursor) then
    let s := (s.scrub st).1
    let wraps := decide (128 * (Config.lastPage + 1) ≤ st + 1)
    .next { s with res := { s.res with
      cursor := if wraps then 0 else st + 1, passes := if wraps then s.res.passes + 1 else s.res.passes } }
  else .next s

-- Reads and writes of stripes -----------------------------------------------------------------------------------------

/-- DEGRADED_READ (R414, R416): the stripe controller decodes the sector that a load waits for. -/
def execDegradedRead (k seq line : Nat) (s : State) : Host.Outcome State Fault Refusal :=
  let g := s.group k
  match g.op seq with
  | none => .next s
  | some o =>
    match o.accs.find? fun a => decide (a.addr / 128 = line) && (match a.st with
      | .degraded _ => true
      | _ => false) with
    | none => .next s
    | some a =>
      match a.st with
      | .degraded pa =>
        if g.sched ≠ .active then .next s
        else
          let r := s.fetch g.asid line o.isStore false g.priv o.ret
          .next (s.answer k o line (.degraded pa) r)
      | _ => .next s

/-- The oldest write on its way is acknowledged by its stripe controller (R415). -/
def execStripeAcknowledged (s : State) : Host.Outcome State Fault Refusal :=
  .next { s with res := { s.res with sent := s.res.sent.drop 1 } }

/-- STRIPE_WRITE (R412, R415, R416): the dirty sectors of a block are written at their stripe controller. -/
def execStripeWrite (key : Nat) (s : State) : Host.Outcome State Fault Refusal :=
  if (List.range 4).any fun i => (s.l2Line (key / 4 * 4 + i)).dirty then .next ((s.noteBlock key).writeBack key)
  else .next s

-- Rebuild -----------------------------------------------------------------------------------------------------------

/-- Replaces the rebuild. -/
def State.setRebuild (s : State) (r : Rebuild) : State := { s with res := { s.res with rebuild := r } }

/-- The engine of a die. -/
def State.engine (s : State) (e : Nat) : Engine := s.res.rebuild.engines.read Engine.init e
/-- Replaces the engine of a die. -/
def State.setEngine (s : State) (e : Nat) (x : Engine) : State :=
  s.setRebuild { s.res.rebuild with engines := s.res.rebuild.engines.put e x }

/-- Data slots of a channel (R421). -/
def dataSlots : Nat := 480591

/-- REBUILD_STAT.LEFT (R430): the pages of the channel that are not relocated there. -/
def State.rebuildLeft (s : State) (ch : Nat) : Nat :=
  dataSlots - (s.enteredPages.flatMap fun n => (ppaRelocs (s.ppa n)).filter fun r => decide ((placeOf n r.1).1 = ch)).length

/-- Whether a slot of the channel in hand is due for the engine of die `e` in a pass (R418): its page has that primary die and is not
relocated there, and the first pass takes only pages with another position on a DROPPED channel. -/
def State.slotDue (s : State) (e ch pass d : Nat) : Option (Nat × Nat) :=
  match pageOf ch d with
  | none => none
  | some (n, p) =>
    if n % 192 % 3 ≠ e ∨ s.home n p ≠ (ch, physSlot d) ∨ s.res.rebuild.skipped.contains n then none
    else
      let other := (List.range 18).any fun q => decide (q ≠ p) && decide ((s.chan (s.home n q).1).st = .dropped)
      if pass = 1 ∧ !other then none else some (n, p)

/-- The next slot that is due from data slot `d` on, over at most `fuel` slots. -/
def State.nextDue (s : State) (e ch pass : Nat) : Nat → Nat → Option (Nat × Nat × Nat)
  | 0, _ => none
  | f + 1, d =>
    match s.slotDue e ch pass d with
    | some (n, p) => some (d, n, p)
    | none => State.nextDue s e ch pass f (d + 1)

/-- The channel in hand is rebuilt: it is RETIRED (R417, R426). -/
def State.endRebuild (s : State) (ch : Nat) : State :=
  let s := s.setChan ch { s.chan ch with st := .retired }
  let s := s.dropCharges fun c => c.channel = ch
  let r := s.res.rebuild
  let s := s.setRebuild { r with cur := none, engines := [], skipped := [] }
  s.resEventFree (some (unitChannel ch)) ch 0

/-- The next page of the engine of die `e` (R418 to R420): the slot that is due, its spare, and STATE 1; a page of STATE 3 is
relocated without a copy, and a page without a spare is left. DEDUCED (safe, log 113): a page of STATE 2 keeps it (R416). No page
is due in the first pass while no other channel is DROPPED. The channel is rebuilt when all three engines are over. -/
def State.rebuildPage (s : State) (e ch : Nat) : State :=
  let r := s.res.rebuild
  let x := s.engine e
  let alone := decide (x.pass = 1) && !(s.res.chans.any fun c => c.1 ≠ ch && decide (c.2.st = .dropped))
  match if alone then none else s.nextDue e ch x.pass (dataSlots - x.cursor) x.cursor with
  | none =>
    let s := s.setEngine e { x with pass := x.pass + 1, cursor := 0 }
    if (List.range 3).all fun i => decide (3 ≤ (s.engine i).pass) then s.endRebuild ch else s
  | some (d, n, p) =>
    let x := { x with cursor := d + 1 }
    let e' := s.ppa n
    let spare := if (ppaRelocs e').length = 2 ∧ !((ppaRelocs e').any fun y => y.1 = p) then none else s.chooseSpare n
    match spare with
    | none => ((s.setRebuild { r with skipped := n :: r.skipped }).setEngine e x).leaveUnrelocated ch n
    | some (c, sp) =>
      let s := s.takeSpare c sp
      if ppaState e' = 3 then
        match ppaRelocate e' p c sp with
        | some v => (s.setPpa n v).setEngine e x
        | none => s.setEngine e x
      else (if ppaState e' = 2 then s else s.setPpa n (ppaWithState e' 1)).setEngine e { x with page := some (n, p, c, sp), t := 0 }

/-- Whether the engine of die `e` has a page or a stripe to take, or a channel to begin. -/
def State.mayCopy (s : State) (e : Nat) : Bool :=
  let r := s.res.rebuild
  let x := s.engine e
  !r.paused && (match r.cur, x.page with
    | none, _ => !r.queue.isEmpty
    | some _, none => decide (x.pass < 3)
    | some _, some _ => decide (x.t < 128))

/-- Whether the engine of die `e` has copied the whole of its page. -/
def State.mayCommit (s : State) (e : Nat) : Bool :=
  !s.res.rebuild.paused && (s.engine e).page.isSome && decide (128 ≤ (s.engine e).t)

/-- The engine that takes the next step, of those that may: a free choice (DESIGN CHOICE, log 54). -/
def State.engineNext (s : State) (may : Nat → Bool) : Option Nat :=
  let es := (List.range 3).filter may
  es[Config.freeNat s.free % Nat.max 1 es.length]?

/-- The engine of die `e` takes the next channel or page in hand, or copies one stripe. -/
def State.copyStep (s : State) (e : Nat) : State :=
  let r := s.res.rebuild
  let x := s.engine e
  match r.cur, x.page with
  | some ch, none => s.rebuildPage e ch
  | some _, some (n, p, _, _) => (s.moveChunk (128 * n + x.t) p).setEngine e { x with t := x.t + 1 }
  | none, _ =>
    match r.queue with
    | [] => s
    | ch :: q => s.setRebuild { r with queue := q, cur := some ch, engines := [], skipped := [] }

/-- REBUILD_STRIPE_COPY (R418 to R420): one of the engines that may takes its next step. -/
def execRebuildStripeCopy (s : State) : Host.Outcome State Fault Refusal :=
  match s.engineNext s.mayCopy with
  | none => .next s
  | some e => .next ({ s with free := s.free + 1 }.copyStep e)

/-- The entry of the page that the engine of die `e` has copied takes the relocation, and STATE 0 unless a full block of a lost
page is still missing (R411, R420). -/
def State.commitStep (s : State) (e : Nat) : State :=
  let x := s.engine e
  match x.page with
  | none => s
  | some (n, p, c, sp) =>
    let v := s.ppa n
    let s := s.setEngine e { x with page := none, t := 0 }
    match ppaRelocate v p c sp with
    | none => s
    | some v' => s.setPpa n (ppaWithState v' (if ppaState v = 1 then 0 else ppaState v))

/-- REBUILD_PAGE_COMMIT (R411, R420): one of the engines that have copied their page ends it. -/
def execRebuildPageCommit (s : State) : Host.Outcome State Fault Refusal :=
  match s.engineNext s.mayCommit with
  | none => .next s
  | some e => .next ({ s with free := s.free + 1 }.commitStep e)

-- Repair ------------------------------------------------------------------------------------------------------------

/-- The stripes that a row of a channel holds chunks of, with the position (R409, R431). -/
def State.rowChunks (s : State) (ch row : Nat) : List (Nat × Nat) :=
  match s.slotPage ch (row / 4) with
  | none => []
  | some (n, p) => (List.range 32).map fun t => (128 * n + 32 * (row % 4) + t, p)

/-- REPAIR_END (R428): the row takes its decoded values, the held writes are performed and the channel takes its previous state; or the
channel is dropped. -/
def execRepairEnd (ch : Nat) (ok : Bool) (s : State) : Host.Outcome State Fault Refusal :=
  let c := s.chan ch
  if c.st ≠ .repair then .next s
  else if ok then
    let s := (s.rowChunks ch c.row).foldl (fun s e => s.moveChunk e.1 e.2) s
    .next (s.setChan ch { s.chan ch with st := c.prev, ended := some true }).releaseWrites
  else .next ({ s with free := s.free + 1 }.dropChannel ch (Config.freeNat s.free % 4))

-- The MAINT instructions ----------------------------------------------------------------------------------------------

/-- The checks of a MAINT instruction (R431). -/
def maintPre (g : Group) (uses : List Use) (operandOk : Bool) : Pre :=
  { controlPre g uses with inRegion := false, operandOk := operandOk, privOk := g.priv }

/-- A MAINT instruction with two 32-bit sources, which writes what `f` answers. -/
def State.maint (s : State) (d a b : Operand) (f : State → Nat → Nat → Go (State × Nat)) : Go State := do
  let g0 := s.me
  let us := [dst d, src a, src b]
  let s ← (maintPre g0 us ((isS d || isZero d) && !isVec g0 a && !isVec g0 b)).check s
  let (s, x) ← scalarRead s a
  let (s, y) ← scalarRead s b
  let (s, w) ← f s x.toNat y.toNat
  let s ← s.writeResult d [g0.first] [BitVec.ofNat 32 w]
  .ok (s.finish g0 us)

/-- Stripes of some pages are scrubbed: symbols corrected and poisoned stripes. -/
def State.scrubPages (s : State) (n count : Nat) : State × Nat × Nat :=
  (List.range (128 * count)).foldl (fun (r : State × Nat × Nat) i =>
    let (s, c, p) := r.1.scrub (128 * n + i)
    (s, r.2.1 + c, r.2.2 + b2n p)) (s, 0, 0)

/-- MSCRUB (R432). -/
def execMscrub (d a b : Operand) (s : State) : Host.Outcome State Fault Refusal :=
  s.run fun s => s.maint d a b fun s n count => do
    must (decide (1 ≤ count ∧ count ≤ 4096) && decide (n + count ≤ Config.lastPage + 1)) causeOperand
    let (s, c, p) := s.scrubPages n count
    .ok (s, Nat.min c 65535 + 2 ^ 16 * Nat.min p 65535)

/-- MRETIRE (R427, R432). -/
def execMretire (d a b : Operand) (s : State) : Host.Outcome State Fault Refusal :=
  s.run fun s => s.maint d a b fun s ch sl => .ok (s.tryRetire ch sl)

/-- MREPAIR (R428, R432): blocks until the repair has ended. The status of a failed repair, other than 0, is a free value. -/
def execMrepair (d a b : Operand) (s : State) : Host.Outcome State Fault Refusal :=
  s.run fun s0 => s0.maint d a b fun s ch row =>
    let c := s.chan ch
    let mine := decide (c.owner = s.cur + 1)
    if Config.channels ≤ ch ∨ 2 ^ 21 ≤ row then .ok (s, 3)
    else
      match mine, c.ended with
      | true, some ok =>
        let s := s.setChan ch { c with owner := 0, ended := none }
        if ok then .ok (s, 0) else .ok ({ s with free := s.free + 1 }, 1 + Config.freeNat s.free % 5)
      | _, _ =>
        if c.st = .repair ∧ mine then .error .block
        else if (List.range 32).any fun i => (s.chan (32 * (ch / 32) + i)).st = .repair then .ok (s, 5)
        else if !c.st.takes || decide (2 ≤ ((List.range Config.channels).filter fun x => x ≠ ch ∧ (s.chan x).st = .dropped).length)
        then .ok (s, 2)
        else .error (.after ((s0.setChan ch
          { c with st := .repair, prev := c.st, row := row, owner := s.cur + 1, ended := none }).reservePops [(a, 1), (b, 1)]))

/-- MREBUILD (R418, R432). -/
def execMrebuild (d a b : Operand) (s : State) : Host.Outcome State Fault Refusal :=
  s.run fun s => s.maint d a b fun s ch op =>
    let r := s.res.rebuild
    if Config.channels ≤ ch ∨ 2 < op then .ok (s, 3)
    else if op = 0 then
      if (s.chan ch).st ≠ .dropped ∨ r.queue.contains ch ∨ r.cur = some ch then .ok (s, 2)
      else .ok (s.setRebuild { r with queue := r.queue ++ [ch] }, 0)
    else if r.cur ≠ some ch then .ok (s, 2)
    else .ok (s.setRebuild { r with paused := decide (op = 1) }, 0)

/-- MDROP (R417, R432). -/
def execMdrop (d a : Operand) (s : State) : Host.Outcome State Fault Refusal :=
  s.run fun s => s.maint d a .zero fun s ch _ =>
    if Config.channels ≤ ch then .ok (s, 3)
    else if (s.chan ch).st = .dropped ∨ (s.chan ch).st = .retired then .ok (s, 2)
    else .ok (s.dropChannel ch 0, 0)

/-- A MAINT instruction whose first source is a pair. -/
def State.maintWide (s : State) (d a b : Operand) (w : Nat) (f : State → Nat → Nat → Go (State × Nat)) : Go State := do
  let g0 := s.me
  let us := [dst d, srcN a 2, srcN b w]
  let s ← (maintPre g0 us ((isS d || isZero d) && !isV a && (if w = 2 then !isV b else !isVec g0 b))).check s
  let (s, y) ← if w = 2 then .ok (s, s.me.scalar64 b) else (do
    let (s, y) ← scalarRead s b
    .ok (s, y.toNat))
  let (s, r) ← f s (s.me.scalar64 a) y
  let s ← s.writeResult d [g0.first] [BitVec.ofNat 32 r]
  .ok (s.finish g0 us)

/-- The physical address of the level-0 leaf of an address, and the leaf (R174, R175). -/
def State.leafAt (s : State) (va : Nat) : Nat → Nat → Option (Nat × Nat)
  | 0, _ => none
  | l + 1, table =>
    let at' := table + 8 * bitsOf va (16 + 9 * l) 9
    match s.readPhys8 at' with
    | none => none
    | some e =>
      if !bitOf e 0 || entryReserved e then none
      else if bitOf e 1 then (if l = 0 ∧ !bitOf e 40 then some (at', e) else none)
      else if l = 0 ∨ bitOf e 40 then none
      else State.leafAt s va l (bitsOf e 12 28 * 4096)

/-- The migration of a page (R429 steps 3 to 5). -/
def State.migrate (s : State) (asid va leafPa e ppn : Nat) : State :=
  let page := va / 65536 * 65536
  let old := bitsOf e 16 24
  let s := (List.range 128).foldl (fun s i =>
    let k := lineKey asid ((page + 512 * i) / 128)
    if (List.range 4).any fun j => (s.l2Line (k + j)).dirty then (s.noteBlock k).writeBack k else s) s
  let s := (List.range 128).foldl (fun s i =>
    let from' := 128 * old + i
    let bs := (List.range 4).map fun j => s.readSector (4 * from' + j)
    let s := (s.noteReads ((List.range 4).map (4 * from' + ·))).writeBlock (128 * ppn + i) (bs.flatMap fun b => b.getD (zeros 128))
    if bs.any (·.isNone) then s.poisonEvent (128 * ppn + i) none else s) s
  let new := e - old * 2 ^ 16 + ppn * 2 ^ 16
  let s := s.linearBytes leafPa (leBytes 8 new)
  ({ s with tlb := s.tlb.filter fun t => !(t.covers asid va) }).tlbFill asid va

/-- MPLACE (R429, R432). -/
def execMplace (d a b : Operand) (s : State) : Host.Outcome State Fault Refusal :=
  s.run fun s => s.maintWide d a b 2 fun s va y =>
    let asid := bitsOf y 0 16
    let ppn := bitsOf y 16 24
    if bitsOf y 40 24 ≠ 0 ∨ Config.reservedPage ≤ ppn then .ok (s, 3)
    else if s.res.retiring.isSome then .ok (s, 5)
    else
      match s.readPhys8 (s.sysv 0x300 + 8 * asid) with
      | none => .ok (s, 2)
      | some root =>
        if !bitOf root 0 ∨ bitsOf root 1 11 ≠ 0 ∨ bitsOf root 41 23 ≠ 0 ∨ 2 ^ 52 ≤ va then .ok (s, 2)
        else
          match s.leafAt va 4 (bitsOf root 12 29 * 4096) with
          | none => .ok (s, 2)
          | some (pa, e) => .ok (s.migrate asid va pa e ppn, 0)

/-- MINJECT (R432): kind 0 changes a stored byte and leaves P and Q, kinds 1 and 2 place a fault on the chunk. -/
def execMinject (d a b : Operand) (s : State) : Host.Outcome State Fault Refusal :=
  s.run fun s => s.maintWide d a b 1 fun s pa y =>
    let kind := bitsOf y 8 2
    if !bitOf (s.sysv 0x400) 2 then .ok (s, 1)
    else if 65536 * (Config.lastPage + 1) ≤ pa ∨ kind = 3 ∨ y / 2 ^ 10 ≠ 0 then .ok (s, 3)
    else
      let s := s.initPage (pa / 65536)
      let st := pa / 512
      let i := pa % 512 / 32
      if kind = 0 then
        if (s.chan (s.home (st / 128) i).1).st.erases then .ok (s, 0)
        else
          let x : Byte := BitVec.ofNat 8 y
          let k := 32 * st + pa % 32
          .ok ({ s with
            mem := memSet s.mem pa (memByte s.mem pa ^^^ x)
            res := { s.res with
              s0 := s.res.s0.write 0#8 k (s.res.s0.read 0#8 k ^^^ x)
              s1 := s.res.s1.write 0#8 k (s.res.s1.read 0#8 k ^^^ gfShift i x) } }, 0)
      else .ok ({ s with res := { s.res with chunkFault := s.res.chunkFault.write 0 (32 * st + i) kind } }, 0)

/-- The code of a channel state (R417). -/
def ChState.code : ChState → Nat
  | .up => 0
  | .watch => 1
  | .repair => 2
  | .dropped => 3
  | .retired => 4

/-- The word of MSTAT (R433): none where the index is out of range. -/
def State.mstatWord (s : State) (n x : Nat) : Option Nat :=
  if n = 0 then
    if Config.channels ≤ x then none
    else
      let c := s.chan x
      some (c.st.code + 2 ^ 3 * b2n (s.res.retiredSlices.contains x) + 2 ^ 4 * (c.spares.length % 65536) +
        2 ^ 20 * (c.slotsOut.length % 65536) + 2 ^ 36 * Nat.min 65535 c.corrections)
  else if n = 1 then
    if 12 ≤ x then none
    else
      let cs := (List.range 32).map fun j => (s.chan (32 * x + j)).st
      some (((cs.zipIdx).foldl (fun r e => if e.1.takes then r else r + 2 ^ e.2) 0) +
        2 ^ 32 * b2n (cs.all fun c => decide (c = .dropped ∨ c = .retired)))
  else if n = 2 then if Config.lastPage < x then none else some (s.ppa x)
  else if Config.channels ≤ x then none
  else some ((s.owners.filter (· = x)).length % 4096 + 2 ^ 12 * b2n (s.res.retiredSlices.contains x))

/-- MSTAT (R433). -/
def execMstat (d a : Operand) (n : BitVec 2) (s : State) : Host.Outcome State Fault Refusal :=
  s.run fun s => do
    let g0 := s.me
    let us := [dstN d 2, src a]
    let s ← (maintPre g0 us (!isV d && !isVec g0 a)).check s
    let (s, x) ← scalarRead s a
    match s.mstatWord n.toNat x.toNat with
    | none => trapO causeOperand
    | some w => .ok ((s.setMe (s.me.writeWide d 2 [g0.first] [w])).finish g0 us)

end Sys2Proof.Machine
end

