-- ==== Sys2Proof/Machine/Net.lean ====
section
/-! DEFINITION. Flits, ports, links and peer requests
(12_channels.md R328 to R343; 01_machine.md R12 to R21; 19_prog_chaincopy.md R457 to R459). -/
namespace Sys2Proof.Machine

-- Flits -----------------------------------------------------------------------------------------------------------

/-- One byte of CRC-8 with polynomial 0x07, most significant bit first (R328). -/
def crc8 (c : Nat) (b : Nat) : Nat :=
  (List.range 8).foldl (fun c _ => if 128 ≤ c then (2 * c ^^^ 0x07) % 256 else 2 * c) (c ^^^ b)

/-- Bits [23:0] of a flit control word (R328). -/
def flitControl (f : Flit) : Nat :=
  f.cls + 2 ^ 2 * b2n f.head + 2 ^ 3 * b2n f.tail + 2 ^ 4 * f.idx + 2 ^ 8 * b2n f.psn + 2 ^ 9 * b2n f.abt +
    2 ^ 10 * f.crcls + 2 ^ 12 * f.crn + 2 ^ 16 * f.lseq

/-- CHK of a flit (R328). -/
def flitCheck (f : Flit) : Nat := ((f.payload.map (·.toNat)) ++ (leBytes 3 (flitControl f)).map (·.toNat)).foldl crc8 0

/-- A field of a header flit (R329). -/
def hdrField (h : Bytes) (o n : Nat) : Nat := leNat ((h.drop o).take n)
/-- DST and SRC as die, column, row and unit. -/
def hdrPlace (x : Nat) : Nat × Nat × Nat × Nat := (bitsOf x 14 2, bitsOf x 10 4, bitsOf x 7 3, bitsOf x 0 7)
/-- TYPE of a header. -/
def hdrType (h : Bytes) : Nat := hdrField h 4 1
/-- Whether a TYPE is reserved (R329). -/
def typeReserved (t : Nat) : Bool := decide (t = 0) || decide (0x0E < t)

/-- A flit that closes a packet of a class unfinished. -/
def abortFlit (c len : Nat) : Flit := ⟨c, false, false, 0, false, true, 0, 0, 0, 0, zeros len, 0⟩

-- Ports -----------------------------------------------------------------------------------------------------------

/-- The kinds of link. -/
inductive LinkKind where
  | mirmar | bridge | mesh | reed
  deriving DecidableEq, Repr

/-- Ports: 0 to 17 the Mirmar links; 18 + 64 i + 32 side + s the bridge port of stop s on the lower or higher die of
interface i; 1024 + (((4 die + plane) × 8 + y) × 12 + x) × 4 + direction the main mesh; 65536 + ((8 die + y) × 12 + x) × 4 +
direction the reed network; 66688 + 2 (32 die + s) the reed link from the core router to the reed router of stop s, and one
more the link back (R18); from 131072 on the units of a router, which give it packets of their own. Directions are 0 east, 1 north, 2 west, 3 south. The host's port and Isaby, at router (0, 7) of die
0, are no links of flits: what goes there is given to the router's outward unit 0x10 or 0x11 (R13, R16). -/
def portKind (p : Nat) : LinkKind :=
  if p < 18 then .mirmar else if p < 1024 then .bridge else if p < 65536 ∨ 131072 ≤ p then .mesh else .reed

/-- The place by which a unit's own packets come to its router. -/
def localPort (u : Nat) : Nat := 131072 + u / 128

/-- Flits of a class that the far end buffers (R334). -/
def LinkKind.credits : LinkKind → Nat
  | .mirmar => 256
  | .bridge => 64
  | .mesh => 9
  | .reed => 9
/-- Flits of the replay buffer (R335), and of the send window at full width. -/
def LinkKind.replay : LinkKind → Nat
  | .mirmar => 1024
  | .bridge => 128
  | .mesh => 16
  | .reed => 16
/-- Payload bytes of a flit (R328). -/
def LinkKind.payload : LinkKind → Nat
  | .reed => 16
  | _ => 64

/-- The router of a memory stop (R15). -/
def stopRouter (s : Nat) : Nat × Nat :=
  if s < 10 then (s + 1, 0) else if s < 16 then (11, s - 9) else if s < 26 then (26 - s, 7) else (0, 32 - s)
/-- The stop at a router, if any. -/
def stopAt (x y : Nat) : Option Nat := (List.range 32).find? fun s => stopRouter s = (x, y)
/-- The corner router of a Mirmar link (R16). -/
def mirmarRouter (n : Nat) : Nat × Nat :=
  if n % 6 < 2 then (0, 0) else if n % 6 < 4 then (11, 0) else (11, 7)
/-- The lower and higher die of a die-to-die interface. -/
def interfaceDies (i : Nat) : Nat × Nat := if i = 0 then (0, 1) else if i = 1 then (1, 2) else (0, 2)
/-- The bridge port of a stop on a die towards another. -/
def bridgePort (die other s : Nat) : Nat :=
  let i := interfaceOf die other
  18 + 64 * i + (if die = (interfaceDies i).1 then 0 else 32) + s
/-- The main-mesh port of a router. -/
def meshPort (die plane x y dir : Nat) : Nat := 1024 + (((4 * die + plane) * 8 + y) * 12 + x) * 4 + dir
/-- The reed port of a router. -/
def reedPort (die x y dir : Nat) : Nat := 65536 + ((8 * die + y) * 12 + x) * 4 + dir
/-- The reed port of a core router towards the reed router of a stop (R18). -/
def stopPort (die s : Nat) : Nat := 66688 + 2 * (32 * die + s)
/-- Whether a port leads to a stop's reed router. -/
def toStop (p : Nat) : Bool := decide (66688 ≤ p) && decide (p % 2 = 0)

/-- The router at which a port stands: die, column, row, and the plane of a mesh port. -/
def portSpot (p : Nat) : Nat × Nat × Nat × Option Nat :=
  match portKind p with
  | .mirmar => (p / 6, (mirmarRouter p).1, (mirmarRouter p).2, none)
  | .bridge =>
    let q := p - 18
    let d := interfaceDies (q / 64)
    let r := stopRouter (q % 32)
    (if q % 64 < 32 then d.1 else d.2, r.1, r.2, none)
  | .mesh =>
    if 131072 ≤ p then ((p - 131072) / 128, (p - 131072) / 8 % 16, (p - 131072) % 8, none)
    else
    let q := (p - 1024) / 4
    (q / 384, q % 12, q / 12 % 8, some (q / 96 % 4))
  | .reed =>
    if p < 66688 then
      let q := (p - 65536) / 4
      (q / 96, q % 12, q / 12 % 8, none)
    else
      let q := (p - 66688) / 2
      let r := stopRouter (q % 32)
      (q / 32, r.1, r.2, none)

/-- A port. -/
def State.port (s : State) (p : Nat) : Port := s.net.ports.read Port.init p
/-- Replaces a port. -/
def State.setPort (s : State) (p : Nat) (x : Port) : State := { s with net := { s.net with ports := s.net.ports.put p x } }

/-- A grade-A link event (R329, R333). -/
def State.linkEvent (s : State) (p : Nat) : State :=
  { s with free := s.free + 1 }.logEvent
    (match portKind p with
      | .mirmar => some (unitLink p)
      | .bridge => some (unitBridge (32 * ((p - 18) / 64) + (p - 18) % 32))
      | _ => none)
    (eventRec 1 (Config.freeWord s.free).toNat 0)

-- Routing -----------------------------------------------------------------------------------------------------------

/-- The direction of the next hop: columns first, then rows; none at the target. -/
def xyDir (x y tx ty : Nat) : Option Nat :=
  if x < tx then some 0 else if tx < x then some 2 else if y < ty then some 1 else if ty < y then some 3 else none

/-- The mesh ports that a path leaves by. -/
def xyPath (die plane tx ty : Nat) : Nat → Nat → Nat → List Nat
  | 0, _, _ => []
  | n + 1, x, y =>
    match xyDir x y tx ty with
    | none => []
    | some d =>
      meshPort die plane x y d ::
        xyPath die plane tx ty n (if d = 0 then x + 1 else if d = 2 then x - 1 else x)
          (if d = 1 then y + 1 else if d = 3 then y - 1 else y)

/-- Whether a unit is a channel block. -/
def blockUnit (u : Nat) : Bool := decide (1 ≤ u ∧ u ≤ 4)
/-- Whether a packet is a memory request to a channel block, and whether it is the reply of one (R17, R21, R329). -/
def memoryTraffic (h : Bytes) : Bool × Bool :=
  let t := hdrType h
  ((t == 0x01 || t == 0x03 || t == 0x0C) && blockUnit (bitsOf (hdrField h 0 2) 0 7),
    (t == 0x02 || t == 0x04 || t == 0x0B) && blockUnit (bitsOf (hdrField h 2 2) 0 7))

/-- Whether the bridge port of a stop is in service. -/
def State.bridgeOk (s : State) (i st : Nat) : Bool := bitOf (s.bridgeLive i) st

/-- Hops between two routers of a die. -/
def hops (a b : Nat × Nat) : Nat := (a.1 - b.1) + (b.1 - a.1) + (a.2 - b.2) + (b.2 - a.2)

/-- The stop at which a packet crosses to another die (R21, R338): for memory traffic the stop of the slice or the
nearest live one; for other traffic the live stop of least cost. -/
def State.crossing (s : State) (h : Bytes) (die other : Nat) : Option Nat :=
  let i := interfaceOf die other
  let live := (List.range 32).filter (s.bridgeOk i)
  let (_, dx, dy, _) := hdrPlace (hdrField h 0 2)
  let (_, sx, sy, _) := hdrPlace (hdrField h 2 2)
  let m := memoryTraffic h
  let want := if m.1 then stopAt dx dy else if m.2 then stopAt sx sy else none
  match want with
  | some w => minBy (fun x => ((x - w) + (w - x)) * 2 + b2n (decide (w < x))) live
  | none => minBy (fun x => (hops (sx, sy) (stopRouter x) + hops (stopRouter x) (dx, dy) +
      8 * b2n (bitOf (s.net.bridgeHalf.read 0 i) x)) * 32 + x) live

/-- The legs of a path between two routers: die, and its ends there (R21, R338). -/
def State.legs (s : State) (h : Bytes) (a b : Nat × Nat × Nat) : List (Nat × (Nat × Nat) × (Nat × Nat)) :=
  if a.1 = b.1 then [(a.1, a.2, b.2)]
  else match s.crossing h a.1 b.1 with
    | none => []
    | some st => [(a.1, a.2, stopRouter st), (b.1, stopRouter st, b.2)]

/-- The flow of a packet to a peer: one source's traffic to one queue or to one line, or one group's chain (R306, R338). -/
def flowOf (h : Bytes) : Nat :=
  hdrField h 2 2 + 2 ^ 16 * hdrField h 12 2 +
    2 ^ 32 * (if hdrType h = 0x0C ∧ bitOf (hdrField h 27 1) 2 then 2 ^ 60 + hdrField h 28 4 else hdrField h 16 8 / 128)

/-- The routers by which packets of peers come and go. -/
def mirmarRouters : List (Nat × Nat × Nat) := ((List.range 18).map fun n => (n / 6, mirmarRouter n)).eraseDups

/-- The plane on which a packet travels from end to end (R17, R336): by the bucket of a memory request and its reply, else by
the destination's core; the next one that has no retired link on the path. DESIGN CHOICE (log 153): packets that are neither
memory traffic nor between cores count as core-to-core; where the header does not tell by which corner a peer's packet comes,
or the link on which it leaves is not chosen yet, every corner counts. -/
def State.planeFor (s : State) (h : Bytes) : Nat :=
  let dev := s.sysv 0x502 % 65536
  let (d, dx, dy, _) := hdrPlace (hdrField h 0 2)
  let (sd, sx, sy, _) := hdrPlace (hdrField h 2 2)
  let m := memoryTraffic h
  let p0 := if m.1 || m.2 then bucketOf (hdrField h 16 8) % 4 else (96 * d + 12 * dy + dx) % 4
  let starts := if hdrField h 14 2 = dev then [(sd, sx, sy)] else mirmarRouters
  let ends := if hdrField h 12 2 = dev then [(d, dx, dy)]
    else match s.net.flows.find? fun (x : Nat × Nat × List Nat) => x.1 = flowOf h with
      | some x => [(x.2.1 / 6, mirmarRouter x.2.1)]
      | none => mirmarRouters
  let legs := starts.flatMap fun a => ends.flatMap fun b => s.legs h a b
  if s.net.meshOut.isEmpty then p0
  else
    (((List.range 4).map fun i => (p0 + i) % 4).find? fun p =>
      !(legs.any fun l => (xyPath l.1 p l.2.2.1 l.2.2.2 20 l.2.1.1 l.2.1.2).any fun e => s.net.meshOut.contains e)).getD p0

/-- Lanes in service of a link. -/
def Link.width (l : Link) : Nat := ((List.range 8).filter fun j => bitOf l.lanes j).length

/-- The weight of a link among those of a peer: its lanes in service, at 212.5/224 where it trained at the lower rate
(R338, R340). -/
def Link.share (l : Link) : Nat := l.width * (if l.slow then 425 else 448)

/-- The link among some that a ticket names, by their weights. -/
def State.ticket (s : State) : List Nat → Nat → Option Nat
  | [], _ => none
  | n :: r, i => if i < (s.link n).share then some n else State.ticket s r (i - (s.link n).share)

/-- Whether packets of a flow are outstanding at a port. -/
def Port.carries (x : Port) (flow : Nat) : Bool :=
  (x.out.any fun q => flowOf q.hdr = flow) || x.replay.any fun e => flowOf e.1 = flow

/-- The header flit of a packet (R329): 64 bytes. -/
def OutPkt.header (p : OutPkt) : Bytes :=
  leBytes 2 p.dst ++ leBytes 2 p.src ++ leBytes 1 p.typ ++ leBytes 1 ((p.data.length + 63) / 64) ++ leBytes 1 p.slack ++
    leBytes 1 (b2n p.resend) ++ leBytes 4 p.tag ++ leBytes 2 p.ddev ++ leBytes 2 p.sdev ++ leBytes 8 p.addr ++ leBytes 2 p.asid ++
    leBytes 1 (p.mapgen % 4) ++ (p.operand ++ zeros 37).take 37

/-- Whether a link is dead or out of service (R337, R343): neither trained nor retraining on the lanes it has left. -/
def State.linkGone (s : State) (n : Nat) : Bool :=
  let l := s.link n
  !(decide (l.st = 2 ∨ l.st = 3) || (decide (l.st = 1) && decide (l.lanes ≠ 0)))

/-- Whether packets of a flow are outstanding on a link: at its port, or not answered (R338). -/
def State.flowOpen (s : State) (n flow : Nat) : Bool :=
  (s.port n).carries flow || s.net.tags.any fun e => decide (flowOf e.1.header = flow)

/-- The Mirmar link of a flow to a peer (R338, R342): one of the live links, by their weights; the hash is a free value.
When the set of links changes, the flow stays where it is until its outstanding packets have completed, or the link is dead. -/
def State.mirmarFor (s : State) (h : Bytes) : State × Option Nat :=
  let dev := hdrField h 12 2
  let (s, e) := s.route dev
  let live := if e / 2 ^ 18 ≠ 0 ∨ dev = 0xFFFF ∨ s.sysv 0x502 % 65536 = 0xFFFF then []
    else (List.range 18).filter fun n => bitOf e n && s.linkLive n
  let flow := flowOf h
  let total := (live.map fun n => (s.link n).share).foldl (· + ·) 0
  let new := s.ticket live (Config.freeNat flow % Nat.max 1 total)
  let stay := match (s.net.flows.find? fun (x : Nat × Nat × List Nat) => x.1 = flow).map (·.2) with
    | some (n, set) => if !s.linkGone n && (decide (set = live) || s.flowOpen n flow) then some n else none
    | none => none
  match stay, new with
  | some n, _ => (s, some n)
  | none, some n => ({ s with net := { s.net with flows := s.net.flows.put flow (n, live) } }, some n)
  | none, none => (s, none)

/-- The Mirmar link at an outward unit of a corner router, 0x10 or 0x11, in the order of R16. -/
def cornerLink (die x y u : Nat) : Option Nat :=
  if u < 0x10 ∨ 0x11 < u then none
  else if (x, y) = (0, 0) then some (6 * die + (u - 0x10))
  else if (x, y) = (11, 0) then some (6 * die + 2 + (u - 0x10))
  else if (x, y) = (11, 7) then some (6 * die + 4 + (u - 0x10))
  else none

/-- Where a packet of this device leaves the mesh at its target router (R13, R16, R18): a Mirmar link of a corner, the reed
router of a stop, or a unit; a test-access port carries no traffic. -/
def lastHop (reed : Bool) (die x y u : Nat) : Hop :=
  match cornerLink die x y u with
  | some n => .port n
  | none =>
    if die ≠ 0 ∧ x = 0 ∧ y = 7 ∧ (u = 0x10 ∨ u = 0x11) then .lost
    else
      match stopAt x y with
      | some s => if reed && blockUnit u then .port (stopPort die s) else .unit u
      | none => .unit u

/-- Towards a router of the same die: the next port, or `last` there. -/
def State.toward (s : State) (h : Bytes) (reed : Bool) (at' : Nat × Nat × Nat × Option Nat) (tx ty : Nat) (last : Hop) : Hop :=
  let (die, x, y, plane) := at'
  match xyDir x y tx ty with
  | none => last
  | some d =>
    if reed then .port (reedPort die x y d)
    else .port (meshPort die (plane.getD (s.planeFor h)) x y d)

/-- The next hop of a packet that came by a port (R17, R21, R338, R341, R342). -/
def State.nextHop (s : State) (p : Nat) (h : Bytes) : State × Hop :=
  let at' := portSpot p
  let die := at'.1
  let reed := decide (portKind p = .reed)
  let (d, dx, dy, u) := hdrPlace (hdrField h 0 2)
  let cross := fun (s : State) (other : Nat) => match s.crossing h die other with
    | none => Hop.lost
    | some st =>
      let r := stopRouter st
      s.toward h reed at' r.1 r.2 (.port (bridgePort die other st))
  if toStop p then (s, .unit u)
  else if !reed && decide (hdrField h 12 2 ≠ s.sysv 0x502 % 65536) then
    let (s, n) := s.mirmarFor h
    match n with
    | none => (s, .lost)
    | some n =>
      let r := mirmarRouter n
      (s, if n / 6 = die then s.toward h reed at' r.1 r.2 (.port n) else cross s (n / 6))
  else if reed || decide (d = die) then (s, s.toward h reed at' dx dy (lastHop reed die dx dy u))
  else (s, cross s d)

-- Forwarding --------------------------------------------------------------------------------------------------------

/-- Gives a credit of a class back at an input port (R334). -/
def State.owe (s : State) (p c : Nat) : State :=
  let x := s.port p
  s.setPort p { x with owed := x.owed.write 0 c (x.owed.read 0 c + 1) }

/-- A flit goes to the packets of an output port; `held` says whether it lies in the input's buffer. None where its packet is
not there any more. -/
def Port.enqueue (x : Port) (inp : Nat) (h : Bytes) (f : Flit) (held : Bool) : Option Port :=
  let ends := f.tail || f.abt
  let mine := fun (q : Packet) => decide (q.input = inp) && !q.closed && decide (q.cls = f.cls) && decide (q.hdr = h)
  if f.head then some { x with out := x.out ++ [⟨h, f.cls, [(held, f)], hdrField h 6 1, 0, inp, false, ends⟩] }
  else if x.out.any mine then
    some { x with out := replaceFirst mine (fun (q : Packet) => { q with flits := q.flits ++ [(held, f)], closed := ends }) x.out }
  else none

/-- A local unit takes a flit (R328): it acts on a packet once its last flit has arrived; ABT discards what it has of it. -/
def Port.take (x : Port) (u : Nat) (f : Flit) : Port :=
  let got := x.arriving.read [] f.cls ++ [f]
  if f.abt then { x with arriving := x.arriving.write [] f.cls [] }
  else if f.tail then { x with
    arriving := x.arriving.write [] f.cls [], delivered := x.delivered ++ [(u, got.any (·.psn), got)] }
  else { x with arriving := x.arriving.write [] f.cls got }

/-- The header of a lost notice to a packet's source (R337, R329). -/
def noticeHeader (h : Bytes) : Bytes :=
  (h.drop 2).take 2 ++ h.take 2 ++ [0x07#8, 0#8, 0#8, 0#8] ++ (h.drop 8).take 4 ++ (h.drop 14).take 2 ++ (h.drop 12).take 2 ++ zeros 48

/-- Sends a flit of a packet that came by a port along the packet's route. A packet without a route is dropped, and the
rest of one whose output port has dropped it. `held` says whether the flit came by the port's buffer: its credit goes back
when it leaves (R334). -/
def State.sendOn (s : State) (p : Nat) (h : Bytes) (f : Flit) (held : Bool) : Hop → State
  | .port q =>
    match (s.port q).enqueue p h f held with
    | some x => s.setPort q x
    | none => if held then s.owe p f.cls else s
  | .unit u =>
    let s := s.setPort p ((s.port p).take u f)
    if held then s.owe p f.cls else s
  | .lost => if held then s.owe p f.cls else s

/-- A lost notice for a packet, made at a port, in class 3 (R337). -/
def State.notice (s : State) (p : Nat) (h : Bytes) : State :=
  let n := noticeHeader h
  let (s, hop) := s.nextHop p n
  s.sendOn p n ⟨3, true, true, 0, false, false, 0, 0, 0, 0, n, 0⟩ false hop

/-- Routes a packet by its header, and answers one without a route with a lost notice (R337, R338). -/
def State.routeOf (s : State) (p : Nat) (h : Bytes) : State × Hop :=
  let (s, hop) := s.nextHop p h
  (if hop = .lost ∧ hdrType h ≠ 0x07 then s.notice p h else s, hop)

/-- Replaces the reassembly slot of a class. -/
def State.setReasm (s : State) (p c : Nat) (r : Option Reasm) : State :=
  let x := s.port p
  s.setPort p { x with reasm := x.reasm.write none c r }

/-- An open packet is closed (R333, R337): ABT on its route. -/
def State.closeOpen (s : State) (p c : Nat) (r : Reasm) : State :=
  (s.setReasm p c none).sendOn p r.hdr (abortFlit c (portKind p).payload) false r.hop

/-- An open packet is discarded (R333): ABT on its route, a grade-A link event. -/
def State.discardOpen (s : State) (p c : Nat) (r : Reasm) : State := (s.closeOpen p c r).linkEvent p

/-- Who sent a packet, and its tag. -/
def entryKey (h : Bytes) : Nat := hdrField h 8 4 + 2 ^ 32 * hdrField h 2 2 + 2 ^ 48 * hdrField h 14 2

/-- The Mirmar port by which a packet of a peer comes in, for the running values that the port holds (R459). -/
def State.noteEntry (s : State) (p : Nat) (h : Bytes) : State :=
  if p < 18 ∧ hdrField h 12 2 = s.sysv 0x502 % 65536 then
    { s with net := { s.net with entered := s.net.entered.put (entryKey h) p } }
  else s

/-- A flit at an idle slot (R333). -/
def State.slotIdle (s : State) (p : Nat) (f : Flit) : State :=
  if !f.head then s.owe p f.cls
  else if typeReserved (hdrType f.payload) then (s.owe p f.cls).linkEvent p
  else
    let s := s.noteEntry p f.payload
    let (s, hop) := s.routeOf p f.payload
    let s := s.sendOn p f.payload f true hop
    if f.tail then s else s.setReasm p f.cls (some ⟨f.payload, 1, hop⟩)

/-- A flit at its class's reassembly slot (R333). No IDX above 8 is expected (R328). -/
def State.slotFlit (s : State) (p : Nat) (f : Flit) : State :=
  match (s.port p).reasm.read none f.cls with
  | none => if f.abt then s.owe p f.cls else s.slotIdle p f
  | some r =>
    if f.abt then (s.setReasm p f.cls none).sendOn p r.hdr f true r.hop
    else if f.head then (s.discardOpen p f.cls r).slotIdle p f
    else if f.idx = r.next ∧ r.next ≤ 8 then
      (s.sendOn p r.hdr f true r.hop).setReasm p f.cls (if f.tail then none else some { r with next := r.next + 1 })
    else (s.discardOpen p f.cls r).owe p f.cls

/-- Credits that a flit returns (R334). -/
def Port.credit (x : Port) (f : Flit) : Port :=
  { x with used := x.used.write 0 f.crcls (x.used.read 0 f.crcls - f.crn) }

/-- Adds a replay to a link's RETRIES count (R335, R343). -/
def State.retry (s : State) (p : Nat) : State :=
  if p < 18 then s.setLink p { s.link p with retries := Nat.min 65535 ((s.link p).retries + 1) }
  else s.setPort p { s.port p with retries := (s.port p).retries + 1 }

/-- Whether a flit bears the number that a port accepts next: LSEQ, and on a Mirmar link the frame that extends it (R335,
R340). -/
def Port.inOrder (x : Port) (k : LinkKind) (f : Flit) : Bool :=
  decide (f.lseq = x.expect % 256) && (decide (k ≠ LinkKind.mirmar) || decide (f.frame = x.expect / 8 % 65536))

/-- A port takes what a link flit with a good CHK holds (R330, R335): acknowledged flits leave the replay buffer; a NAK asks
for a replay of the others. ACK is an LSEQ, which on a Mirmar link the frame that bears the link flit extends (R340). DESIGN
CHOICE (log 111): that frame is the one of the flit which ACK names. -/
def State.takeLinkFlit (s : State) (p : Nat) (f : Flit) : State :=
  let x := s.port p
  let w := leNat (f.payload.take 4)
  let left := match x.replay.findIdx? fun g => decide (g.2.lseq = w % 256) && (decide (portKind p ≠ .mirmar) || decide (g.2.frame = f.frame)) with
    | some i => x.replay.drop (i + 1)
    | none => x.replay
  let s := s.setPort p { x.credit f with
    replay := left
    resend := if bitOf w 8 then left.map (·.2) else x.resend.filter fun g => left.any fun e => e.2 = g }
  if bitOf w 8 && !left.isEmpty then s.retry p else s

-- The packets of this device ----------------------------------------------------------------------------------------

/-- The flits of a packet (R328): the header, and its payload in flits of 64 bytes. -/
def OutPkt.flits (p : OutPkt) : List Flit :=
  let n := (p.data.length + 63) / 64
  ⟨p.cls, true, decide (n = 0), 0, false, false, 0, 0, 0, 0, p.header, 0⟩ ::
    (List.range n).map fun i =>
      ⟨p.cls, false, decide (i + 1 = n), i + 1, p.psn, false, 0, 0, 0, 0, ((p.data.drop (64 * i)).take 64 ++ zeros 64).take 64, 0⟩

/-- A packet of this device enters the network at the router of its SRC, and goes its first hop (R338). -/
def State.putOut (s : State) (pkt : OutPkt) : State :=
  let p := localPort pkt.src
  let h := pkt.header
  let (s, hop) := s.routeOf p h
  pkt.flits.foldl (fun s f => s.sendOn p h f false hop) s

/-- The unit of a slice (R19, R329). -/
def sliceUnit (c : Nat) : Nat :=
  let r := stopRouter (c % 128 / 4)
  2 ^ 14 * (c / 128) + 2 ^ 10 * r.1 + 2 ^ 7 * r.2 + (1 + c % 4)
/-- The outward port of a Mirmar link at its corner router (R16, R329). -/
def mirmarUnit (n : Nat) : Nat :=
  let r := mirmarRouter n
  2 ^ 14 * (n / 6) + 2 ^ 10 * r.1 + 2 ^ 7 * r.2 + 0x10 + n % 2

-- Requests from peers -------------------------------------------------------------------------------------------------

/-- Whether a request writes memory (R287). -/
def peerStores : PeerKind → Bool
  | .load => false
  | .query => false
  | .push => false
  | .store => true
  | .copyWrite => true
  | .atomic _ => true
  | .cas => true
/-- TYPE of the answer to a request (R329, R341). -/
def peerAnswer : PeerKind → Nat
  | .load => 0x02
  | .atomic _ => 0x02
  | .cas => 0x02
  | .store => 0x04
  | .copyWrite => 0x04
  | .push => 0x06
  | .query => 0x0A
/-- Bytes that a request names. -/
def peerSize (q : PeerReq) : Nat :=
  match q.kind with
  | .store => q.data.length
  | .copyWrite => q.data.length
  | .push => 0
  | .query => 0
  | _ => q.n
/-- The lines that a request names. -/
def peerLines (q : PeerReq) : List Nat :=
  if peerSize q = 0 then [] else (List.range ((q.va % 128 + peerSize q + 127) / 128)).map fun i => q.va / 128 + i
/-- An access for a peer's request is one of its ASID; ASID 0 is privileged. -/
def peerPriv (q : PeerReq) : Bool := decide (q.asid = 0)

/-- A packet for a peer that is kept until its acknowledgement (R337). -/
def State.keepOut (s : State) (p : OutPkt) : State :=
  { s with net := { s.net with kept := s.net.kept ++ [p], peerOut := s.net.peerOut ++ [p] } }

/-- An answer to a peer (R337, R341, R458). DESIGN CHOICE (log 154): the first byte of OPERAND says how the request fared, 0
done, 1 refused, 3 full; undecodable data carry PSN; class and SLACK, which no rule gives an answer, are free values. -/
def State.answerPeer (s : State) (q : PeerReq) (st : Nat) (psn : Bool) (bs : Bytes) : State :=
  let unit := match q.kind with
    | .push => coreUnit (qidCore q.va)
    | .query => coreUnit (qidCore q.va)
    | _ => sliceUnit (s.homeSlice q.va)
  let inline := decide (q.kind = .query)
  { s with free := s.free + 2 }.keepOut
    ⟨peerAnswer q.kind, q.src, unit, Config.freeNat s.free % 65, false, q.tag, q.sdev, q.ddev, q.va, q.asid, s.res.gen % 4,
      leBytes 1 st ++ (if inline then bs else []), if inline then [] else bs, Config.freeNat (s.free + 1) % 4, 255, psn⟩
/-- A refusal. -/
def State.refusePeer (s : State) (q : PeerReq) : State := s.answerPeer q 1 false []

/-- The kept copies of the replies that a unit of a device has under a tag are freed (R337). -/
def State.freeReply (s : State) (dev unit tag : Nat) : State :=
  { s with net := { s.net with kept := s.net.kept.filter fun p => !decide (p.ddev = dev ∧ p.dst = unit ∧ p.tag = tag) } }

/-- REPLY_ACKNOWLEDGEMENT (R337) of the request that `key` names: its device in bits [15:0], its unit in bits [31:16], its TAG above. -/
def execReplyAcknowledgement (key : Nat) (s : State) : Host.Outcome State Fault Refusal :=
  .next (s.freeReply (key % 65536) (key / 65536 % 65536) (key / 65536 / 65536))

/-- Whether an incoming entry admits a request (R458): a write, an atomic or a push needs W. -/
def State.admits (s : State) (q : PeerReq) : Bool :=
  let writes := peerStores q.kind || decide (q.kind = .push)
  decide (q.ddev = s.sysv 0x502 % 65536) && decide (q.sdev ≠ q.ddev) && (List.range 16).any fun n =>
    let ctl := s.sysv (0x5C3 + 4 * n)
    bitOf ctl 0 && bitOf ctl 2 && decide (bitsOf ctl 32 16 = q.sdev) && decide (bitsOf ctl 16 16 = q.asid) &&
      (!writes || bitOf ctl 1)

/-- The running values of chains that a port folds (R459): none when a first packet finds no free one, or a later packet
no value of its chain. -/
def State.foldChain (s : State) (q : PeerReq) : Option (List (Nat × Nat × Word) × Word) :=
  let key := q.port * 65536 + q.sdev
  let mine := fun (e : Nat × Nat × Word) => decide (e.1 = key ∧ e.2.1 = q.group)
  let others := s.net.chains.filter fun e => !mine e
  let start := if bitOf q.chain 0 then
      (if ((others.filter fun e => e.1 / 65536 = q.port).length < 64) then some 0xFFFFFFFF#32 else none)
    else (s.net.chains.find? mine).map (·.2.2)
  start.map fun c =>
    let c := q.data.foldl crcByte c
    (if bitOf q.chain 1 then others else others ++ [(key, q.group, c)], c ^^^ 0xFFFFFFFF#32)

/-- The CRC reply of a chain's last packet (R459). -/
def State.chainFinal (s : State) (q : PeerReq) (v : Word) : State :=
  s.keepOut ⟨0x0D, q.src / 128 * 128, mirmarUnit q.port, 0, false, q.tag, q.sdev, q.ddev, q.va, q.asid, s.res.gen % 4,
    leBytes 4 v.toNat, [], 2, 255, false⟩

/-- The permission check of a write or atomic, when it reaches the home slice (R287, R458, R468). -/
def State.peerPass (s : State) (q : PeerReq) : State × Bool :=
  (peerLines q).foldl (fun r line =>
    if !r.2 then r
    else match r.1.fetch q.asid line true false (peerPriv q) 0 with
      | .line s _ => (s, true)
      | .ext x => r.1.outLive none x
      | .fail _ _ => (r.1, false)) (s, true)

/-- A line whose write has passed its check (R287, R468). Where neither the L2 nor a mapping gives its bytes, they are free
values. -/
def State.passedLine (s : State) (asid line : Nat) : Fetch :=
  let l := s.l2Line (lineKey asid line)
  if l.present then .line s l
  else match s.fetch asid line false false true 0 with
    | .line s l => .line s l
    | .ext x => .ext x
    | .fail _ _ =>
      let l := s.freeLine
      .line ({ s.allocate (lineKey asid line) 0 l with free := s.free + 128 }) l

/-- Writes a request's bytes, line by line, at most `fuel` lines. A payload that is known bad leaves its lines undecodable
(R328). -/
def State.peerWrite (s : State) (q : PeerReq) : Nat → Nat → Bytes → State
  | 0, _, _ => s
  | f + 1, va, bs =>
    if bs.isEmpty then s
    else
      let now := bs.take (128 - va % 128)
      let s := match s.passedLine q.asid (va / 128) with
        | .line s l =>
          let l := l.merge (lineBytes va now) 0
          s.putLine q.asid (va / 128) { l with poison := l.poison || q.psn }
        | .ext x => s.sendLine (s.hardware 0) (lineBytes va now) x
        | .fail _ _ => s
      State.peerWrite s q f (va + now.length) (bs.drop now.length)

/-- Performs a request's atomic (R241, R458): undecodable data are answered as such; what lies outside this device answers with
a free value. -/
def State.peerAtomic (s : State) (q : PeerReq) (k : OpKind) (x y : Bytes) : State :=
  match s.passedLine q.asid (q.va / 128) with
  | .line s l =>
    if l.poison ∨ q.psn then s.answerPeer q 0 true (zeros q.n)
    else
      let (l, olds) := performLanes k l [⟨0, q.va, .wait, [], x, y, []⟩]
      (s.putLine q.asid (q.va / 128) l).answerPeer q 0 false ((olds.map (·.2)).headD [])
  | .ext e =>
    match (s.sendRead (s.hardware 0) q.kind (q.va % 128) q.n q.data e).outsideBytes q.n e with
    | .ok (s, bs) => s.answerPeer q 0 false bs
    | .error (c, _) => if c = causePoison then s.answerPeer q 0 true (zeros q.n) else s.refusePeer q
  | .fail _ _ => s.refusePeer q

/-- Serves an admitted request, of which a write or an atomic has passed its check, as an access of its address space; one that
meets a fault is refused without a record here (R341, R458, R459). `final` is the value of the chain that it ends. -/
def State.servePeer (s : State) (q : PeerReq) (final : Option Word) : State :=
  match q.kind with
  | .load =>
    match s.vread none q.asid q.va q.n (peerPriv q) with
    | .error (c, _, _) => if c = causePoison then s.answerPeer q 0 true (zeros q.n) else s.refusePeer q
    | .ok (s, bs) => s.answerPeer q 0 false bs
  | .store => (s.peerWrite q (q.data.length / 128 + 2) q.va q.data).answerPeer q 0 false []
  | .copyWrite =>
    let s := (s.peerWrite q (q.data.length / 128 + 2) q.va q.data).answerPeer q 0 false []
    match final with
    | some v => s.chainFinal q v
    | none => s
  | .atomic op => s.peerAtomic q (.atom op q.n) q.data []
  | .cas => s.peerAtomic q (.cas q.n) (q.data.take q.n) (q.data.drop q.n)
  | .push =>
    if !s.qidHere q.va || !s.qidLive q.va then s.refusePeer q
    else
      let xs := (List.range (q.data.length / 4)).map fun i => BitVec.ofNat 32 (leNat ((q.data.drop (4 * i)).take 4))
      let x := s.queue (qidCore q.va) (qidIndex q.va)
      if 2 ^ x.logcap < x.entries.length + s.reserved q.va + xs.length then s.answerPeer q 3 false []
      else (s.setQueue (qidCore q.va) (qidIndex q.va) { x with entries := x.entries ++ xs.map fun w => (w, q.psn) }).answerPeer q 0 false []
  | .query =>
    let x := s.queue (qidCore q.va) (qidIndex q.va)
    if s.qidHere q.va && s.qidLive q.va && decide (x.asid = q.asid) then s.answerPeer q 0 false (leBytes 1 x.logcap) else s.refusePeer q

/-- Whether a request waits at a home slice: for a commit that has locked a line of it (R276), or a write or atomic for open
regions that hold one (R287). -/
def State.peerHeld (s : State) (q : PeerReq) : Bool :=
  (peerLines q).any fun line => s.locked (lineKey q.asid line) || (peerStores q.kind && s.regionHolds q.asid line)

/-- An admitted request waits at its home slice, or is served. -/
def State.settlePeer (s : State) (q : PeerReq) (final : Option Word) : State :=
  if s.peerHeld q then { s with net := { s.net with held := s.net.held ++ [(q, final)] } } else s.servePeer q final

/-- A request of a peer (R287, R337, R341, R458, R459): one that is sent again is answered from its kept copies; one that no
entry admits, or a write or atomic that fails its check on arrival, is refused; bytes of a chain are folded as they arrive. -/
def State.admitPeer (s : State) (q : PeerReq) : State :=
  let copies := s.net.kept.filter fun p => decide (p.ddev = q.sdev ∧ p.dst = q.src ∧ p.tag = q.tag)
  if !copies.isEmpty then { s with net := { s.net with peerOut := s.net.peerOut ++ copies } }
  else if s.net.held.any fun e => decide (e.1 = q) then s
  else if !s.admits q then s.refusePeer q
  else if !peerStores q.kind then s.settlePeer q none
  else
    let r := s.peerPass q
    if !r.2 then s.refusePeer q
    else if bitOf q.chain 2 && decide (q.kind = .copyWrite) then
      match s.foldChain q with
      | none => s.refusePeer q
      | some (cs, v) => { r.1 with net := { r.1.net with chains := cs } }.settlePeer q (if bitOf q.chain 1 then some v else none)
    else r.1.settlePeer q none

/-- PEER_REQUEST_ADMISSION (R287, R337, R341, R458, R459). -/
def execPeerRequestAdmission (q : PeerReq) (s : State) : Host.Outcome State Fault Refusal := .next (s.admitPeer q)

/-- A peer's request that waited is served once nothing holds its lines (R276, R287). -/
def execPeerHeldRelease (s : State) : Host.Outcome State Fault Refusal :=
  match s.net.held.find? fun e => !s.peerHeld e.1 with
  | none => .next s
  | some e => .next ({ s with net := { s.net with held := s.net.held.erase e } }.servePeer e.1 e.2)

-- Lost packets ------------------------------------------------------------------------------------------------------

/-- The shuttle's record of a copy write that no path can carry (R310): on the core, or with a team that is out. -/
def State.copyDead (s : State) (k seq : Nat) : State :=
  let g := s.group k
  let note := fun (ts : List Transfer) => ts.map fun t =>
    if t.g = k ∧ t.seq = seq then { t with status := Nat.max t.status 3 } else t
  let core := s.core g.core
  let s := s.setCore g.core { core with shuttle := note core.shuttle }
  s.setTeam g.team { s.team g.team with savedCopies := note (s.team g.team).savedCopies }

/-- An operation whose packet no route carries any more completes as a failure (R337): a copy write has status 3, a store is
recorded, a push is dead, a load or an atomic takes POISON. A push of a fault-queue index ends (R393). -/
def State.unreachable (s : State) (k seq : Nat) : State :=
  let g := s.group k
  let out := fun (st : AccSt) => match st with
    | .ext false => true
    | _ => false
  if k = noGroup then { s with fqSent := false, fqPush := s.fqPush.drop (b2n s.fqSent) }
  else
  match g.parts.find? fun p => p.ops.contains seq && out p.st with
  | some p =>
    if p.kind.isCopy then
      let s := s.copyDead k seq
      let g := if p.kind = .copy true then (s.group k).chainFails seq 3 else s.group k
      ((s.setGroup k (g.dropPart p.id)).failOps k [seq] 1).settle k
    else s.partTo k p.id (.failed 0 0)
  | none =>
    match g.op seq with
    | none => s
    | some o =>
      match o.kind with
      | .push _ _ _ =>
        if o.done ∨ !(o.accs.any fun a => out a.st) then s else (s.pushFailed k o 0).settle k
      | _ =>
        match o.accs.find? fun a => out a.st with
        | none => s
        | some a =>
          let this := fun (b : Acc) => out b.st && decide (b.addr / 128 = a.addr / 128)
          match o.kind with
          | .red _ _ => s.setGroup k (g.setOp seq fun o =>
              { o with accs := o.accs.map fun b => (if this b then { b with st := .failed 0 0 } else b) })
          | _ => ((s.setGroup k (g.setOp seq fun o => o.mapAccs this fun a => { a with st := .failed causePoison 0 })).settle k).appendFrame k

/-- A request to a peer was lost (R337): its source sends it again with RESEND if a route remains, in this step, so that no later
write of its group can overtake it; otherwise the operation completes as a failure. -/
def State.lostRequest (s : State) (e : OutPkt × Nat × Nat) : State :=
  let (s, live) := s.peerLive e.1.ddev
  if live then { s with net := { s.net with peerOut := s.net.peerOut ++ [{ e.1 with resend := true }] } }
  else { s with net := { s.net with tags := s.net.tags.erase e } }.unreachable e.2.1 e.2.2

/-- LOST_NOTICE (R337): the first unanswered packet of an operation was lost. -/
def execLostNotice (k seq : Nat) (s : State) : Host.Outcome State Fault Refusal :=
  match s.net.tags.find? fun e => decide (e.2 = (k, seq)) with
  | some e => .next (s.lostRequest e)
  | none => .next s

/-- A lost notice reaches the source of a packet (R337): a request goes again or fails; a reply is repeated from its kept copy
while a route remains. -/
def State.lostTag (s : State) (src dev tag : Nat) : State :=
  let mine := fun (p : OutPkt) => decide (p.src = src ∧ p.ddev = dev ∧ p.tag = tag)
  match s.net.tags.find? fun e => mine e.1 with
  | some e => s.lostRequest e
  | none =>
    let (s, live) := s.peerLive dev
    if live then { s with net := { s.net with
      peerOut := s.net.peerOut ++ (s.net.kept.filter mine).map fun p => { p with resend := true } } }
    else s

-- What a delivered packet does ---------------------------------------------------------------------------------------

/-- The header of a packet of the reed network, laid out as on the main mesh (R329): ADDR stands at byte 8, and TAG, ASID and
MAPGEN in the first payload flit. Its devices are this one. -/
def reedHeader (dev : Nat) (h first : Bytes) : Bytes :=
  h.take 8 ++ first.take 4 ++ leBytes 2 dev ++ leBytes 2 dev ++ (h.drop 8).take 8 ++ (first.drop 4).take 3 ++ zeros 37

/-- The kind of request of a TYPE. DESIGN CHOICE (log 154): a write's header does not tell an atomic. -/
def requestKind (t : Nat) : Option PeerKind :=
  if t = 0x01 then some .load else if t = 0x03 then some .store else if t = 0x05 then some .push
  else if t = 0x09 then some .query else if t = 0x0C then some .copyWrite else none

/-- The request of a packet from a peer (R329, R459). DESIGN CHOICE (log 154): the bytes of a read, and those of the last
payload flit, or of OPERAND, that belong to the data, which the header does not count, are free values. -/
def State.peerRequest (s : State) (k : PeerKind) (h data : Bytes) (psn : Bool) : PeerReq :=
  let marks := k = .copyWrite ∧ bitOf (hdrField h 27 1) 2
  let len := hdrField h 5 1 % 16
  let n := if len = 0 then Config.freeNat s.free % 38 else 64 * len - Config.freeNat s.free % 64
  { kind := k, port := s.net.entered.read 0 (entryKey h), src := hdrField h 2 2, tag := hdrField h 8 4
    ddev := hdrField h 12 2, sdev := hdrField h 14 2, asid := hdrField h 24 2, va := hdrField h 16 8
    n := 1 + Config.freeNat s.free % 128
    data := if peerStores k || decide (k = .push) then (if len = 0 then h.drop 27 else data).take n else []
    chain := if marks then hdrField h 27 1 else 0, group := if marks then hdrField h 28 4 else 0, psn := psn }

/-- A unit acts on a whole packet for this device (R328, R329, R337, R341, R458, R459). The packets of the device's own
accesses act by the steps of their operations (log 61). -/
def State.actOn (s : State) (reed psn : Bool) (flits : List Flit) : State :=
  let dev := s.sysv 0x502 % 65536
  let h0 := (flits.headD (abortFlit 0 64)).payload
  let pay := flits.drop 1
  let first := (pay.headD (abortFlit 0 64)).payload
  let h := if reed then reedHeader dev h0 first else h0
  let data := (if reed then pay.drop 1 else pay).flatMap (·.payload)
  let from' := hdrField h 14 2
  let tag := hdrField h 8 4
  let st := hdrField h 27 1
  if hdrField h 12 2 ≠ dev then s
  else
    let t := hdrType h
    if t = 0x07 then s.lostTag (hdrField h 0 2) from' tag
    else if from' = dev then s
    else if t = 0x02 ∨ t = 0x04 ∨ t = 0x06 ∨ t = 0x0A then
      match s.net.tags.find? fun e => decide (e.1.src = hdrField h 0 2 ∧ e.1.ddev = from' ∧ e.1.tag = tag) with
      | some e => s.acknowledged e.2.1 e.2.2 (decide (st = 0) && !psn) (if psn ∨ st = 3 then [1#8] else data)
      | none => s
    else if t = 0x08 then
      s.freeReply from' (hdrField h 2 2) tag
    else if t = 0x0D then s.chainReply tag (BitVec.ofNat 32 (hdrField h 27 4))
    else match requestKind t with
      | some k =>
        let q := s.peerRequest k h data psn
        let net := { s.net with entered := s.net.entered.erase (entryKey h) }
        { s with free := s.free + 1, net := net }.admitPeer q
      | none => s

/-- The units act on the packets that have been given to them (R328). -/
def State.receive (s : State) : State :=
  s.net.ports.foldl (fun s e =>
    let got := (s.port e.1).delivered
    if got.isEmpty then s
    else got.foldl (fun s d => s.actOn (decide (portKind e.1 = .reed)) d.2.1 d.2.2)
      (s.setPort e.1 { s.port e.1 with delivered := [] })) s

/-- The packets that this device has formed enter the network (R329, R338). -/
def State.inject (s : State) : State :=
  if s.net.peerOut.isEmpty then s
  else (s.net.peerOut.foldl State.putOut { s with net := { s.net with peerOut := [] } }).receive

-- Arrival -----------------------------------------------------------------------------------------------------------

/-- LINK_FLIT (R330, R335). -/
def execLinkFlit (p : Nat) (f : Flit) (s : State) : Host.Outcome State Fault Refusal :=
  if f.idx ≠ 15 then .next s
  else if f.chk ≠ flitCheck f then .next (s.setPort p { s.port p with nak := true })
  else .next (s.takeLinkFlit p f)

/-- FLIT_ARRIVAL (R328, R330, R333, R335): a flit whose CHK fails or whose number leaves a gap is answered with a NAK and
given to no slot; a link flit is consumed at the port; a unit acts on a packet whose last flit has come. -/
def execFlitArrival (p : Nat) (f : Flit) (s : State) : Host.Outcome State Fault Refusal :=
  let x := s.port p
  if f.idx = 15 then execLinkFlit p f s
  else if f.chk ≠ flitCheck f ∨ !x.inOrder (portKind p) f then .next (s.setPort p { x with nak := true })
  else .next ((s.setPort p { (x.credit f) with expect := (x.expect + 1) % 2 ^ 19, nak := false }).slotFlit p f).receive

/-- REPLAY_TIMEOUT (R335). -/
def execReplayTimeout (p : Nat) (s : State) : Host.Outcome State Fault Refusal :=
  let x := s.port p
  if x.replay.isEmpty then .next s
  else .next ((s.setPort p { x with resend := x.replay.map (·.2) }).retry p)

-- Arbitration -------------------------------------------------------------------------------------------------------

/-- The packet of a class in progress at an output port (R331). -/
def Port.current (x : Port) (c : Nat) : Option Packet := x.out.find? fun q => decide (q.cls = c) && q.started
/-- Whether a class is eligible at an output port (R331, R332): a flit that may be sent is ready, and a credit is held. -/
def Port.eligible (x : Port) (k : LinkKind) (c : Nat) : Bool :=
  (match x.current c with
    | some q => !q.flits.isEmpty
    | none => x.out.any fun q => decide (q.cls = c) && !q.flits.isEmpty) && decide (x.used.read 0 c < k.credits)
/-- The packet that sends next in a class (R332): the one in progress, else an aged one, else the lowest SLACK, with ties
round-robin by input port. -/
def Port.pick (x : Port) (age c : Nat) : Option Packet :=
  match x.current c with
  | some q => some q
  | none =>
    let mine := x.out.filter fun q => decide (q.cls = c) && !q.flits.isEmpty
    match minBy (fun (q : Packet) => 2 ^ 32 - 1 - q.age) (mine.filter fun q => age < q.age) with
    | some q => some q
    | none => minBy (fun (q : Packet) => q.slack * 2 ^ 32 + (if x.rr < q.input then 0 else 2 ^ 31) + q.input) mine

/-- A flit on the wire (R328, R334, R340): its number, returned credits, and CHK. -/
def Port.stamp (x : Port) (k : LinkKind) (f : Flit) (n : Nat) : Port × Flit :=
  let c := ((List.range 4).find? fun c => x.owed.read 0 c ≠ 0).getD 0
  let m := Nat.min 15 (x.owed.read 0 c)
  let f := { f with lseq := n % 256, frame := if k = LinkKind.mirmar then n / 8 % 65536 else 0, crcls := c, crn := m }
  ({ x with owed := x.owed.write 0 c (x.owed.read 0 c - m) }, { f with chk := flitCheck f })

/-- The link flit of an idle link (R330): ACK, NAK and credits. DESIGN CHOICE (log 111): it bears the number of the latest flit
accepted, which ACK names. -/
def Port.linkFlit (x : Port) (k : LinkKind) : Port × Flit :=
  let n := (x.expect + 2 ^ 19 - 1) % 2 ^ 19
  let pay := leBytes 4 (n % 256 + 2 ^ 8 * b2n x.nak) ++ zeros (k.payload - 4)
  x.stamp k ⟨3, true, true, 15, false, false, 0, 0, 0, 0, pay, 0⟩ n

/-- Whether the link of a port carries flits: in service, and not retraining (R336, R337, R343). -/
def State.portUp (s : State) (p : Nat) : Bool :=
  match portKind p with
  | .mirmar => s.linkLive p
  | .bridge => s.bridgeOk ((p - 18) / 64) ((p - 18) % 32) && !(s.port p).training
  | .mesh => true
  | .reed => true

/-- OUTPUT_ARBITRATION (R330 to R332, R334 to R336): one flit slot of an output port. A replay keeps the flits' order. Where
the link is down or retrains, flits wait. Packets that the device has formed enter the network first. -/
def execOutputArbitration (p : Nat) (s : State) : Host.Outcome State Fault Refusal :=
  let s := s.inject
  let k := portKind p
  let x := s.port p
  let aged := fun (x : Port) => { x with out := x.out.map fun q => if q.started then q else { q with age := q.age + 1 } }
  if !s.portUp p then .next s
  else
  match x.resend with
  | f :: r => .next (s.setPort p (aged { x with resend := r, sent := x.sent ++ [f] }))
  | [] =>
    let ctl := s.sysv 0x500
    let floor := Nat.max 4 (Nat.min 32 (bitsOf ctl 0 6))
    let age := Nat.max 1 (bitsOf ctl 6 8)
    let window := if x.half then k.replay / 2 else k.replay
    let ok := fun c => x.eligible k c && decide (x.replay.length < window)
    let c := if floor ≤ x.cnt + 1 ∧ ok 0 ∧ !ok 3 then some 0 else [3, 2, 1, 0].find? ok
    match c.bind fun c => (x.pick age c).map fun q => (c, q) with
    | none =>
      let (x, f) := x.linkFlit k
      .next (s.setPort p (aged { x with cnt := 0, nak := false, sent := x.sent ++ [f] }))
    | some (c, q) =>
      match q.flits with
      | [] => .next s
      | (held, f) :: fs =>
        let ends := f.tail || f.abt
        let (x, f) := x.stamp k f x.nextSeq
        let rest := dropFirst (fun r => decide (r = q)) x.out
        let x := { x with
          out := if ends then rest else replaceFirst (fun r => decide (r = q)) (fun q => { q with flits := fs, started := true }) x.out
          cnt := if ok 0 && decide (c ≠ 0) then x.cnt + 1 else 0
          used := x.used.write 0 c (x.used.read 0 c + 1)
          nextSeq := (x.nextSeq + 1) % 2 ^ 19
          replay := x.replay ++ [(q.hdr, f)]
          rr := if q.started then x.rr else q.input
          sent := x.sent ++ [f] }
        let s := s.setPort p (aged x)
        .next (if held then s.owe q.input c else s)

-- Links -------------------------------------------------------------------------------------------------------------

/-- The lanes on which a Mirmar link retrains (R336): 0 to 3 if they are whole, else 4 to 7, else none. -/
def halfLanes (whole : Nat) : Option Nat :=
  if bitsOf whole 0 4 = 15 then some 0x0F else if bitsOf whole 4 4 = 15 then some 0xF0 else none

/-- The steps of a dead link at its ends (R337): open slots are closed with ABT; of a packet whose head was sent, what has not
been sent or not been acknowledged is dropped and its source told; packets that wait whole are routed again, and what is still
to come of them follows. The flits that are dropped give their credits back (R334). -/
def State.killPort (s : State) (p : Nat) : State :=
  let s := (List.range 4).foldl (fun s c => match (s.port p).reasm.read none c with
    | none => s
    | some r => s.closeOpen p c r) s
  let x := s.port p
  let started := x.out.filter (·.started)
  let whole := x.out.filter fun q => !q.started
  let s := s.setPort p { x with
    out := [], replay := [], resend := [], used := [], owed := [], cnt := 0, arriving := [], nextSeq := 0, expect := 0
    nak := false, half := false, training := false }
  let s := started.foldl (fun s q => (q.flits.filter (·.1)).foldl (fun s f => s.owe q.input f.2.cls) s) s
  let lost := ((x.replay.map (·.1)) ++ started.map (·.hdr)).eraseDups
  let s := lost.foldl (fun s h => if hdrType h = 0x07 then s else s.notice p h) s
  (whole.foldl (fun s q =>
    let (s, hop) := s.routeOf q.input q.hdr
    let s := match (s.port q.input).reasm.read none q.cls with
      | some r => if !q.closed ∧ r.hdr = q.hdr then s.setReasm q.input q.cls (some { r with hop := hop }) else s
      | none => s
    q.flits.foldl (fun s f => s.sendOn q.input q.hdr f.2 f.1 hop) s) s).receive

/-- A link dies (R336, R337, R343): `st` is its state afterwards, 4 dead, or 0 where EN was cleared. -/
def State.killLink (s : State) (l st : Nat) : State :=
  if l < 18 then ((s.setLink l { s.link l with st := st, lanes := 0 })).killPort l
  else
    let i := (l - 18) / 64
    let b := (l - 18) % 32
    let down := s.net.bridgeDown.read 0 i
    let s := { s with net := { s.net with bridgeDown := s.net.bridgeDown.put i (down ||| 2 ^ b) } }
    let q := 18 + 64 * i + b
    (s.killPort q).killPort (q + 32)

/-- LINK_DEATH (R337): a link that cannot hold half width is dead (R336). -/
def execLinkDeath (l : Nat) (s : State) : Host.Outcome State Fault Refusal :=
  if l < 18 then
    if (s.link l).st = 4 ∨ (s.link l).st = 0 then .next s else .next (s.killLink l 4)
  else if l < 210 then .next (s.killLink l 4)
  else .next s

/-- LANE_LOSS (R336): `lanes` are the lanes still whole. A Mirmar link retrains at half width or dies; a bridge port falls
to half width while it has a lane left. -/
def execLaneLoss (l lanes : Nat) (s : State) : Host.Outcome State Fault Refusal :=
  if l < 18 then
    let k := s.link l
    if k.st ≠ 2 ∧ k.st ≠ 3 then .next s
    else
      match halfLanes (lanes &&& 255) with
      | none => .next (s.killLink l 4)
      | some m => .next (s.setLink l { k with st := 1, lanes := m })
  else if l < 210 then
    if lanes = 0 then .next (s.killLink l 4)
    else
      let q := 18 + 64 * ((l - 18) / 64) + (l - 18) % 32
      let waits := fun (s : State) (q : Nat) => s.setPort q { s.port q with training := true }
      .next (waits (waits s q) (q + 32))
  else .next s

/-- RETRAIN_COMPLETE (R336): flits in the replay buffer are sent again; window and weight are halved. A link that cannot
hold half width is dead. -/
def execRetrainComplete (l : Nat) (ok : Bool) (s : State) : Host.Outcome State Fault Refusal :=
  if l < 18 then
    let k := s.link l
    if k.st ≠ 1 ∨ k.lanes = 0 then .next s
    else if !ok then .next (s.killLink l 4)
    else
      let s := s.setLink l { k with st := 3, weight := k.weight / 2 }
      let x := s.port l
      .next (s.setPort l { x with half := true, resend := x.replay.map (·.2) })
  else if l < 210 then
    if !ok then .next (s.killLink l 4)
    else
      let i := (l - 18) / 64
      let b := (l - 18) % 32
      let half := s.net.bridgeHalf.read 0 i
      let s := { s with net := { s.net with bridgeHalf := s.net.bridgeHalf.put i (half ||| 2 ^ b) } }
      let q := 18 + 64 * i + b
      let fall := fun (s : State) (q : Nat) => s.setPort q { s.port q with
        half := true, training := false, resend := (s.port q).replay.map (·.2) }
      .next (fall (fall s q) (q + 32))
  else .next s

/-- MESH_LINK_RETIREMENT (R336): retries beyond 1,000. -/
def execMeshLinkRetirement (l : Nat) (s : State) : Host.Outcome State Fault Refusal :=
  if decide (portKind l = .mesh) && decide (1000 < (s.port l).retries) && !s.net.meshOut.contains l then
    .next { s with net := { s.net with meshOut := l :: s.net.meshOut } }
  else .next s

/-- The training of a Mirmar link that is enabled and down (R340, R343): both ends train at 112 GBd, or at 106.25 GBd when `slow`, and
exchange DEVID and link number. -/
def State.trainLink (s : State) (l : Nat) (slow : Bool) (peer peerLink : Nat) : State :=
  let k := s.link l
  if decide (l < 18) && k.en && decide (k.st = 0 ∨ (k.st = 1 ∧ k.lanes = 0)) then
    let s := s.setLink l { k with
      st := 2, lanes := 255, peer := peer % 65536, peerLink := peerLink % 32, slow := slow, weight := 8 }
    s.setPort l { s.port l with half := false }
  else s

/-- LINK_TRAINING (R340, R343). -/
def execLinkTraining (l : Nat) (slow : Bool) (peer peerLink : Nat) (s : State) : Host.Outcome State Fault Refusal :=
  .next (s.trainLink l slow peer peerLink)

/-- A write of MLINK_n (R343): EN 0 takes the link out of service as a dead link with state 0, EN 1 trains it; RETRIES is
set. -/
def State.writeMlink (s : State) (n v : Nat) : State :=
  let k := s.link n
  let en := bitOf v 3
  let s := s.setLink n { k with retries := bitsOf v 12 16, en := en, st := if en && !k.en then 1 else k.st }
  if k.en && !en then s.killLink n 0 else s

/-- MLINK_EN_WRITE (R343). -/
def execMlinkEnWrite (n : Nat) (v : Dword) (s : State) : Host.Outcome State Fault Refusal :=
  if n < 18 then .next (s.writeMlink n v.toNat) else .next s

end Sys2Proof.Machine
end

