-- ==== Sys2Proof/Machine/Regs.lean ====
section
/-! DEFINITION. Reading and writing system registers, and the events of their writes
(14_contexts.md R394 to R396, R400; 16_system.md R437 to R447; the register tables of the other chapters). -/
namespace Sys2Proof.Machine

-- Reading -----------------------------------------------------------------------------------------------------------

/-- The group-information block (R394). CYCLES is a free value. -/
def State.infoWord (s : State) (g : Group) (n : Nat) : Nat :=
  if n = 0 then g.gidx + 2 ^ 32 * g.taskId
  else if n = 1 then
    g.core + 2 ^ 9 * g.teamid + 2 ^ 13 * g.groupid + 2 ^ 18 * g.clrank + 2 ^ 34 * g.role + 2 ^ 36 * b2n g.priv + 2 ^ 37 * b2n g.rgn
  else if n = 2 then (s.task g.task).record.ctxb
  else if n = 3 then g.wb + 2 ^ 10 * g.nreg + 2 ^ 32 * frameSize g.nreg g.rgn
  else if n = 4 then g.tpc.toNat
  else if n = 5 then g.tmask.toNat + 2 ^ 32 * b2n g.inTrap
  else if n ≤ 9 then hdr g.trec.bytes (8 * (n - 6)) 8
  else if n = 10 then (Config.freeDword s.free).toNat
  else 0

/-- SLOT_STATE of a pipe (R94): 0 to 3 vector pipes, 4 the scalar pipe. DESIGN CHOICE (unsafe, log 100): of a pipe
retired as a whole, INSERVICE counts the slots of it that are not themselves retired, though none of them is used. -/
def Core.slotState (c : Core) (pipe : Nat) : Nat :=
  let all := if pipe = 4 then 2 else 16
  let off := (List.range all).filter fun j => c.slotRetired.contains (16 * pipe + j)
  off.foldl (fun r j => r + 2 ^ j) 0 + 2 ^ 16 * (all - off.length) + 2 ^ 21 * b2n (c.pipesOff.contains pipe)

/-- MAT_STATE (R168). -/
def Core.matState (c : Core) : Nat := b2n c.spareUsed + 2 * c.steered + 2 ^ 8 * b2n c.arrayOff

/-- REBUILD_STAT (R430). -/
def State.rebuildStat (s : State) : Nat :=
  let r := s.res.rebuild
  r.cur.getD 0 + 2 ^ 9 * b2n r.cur.isSome + 2 ^ 10 * b2n r.paused + 2 ^ 11 * ((r.cur.map s.rebuildLeft).getD 0 % 2 ^ 24) +
    2 ^ 35 * (r.queue.length % 512)

/-- REGION_STAT (R288). -/
def Batten.stat (b : Batten) : Nat :=
  (b.slots.filter fun e => e.2.isSome).length + 2 ^ 16 * ((b.serial.head?.map (·.1)).getD 0) + 2 ^ 32 * b2n (!b.serial.isEmpty) +
    2 ^ 33 * (b.aborts % 2 ^ 31)

/-- Groups in a debug stop (R443). -/
def State.stopped (s : State) : Nat := Nat.min 65535 (s.groups.filter fun e => e.2.dbgStop && decide (e.2.sched = .held)).length

/-- The clock in sixteenths (R449). -/
def Mgmt.clock (m : Mgmt) : Nat := Nat.min m.kSag (Nat.min m.kPwr m.kHot)

/-- CLK_STAT (R449): a control holds the clock down while its own value is below 16. -/
def Mgmt.clkStat (m : Mgmt) : Nat :=
  m.clock + 2 ^ 5 * b2n (decide (m.kSag < 16)) + 2 ^ 6 * b2n (decide (m.kPwr < 16)) + 2 ^ 7 * b2n (decide (m.kHot < 16)) +
    2 ^ 32 * (m.sags % 2 ^ 32)

/-- A system register as a core reads it (R400, R6), outside the group-information block and the per-group registers. -/
def State.readReg (s : State) (c n : Nat) : Nat :=
  let core := s.core c
  if 0x121 ≤ n ∧ n ≤ 0x125 then core.slotState (n - 0x121)
  else if n = 0x131 then core.matState
  else if n = 0x222 then s.fqHead
  else if n = 0x223 then s.fqTail
  else if n = 0x402 then s.res.cursor / 128 + 2 ^ 24 * (s.res.passes % 2 ^ 24)
  else if n = 0x404 then s.rebuildStat
  else if n = 0x405 then s.res.gen + 4 * b2n s.res.retiring.isSome + 8 * s.res.retiring.getD 0
  else if n = 0x406 then s.res.poison.length + 2 ^ 13 * b2n (decide (4096 ≤ s.res.poison.length))
  else if n = 0x561 then s.batten.stat
  else if 0x580 ≤ n ∧ n ≤ 0x591 then s.mlinkWord (n - 0x580)
  else if 0x5A0 ≤ n ∧ n ≤ 0x5A2 then s.bridgeWord (n - 0x5A0)
  else if n = 0x602 then s.stopped
  else if n = 0x705 then s.mgmt.clkStat
  else if n = 0x707 then (Config.freeDword s.free).toNat
  else if sysPerCore n then core.sysv n
  else s.sysv n

/-- MFSR's value for a group (R394, R395, R400). -/
def State.readSys (s : State) (g : Group) (n : Nat) : Nat :=
  if n < 0x100 then s.infoWord g n
  else if n = 0x210 then g.tvec.toNat
  else if n = 0x211 then g.trapMask.toNat
  else s.readReg g.core n

-- Writing -----------------------------------------------------------------------------------------------------------

/-- A write of TLB_INVAL (R178, R181). -/
def State.writeTlbInval (s : State) (v : Nat) : State :=
  let asid := bitsOf v 16 16
  match bitsOf v 0 2 with
  | 0 => s.tlbInvalPage asid (bitsOf v 32 32)
  | 1 => s.tlbInvalRegion asid (bitsOf v 32 23)
  | 2 => s.tlbInvalAsid asid
  | _ => s.tlbInvalAll

/-- TLB_INVAL of the range of a window or handover entry, whose control register is `ctl` and base register `n`. -/
def State.invalEntry (s : State) (n ctl : Nat) : State := s.tlbInvalRange (bitsOf ctl 16 16) (s.sysv n) (s.sysv (n + 1))

/-- A write of PWIN_CTL_n or HOV_CTL_n, register `n + 3` (R442, R457): the range is invalidated in the address space that
the entry named, and in the one that it names now. -/
def State.writeEntry (s : State) (n v : Nat) : State :=
  let s := s.invalEntry n (s.sysv (n + 3))
  let s := s.setSys (n + 3) v
  s.invalEntry n (s.sysv (n + 3))

/-- A write of MIRMAR_RT (R342): the ports' cache is emptied. -/
def State.writeRoutes (s : State) (v : Nat) : State :=
  let s := s.setSys 0x501 v
  { s with net := { s.net with routes := [] } }

/-- A write of FEAT (R438): ignored while a task is not FREE. DESIGN CHOICE (log 162): a level above LEVEL acts as LEVEL in that LEVEL
is stored, and reads back. -/
def State.writeFeat (s : State) (v : Nat) : State :=
  if s.tasks.any fun e => decide (e.2.state ≠ .free) then s
  else s.setSys 0x700 (v - bitsOf v 16 16 * 2 ^ 16 + Nat.min 3 (bitsOf v 16 16) * 2 ^ 16)

/-- A write of DEV_STAT (R447): DRAIN, and the phase that follows it. BOOTING and RESETNEEDED stay. -/
def State.writeDrain (s : State) (v : Nat) : State :=
  let s := s.setSys 0x703 v
  if bitOf v 3 then (if s.phase = 1 then s.setPhase 2 else s)
  else if s.phase = 2 ∨ s.phase = 3 then s.setPhase 1
  else s

/-- A write of FQ_CTL (R396): LOG stays while EN = 1. -/
def State.writeFqCtl (s : State) (v : Nat) : State :=
  let old := s.sysv 0x221
  s.setSys 0x221 (if bitOf old 4 then v - v % 16 + old % 16 else v)

/-- A write of DBG_CMD (R443, R444). -/
def State.writeDbgCmd (s : State) (v : Nat) : State :=
  let group := bitsOf v 0 26
  let task := bitsOf v 32 32
  match bitsOf v 26 2 with
  | 0 => s.debugResume task group
  | 1 => s.debugStep task group
  | 2 => s.debugHalt task group
  | _ => s

/-- STATE of IFT_CTL (R445). -/
def State.iftState (s : State) : Nat := bitsOf (s.sysv 0x706) 11 3
/-- Sets STATE, PASS and RESTORED of IFT_CTL. -/
def State.setIft (s : State) (st : Nat) (pass restored : Bool) : State :=
  s.forceSys 0x706 (s.sysv 0x706 % 2 ^ 11 + 2 ^ 11 * st + 2 ^ 14 * b2n pass + 2 ^ 15 * b2n restored)

/-- The start of an in-field test (R445): a core leaves service for placement; a channel must be in WATCH. -/
def State.startTest (s : State) (kind unit : Nat) : State :=
  if s.iftState = 1 ∨ s.iftState = 2 then s
  else if kind = 0 then
    if Config.cores ≤ unit then s.setIft 4 false false
    else
      let s := s.setCore unit { s.core unit with out := true }
      { s.setIft 1 false false with mgmt := { s.mgmt with ift := some (0, unit) } }
  else if decide (Config.channels ≤ unit) || decide ((s.chan unit).st ≠ .watch) then s.setIft 4 false false
  else { s.setIft 2 false false with mgmt := { s.mgmt with ift := some (1, unit) } }

/-- A write of IFT_CTL (R445). -/
def State.writeIft (s : State) (v : Nat) : State :=
  let s := s.setSys 0x706 v
  if bitOf v 0 then s.startTest (bitsOf v 1 1) (bitsOf v 2 9) else s

/-- A write of EVACK (R446): the first `v` events are acknowledged. -/
def State.writeEvack (s : State) (v : Nat) : State := { s with mgmt := { s.mgmt with acked := v } }

/-- A write of REGION_STAT (R288): ABORTS. -/
def State.writeRegionStat (s : State) (v : Nat) : State := { s with batten := { s.batten with aborts := bitsOf v 33 31 } }

/-- A write of a system register by a core or by the host (R6, R400, R436), outside the per-group registers. -/
def State.writeSys (s : State) (c n v : Nat) : State :=
  if n = 0x220 then (if bitOf (s.sysv 0x221) 4 then s else s.setSys 0x220 v)
  else if n = 0x221 then s.writeFqCtl v
  else if n = 0x301 then s.writeTlbInval v
  else if n = 0x501 then s.writeRoutes v
  else if n = 0x561 then s.writeRegionStat v
  else if 0x580 ≤ n ∧ n ≤ 0x591 then s.writeMlink (n - 0x580) v
  else if (0x5C0 ≤ n ∧ n < 0x600 ∨ 0x7C0 ≤ n ∧ n < 0x800) ∧ n % 4 = 3 then s.writeEntry (n - 3) v
  else if n = 0x601 then s.writeDbgCmd v
  else if n = 0x700 then s.writeFeat v
  else if n = 0x703 then s.writeDrain v
  else if n = 0x706 then s.writeIft v
  else if n = 0x707 then s.writeEvack v
  else if sysPerCore n then s.setCore c ((s.core c).setSys n v)
  else s.setSys n v

/-- MTSR's effect for a group (R395, R400). -/
def State.writeSysOf (s : State) (k n v : Nat) : State :=
  let g := s.group k
  if n = 0x210 then s.setGroup k { g with tvec := BitVec.ofNat 64 (v &&& sysWritable 0x210) }
  else if n = 0x211 then s.setGroup k { g with trapMask := BitVec.ofNat 64 (v &&& sysWritable 0x211) }
  else s.writeSys g.core n v

-- Events of register writes -------------------------------------------------------------------------------------------

/-- TLB_INVAL_PAGE (R178). -/
def execTlbInvalPage (asid vpn : Nat) (s : State) : Host.Outcome State Fault Refusal := .next (s.tlbInvalPage asid vpn)
/-- TLB_INVAL_REGION (R178). -/
def execTlbInvalRegion (asid region : Nat) (s : State) : Host.Outcome State Fault Refusal := .next (s.tlbInvalRegion asid region)
/-- TLB_INVAL_ASID (R178). -/
def execTlbInvalAsid (asid : Nat) (s : State) : Host.Outcome State Fault Refusal := .next (s.tlbInvalAsid asid)
/-- TLB_INVAL_ALL (R178). -/
def execTlbInvalAll (s : State) : Host.Outcome State Fault Refusal := .next s.tlbInvalAll
/-- PWIN_CTL_WRITE (R457). -/
def execPwinCtlWrite (n : Nat) (v : Dword) (s : State) : Host.Outcome State Fault Refusal :=
  if n < 16 then .next (s.writeEntry (0x5C0 + 4 * n) v.toNat) else .next s
/-- HOV_CTL_WRITE (R442). -/
def execHovCtlWrite (n : Nat) (v : Dword) (s : State) : Host.Outcome State Fault Refusal :=
  if n < 16 then .next (s.writeEntry (0x7C0 + 4 * n) v.toNat) else .next s
/-- MIRMAR_RT_WRITE (R342). -/
def execMirmarRtWrite (v : Dword) (s : State) : Host.Outcome State Fault Refusal := .next (s.writeRoutes v.toNat)
/-- FEAT_WRITE (R438). -/
def execFeatWrite (v : Dword) (s : State) : Host.Outcome State Fault Refusal := .next (s.writeFeat v.toNat)
/-- DRAIN_SET (R447). -/
def execDrainSet (s : State) : Host.Outcome State Fault Refusal := .next (s.writeDrain 8)
/-- DRAIN_CLEAR (R447). -/
def execDrainClear (s : State) : Host.Outcome State Fault Refusal := .next (s.writeDrain 0)
/-- EVACK_WRITE (R446). -/
def execEvackWrite (v : Dword) (s : State) : Host.Outcome State Fault Refusal := .next (s.writeEvack v.toNat)
/-- SYSTEM_REGISTER_WRITE (R400, R6): a write by a core; numbers from 0x800 on name no register. -/
def execSystemRegisterWrite (core n : Nat) (v : Dword) (s : State) : Host.Outcome State Fault Refusal :=
  if core < Config.cores ∧ n < 0x800 then .next (s.writeSys core n v.toNat) else .next s

end Sys2Proof.Machine
end

