-- ==== Sys2Proof/Machine/System.lean ====
section
/-! DEFINITION. The SYS instructions, and the traps of words that cannot be fetched or decoded
(14_contexts.md R397 to R402; 02_encoding.md R29, R45). -/
namespace Sys2Proof.Machine

/-- The checks of a SYS instruction (R397). -/
def sysPre (g : Group) (uses : List Use) (operandOk priv : Bool) : Pre :=
  { controlPre g uses with inRegion := false, operandOk := operandOk, privOk := priv }

-- TRAP and BRK --------------------------------------------------------------------------------------------------------

/-- TRAP (R398): the lanes continue after the word. -/
def execTrap (a : Operand) (s : State) : Host.Outcome State Fault Refusal :=
  s.run fun s => do
    let g0 := s.me
    let s ← (sysPre g0 [src a] (!isVec g0 a) true).check s
    let (s, x) ← scalarRead s a
    .ok (s.takeTrap s.cur { Trap.precise causeSoft (some x.toNat) with after := true })

/-- BRK (R398): a debug stop while a debugger is attached (R444). -/
def execBrk (s : State) : Host.Outcome State Fault Refusal :=
  s.run fun s => do
    let s ← { sysPre s.me [] true true with inRegion := true }.check s
    .ok (if bitOf (s.sysv 0x600) 0 then s.debugStop s.cur 1 true
      else s.takeTrap s.cur { Trap.precise causeBreak (some 1) with after := true })

-- RETT ----------------------------------------------------------------------------------------------------------------

/-- The settling part of RETT (R399, R402 steps 2 to 4): the operations and writes that it waits for. -/
def State.rettSettle (s : State) (f : Nat) : State :=
  let k := s.cur
  let (s, r) := s.settleTrap k s.me.trec f
  let s := s.resumeCopies k s.me.trec
  let g := s.group k
  let g' := g.replay false
  let new := (g'.ops.map (·.seq)).filter fun q => (g.op q).isNone
  let held := (g.ops.filter fun o => o.fault.isSome && decide (o.cls ≠ .copy)).map (·.seq) ++ new
  let ids := (g'.parts.map (·.id)).filter fun i => !(g.parts.any fun p => p.id = i)
  let s := s.setGroup k { g' with trec := r, rett := some (bitOf f 0 && decide (r.cls = 0), held, ids) }
  (s.reissueHeld k).settle k

/-- Whether the replays and reissued requests of a RETT have completed or been recorded again (R399). -/
def Group.rettOver (g : Group) (seqs ids : List Nat) : Bool :=
  (seqs.all fun q => match g.op q with
    | none => true
    | some o => o.done || o.fault.isSome) &&
    ids.all fun i => !(g.parts.any fun p => decide (p.id = i) && decide (p.st ≠ .ext true))

/-- The end of RETT (R399): TMASK's lanes go to TPC or to the word after it. RETT is an instruction of an open run like
another (R82). -/
def State.rettEnd (s : State) (g0 : Group) (us : List Use) (skip : Bool) : State :=
  let g := s.me.countRun g0 false (readTags g0 us)
  let pc := if skip then s.nextWord g.core g.asid g.priv g.tpc else g.tpc
  s.setMe { g.mapLanes (lanesOf g.tmask) (fun x => { x with pc := pc }) with
    inTrap := false, latches := [], rett := none, aged := none, imx := none }

/-- RETT (R399). A TPC that is no address of a word traps ALIGN before every effect (R28): a frame may bring one. -/
def execRett (a : Operand) (s : State) : Host.Outcome State Fault Refusal :=
  s.run fun s => do
    let g0 := s.me
    let p := sysPre g0 [src a] (!isVec g0 a) g0.priv
    must (imxOk g0 0) causeIllegal
    must ((src a).ok g0 && !isVec g0 a) causeOperand
    must g0.priv causePriv
    must g0.inTrap causeOperand
    let lanes := (lanesOf g0.tmask).filter g0.isLive
    let s ← { p with bundleOk := decide (g0.bundle = lanes) }.check s
    match s.me.rett with
    | some (skip, seqs, ids) => if s.me.rettOver seqs ids then .ok (s.rettEnd g0 [src a] skip) else .error .block
    | none => do
      let (s, x) ← scalarRead s a
      must (flagsOk x.toNat) causeOperand
      must (g0.tpc.toNat % 4 = 0) causeAlign
      let s := s.rettSettle x.toNat
      match s.me.rett with
      | some (skip, seqs, ids) => if s.me.rettOver seqs ids then .ok (s.rettEnd g0 [src a] skip) else .error (.after s)
      | none => .ok s

-- MFSR and MTSR -------------------------------------------------------------------------------------------------------

/-- The value of a scalar source at issue, if it is there already: the oldest entry for a channel (R386). -/
def State.valueAtIssue (s : State) (o : Operand) : Option Nat :=
  match channelOf o with
  | none => some (s.me.scalar o).toNat
  | some c =>
    match s.me.chans.read none c with
    | none => none
    | some b => ((s.queue (qidCore b.qid) (qidIndex b.qid)).entries.head?).map fun e => e.1.toNat

/-- MFSR (R386, R400): the number decides whether privilege is needed. -/
def execMfsr (d a : Operand) (s : State) : Host.Outcome State Fault Refusal :=
  s.run fun s => do
    let g0 := s.me
    let us := [dstN d 2, src a]
    let p := sysPre g0 us (!isVec g0 a) true
    must (imxOk g0 0) causeIllegal
    must (us.all (Use.ok g0) && !isVec g0 a) causeOperand
    if !g0.priv then scoreboard g0 [src a]
    let barred := match s.valueAtIssue a with
      | none => false
      | some n => decide (0x100 ≤ n ∧ n < 0x800)
    let s ← { p with privOk := g0.priv || !barred }.check s
    let (s, x) ← scalarRead s a
    must (decide (x.toNat < 0x800)) causeIllegal
    let v := s.readSys s.me x.toNat
    let s := { s with free := s.free + 1 }
    let lanes := g0.execLanes (isV d)
    .ok ((s.setMe (s.me.writeWide d 2 lanes (lanes.map fun _ => v))).finish g0 us)

/-- MTSR (R400): its effect is that of the register's own table. -/
def execMtsr (a b : Operand) (s : State) : Host.Outcome State Fault Refusal :=
  s.run fun s => do
    let g0 := s.me
    let us := [src a, srcN b 2]
    let s ← (sysPre g0 us (!isVec g0 a && !isV b) g0.priv).check s
    let (s, x) ← scalarRead s a
    must (decide (x.toNat < 0x800)) causeIllegal
    let v := s.me.scalar64 b
    .ok ((s.finish g0 us).writeSysOf s.cur x.toNat v)

-- FPOP ----------------------------------------------------------------------------------------------------------------

/-- The 176 bytes of a store-fault entry (R401): the record, the byte mask, the data. Bytes that the mask leaves out are
free values. -/
def State.entryBytes (s : State) (g : Group) (e : SfEntry) : Bytes :=
  let r : FaultRec := ⟨causeStore, 0, 2, 0xFF, false, (s.task g.task).ext, e.word, g.gidx, g.taskId, e.pc.toNat, g.partAddr e.part⟩
  let at' := fun (i : Nat) => e.part.bytes.read none i
  r.bytes ++ leBytes 16 ((List.range 128).foldl (fun m i => if (at' i).isSome then m + 2 ^ i else m) 0) ++
    (List.range 128).map fun i => (at' i).getD (BitVec.ofNat 8 (Config.freeNat (s.free + i)))

/-- The record at FQ_TAIL (R401). Bytes that cannot be decoded are free values. -/
def State.tailRecord (s : State) : Bytes :=
  (List.range 32).map fun i => (s.linearByte (s.sysv 0x220 + 32 * s.fqTail + i)).getD (BitVec.ofNat 8 (Config.freeNat (s.free + i)))

/-- What FPOP takes (R401): the state without it, the status, and the bytes to write. -/
def State.fpopTake (s : State) (target : Option (Nat × Nat)) : State × Nat × Bytes :=
  match target with
  | none =>
    if s.fqHead = s.fqTail then (s, 0, [])
    else
      let bs := s.tailRecord
      ({ s.forceSys 0x223 ((s.fqTail + 1) % s.fqSize) with free := s.free + 32 }, 1, bs)
  | some (i, id) =>
    let k := groupKey (idSlot id) i
    let g := s.group k
    if s.stale id then (s, 4, [])
    else if (s.task (idSlot id)).record.groups ≤ i then (s, 5, [])
    else if g.sched ≠ .held ∧ ¬(k = s.cur ∧ g.inTrap) then (s, 3, [])
    else
      match g.sfq with
      | [] => (s, 0, [])
      | e :: r =>
        let bs := s.entryBytes g e
        let s := (s.setGroup k { g with sfq := r }.refillRecords).appendFrame k
        ({ s with free := s.free + 128 }, 2, bs)

/-- The bytes of FPOP as a store of the issuing group (R194, R201, R401); one that writes nothing counts as a store that is
complete as it issues (R228). -/
def State.storeBytes (s : State) (pc : Dword) (va : Nat) (bs : Bytes) : Go State :=
  if bs.isEmpty then .ok (s.countInstant pc)
  else do
    let seq := s.me.seq
    let piece := fun (i : Nat) => (Place.va (va + 8 * i), (bs.drop (8 * i)).take 8)
    let ls := gather [] ((List.range (bs.length / 8)).map piece)
    let s ← foldM (fun s e => State.storeLine s seq pc false false 0 e) s ls
    let op : Op := Op.base seq .mem .store pc
    .ok ((s.setMe { s.me with ops := s.me.ops ++ [op], seq := seq + 1 }).settle s.cur)

/-- FPOP (R401): privileged. -/
def execFpop (d a b : Operand) (s : State) : Host.Outcome State Fault Refusal :=
  s.run fun s => do
    let g0 := s.me
    let us := [dst d, srcN a 2, srcN b 2]
    let s ← (sysPre g0 us (isS d && !isV a && !isV b) g0.priv).check s
    let g := s.me
    gateAccess g
    let va := g.scalar64 a
    let _ ← s.checkAddrs g false true 1 8 [(g.first, va)]
    awaits (s.requestRoom g false)
    let y := g.scalar64 b
    let (s, st, bs) := s.fpopTake (if isZero b then none else some (y % 2 ^ 32, y / 2 ^ 32))
    let s ← s.storeBytes g0.pc va bs
    let s ← s.writeResult d [g0.first] [BitVec.ofNat 32 st]
    .ok (s.finish g0 us)

-- FRESUME -------------------------------------------------------------------------------------------------------------

/-- FRESUME's status and effect (R402): `i` is the group index and `id` the task id. -/
def State.fresume (s : State) (i id f : Nat) : State × Nat :=
  let k := groupKey (idSlot id) i
  if s.stale id then (s, 2)
  else if (s.task (idSlot id)).record.groups ≤ i then (s, 3)
  else if decide ((s.group k).sched ≠ .held) || (s.group k).hrec.isNone then (s, 1)
  else (s.resume k f, 0)

/-- FRESUME (R402): privileged; it waits as RELA of dev scope does. -/
def execFresume (d a b : Operand) (s : State) : Host.Outcome State Fault Refusal :=
  s.run fun s => do
    let g0 := s.me
    let us := [dst d, srcN a 2, src b]
    let s ← (sysPre g0 us ((isS d || isZero d) && !isV a && !isVec g0 b) g0.priv).check s
    let (_, f) ← scalarRead s b
    must (flagsOk f.toNat) causeOperand
    let s ← s.releaseWait 2
    let (s, f) ← scalarRead s b
    let y := s.me.scalar64 a
    let (s, st) := s.fresume (y % 2 ^ 32) (y / 2 ^ 32) f.toNat
    let s ← s.writeResult d [g0.first] [BitVec.ofNat 32 st]
    .ok (s.finish g0 us)

-- Words that cannot issue -----------------------------------------------------------------------------------------------

/-- ILLEGAL_ENCODING (R45): a word that is no instruction traps ILLEGAL precisely. -/
def execIllegalEncoding (w : Word) (s : State) : Host.Outcome State Fault Refusal :=
  if (decode w).toBool then .next s else s.run fun _ => trapO causeIllegal

/-- INSTRUCTION_FETCH_FAULT (R29): reported precisely at the program counter of the word concerned; a fault on the second
word of a pair is reported at the IMX word (R37). -/
def execInstructionFetchFault (cause word : Nat) (s : State) : Host.Outcome State Fault Refusal :=
  s.run fun s =>
    let va := if s.me.imx.isSome then s.me.pc + 4#64 else s.me.pc
    .error (.trap ⟨cause, some word, 0, none, va.toNat, none, false, false⟩)

end Sys2Proof.Machine
end

