-- ==== Sys2Proof/Machine/Manage.lean ====
section
/-! DEFINITION. The host port, resets, start-up, in-field test, the health table, drain, and the clock
(16_system.md R435 to R449). -/
namespace Sys2Proof.Machine

-- Drain and the worst grade -------------------------------------------------------------------------------------------

/-- Whether every entry of the task table is FREE. -/
def State.allFree (s : State) : Bool := s.tasks.all fun e => decide (e.2.state = .free)

/-- DRAINED (R447, R437). -/
def execDrained (s : State) : Host.Outcome State Fault Refusal :=
  if decide (s.phase = 2) && bitOf (s.sysv 0x703) 3 && s.allFree then .next ((s.setPhase 3).msix 2) else .next s

/-- Whether a grade-E event has been logged (R447). -/
def State.gradeE (s : State) : Bool := s.mgmt.log.any fun r => decide (r.grade = 5)

/-- RESETNEEDED (R447): every task is killed with GRADE 5. -/
def execResetneeded (s : State) : Host.Outcome State Fault Refusal :=
  if s.gradeE && decide (s.phase ≠ 4) then
    let live := (s.tasks.filter fun e => decide (e.2.state ≠ .free)).map (·.1)
    .next (live.foldl (fun s k => (s.noteGrade k 5).killTask k) (s.setPhase 4))
  else .next s

-- In-field test -------------------------------------------------------------------------------------------------------

/-- Whether nothing of a core's groups and teams is left on it (R445 steps 2 and 3). -/
def State.coreEmpty (s : State) (c : Nat) : Bool :=
  (s.slotsOn c).isEmpty && s.teams.all fun e => !(e.2.resident && decide (e.2.core = c))

/-- IFT_CORE_TEST (R445): the start of a core's test, and its testing once the core is empty. -/
def execIftCoreTest (core : Nat) (s : State) : Host.Outcome State Fault Refusal :=
  if s.mgmt.ift = some (0, core) ∧ s.iftState = 1 then
    .next (if s.coreEmpty core then s.setIft 2 false false else s)
  else .next (s.startTest 0 core)

/-- IFT_CHANNEL_TEST (R445). -/
def execIftChannelTest (ch : Nat) (s : State) : Host.Outcome State Fault Refusal := .next (s.startTest 1 ch)

/-- Slots of a core, as 16 × pipe + slot (R89). -/
def allSlots : List Nat := List.range 66

/-- The pipes of a core after a test whose slots `bad` failed (R92, R445): the others are in service, and the charges of
those that were retired are cleared. -/
def Core.testPipes (c : Core) (bad : List Nat) : Core :=
  let back := c.slotRetired.filter fun j => !bad.contains j
  let c := back.foldl (fun (c : Core) j =>
    let reg := 0x126 + j / 16
    let v := c.sysv reg
    c.setSys reg (v - bitsOf v (4 * (j % 16)) 4 * 2 ^ (4 * (j % 16)))) c
  let c := { c with slotRetired := bad }
  let c := { c with pipesOff := (List.range 4).filter fun p => (c.slotsOf p).length < 8 }
  { c with coreOff := c.pipes.isEmpty }

/-- The array of a core after a test whose cell rows `bad` failed; row 128 is the spare (R169, R445). -/
def Core.testArray (c : Core) (bad : List Nat) : Core :=
  let rows := bad.filter fun r => r < 128
  let clear := fun (c : Core) (r : Nat) =>
    let reg := 0x132 + r / 16
    let v := c.sysv reg
    c.setSys reg (v - bitsOf v (4 * (r % 16)) 4 * 2 ^ (4 * (r % 16)))
  let c := if c.spareUsed && !rows.contains c.steered then clear c c.steered else c
  let out := bad.contains 128
  match rows with
  | [] => { c with spareUsed := false, steered := 0, arrayOff := false, spareOut := out }
  | r :: rest => { c with spareUsed := !out, steered := if out then 0 else r, arrayOff := !rest.isEmpty || out, spareOut := out }

/-- IFT_TEST_END (R445): a unit that passes returns to service, and one that fails is retired with a grade-B event. Which
units failed in a test without PASS is a free value. -/
def execIftTestEnd (pass : Bool) (s : State) : Host.Outcome State Fault Refusal :=
  match s.mgmt.ift with
  | none => .next s
  | some (kind, u) =>
    if s.iftState ≠ 2 then .next s
    else
      let s := { s with mgmt := { s.mgmt with ift := none }, free := s.free + 256 }
      if kind = 0 then
        let fails := fun (n : Nat) (i : Nat) => !pass && Config.freeBit (s.free + n + i)
        let slots := allSlots.filter (fails 0)
        let rows := (List.range 129).filter (fails 66)
        let old := s.core u
        let new := { ((old.testPipes slots).testArray rows) with out := false }
        let restored := (old.slotRetired.any fun j => !slots.contains j) || (old.pipesOff.any fun p => !new.pipesOff.contains p) ||
          (old.spareUsed && !rows.contains old.steered) || (old.arrayOff && !new.arrayOff) || (old.spareOut && !new.spareOut)
        let n := (slots.filter fun j => !old.slotRetired.contains j).length + rows.length
        let s := (s.setCore u new).setIft 3 pass restored
        .next ((List.range n).foldl (fun (s : State) _ => s.logEvent (some (unitCore u)) (eventRec 2 0 0)) s)
      else
        let s := if pass && decide ((s.chan u).st = .watch) then
            (s.setChan u { s.chan u with st := .up }).dropCharges fun c => c.channel = u
          else s
        .next (s.setIft 3 pass false)

-- The health table ----------------------------------------------------------------------------------------------------

/-- The kinds of unit in the table's order: how many there are (R446). -/
def unitCounts : List Nat := [3, 288, 12, 384, 384, 18, 96, 1, 1]

/-- The kind of unit record `u`, and its number. -/
def unitOf (u : Nat) : Nat × Nat :=
  (unitCounts.foldl (fun (r : Nat × Nat × Bool) n =>
    if r.2.2 then r else if r.2.1 < n then (r.1, r.2.1, true) else (r.1 + 1, r.2.1 - n, false)) (0, u, false)) |> fun r => (r.1, r.2.1)

/-- Pipe slots in service of a core (R92). -/
def Core.slotsIn (c : Core) : Nat :=
  (((List.range 4).filter fun p => !c.pipesOff.contains p).map fun p => (c.slotsOf p).length).foldl (· + ·) 0 + (c.slotsOf 4).length

/-- STATE and detail of a unit (R446). A detail that the rule does not name is a free value. -/
def State.unitState (s : State) (kind n : Nat) : Nat × Nat :=
  let other := (Config.freeWord (s.free + 1024 * kind + n)).toNat
  if kind = 1 then
    let c := s.core n
    (if c.coreOff then 3 else if s.mgmt.ift = some (0, n) then 2
      else if c.slotRetired.isEmpty && !c.spareUsed && !c.arrayOff && !c.spareOut then 0 else 1, c.slotsIn)
  else if kind = 2 then
    let cs := (List.range 32).map fun j => (s.chan (32 * n + j)).st
    (if cs.all (fun x => decide (x = .dropped ∨ x = .retired)) then 3 else if cs.all (fun x => decide (x = .up)) then 0 else 1, other)
  else if kind = 3 then
    let c := s.chan n
    (if c.st = .retired then 3 else if s.mgmt.ift = some (1, n) then 2 else if c.st = .up then 0 else 1, c.st.code)
  else if kind = 4 then (if s.res.retiredSlices.contains n then 3 else 0, other)
  else if kind = 5 then
    let l := s.link n
    (if l.st = 4 then 3 else if l.st = 2 then 0 else 1, l.width)
  else if kind = 6 then
    (if !bitOf (s.bridgeLive (n / 32)) (n % 32) then 3 else if bitOf (s.net.bridgeHalf.read 0 (n / 32)) (n % 32) then 1 else 0, other)
  else (0, other)

/-- WORST (R446): the worst grade among events that are not acknowledged. -/
def Mgmt.worst (m : Mgmt) : Nat := (m.log.drop m.acked).foldl (fun w r => Nat.max w r.grade) 0

/-- HEALTH_TABLE_UPDATE (R446): one update; GEN is advanced before and after it. -/
def execHealthTableUpdate (s : State) : Host.Outcome State Fault Refusal :=
  let m := s.mgmt
  let rows := (List.range 1187).map fun u =>
    let (k, n) := unitOf u
    let (st, d) := s.unitState k n
    (u, { m.units.read UnitRec.init u with st := st, detail := d })
  .next { s with
    free := s.free + 16384
    mgmt := { m with
      table := rows, tableGen := (m.tableGen + 2) % 2 ^ 64, tableHead := m.log.length, tableWorst := m.worst
      tableDev := s.sysv 0x502 % 65536, tablePhase := s.phase } }

/-- The 64-byte header of the health table (R446). -/
def Mgmt.header (m : Mgmt) : Bytes :=
  leBytes 8 m.tableGen ++ leBytes 2 m.tableDev ++ leBytes 1 m.tablePhase ++ leBytes 1 m.tableWorst ++ leBytes 4 1187 ++
    leBytes 8 m.tableHead ++ zeros 40

/-- A unit record (R446). -/
def Mgmt.unitBytes (m : Mgmt) (u : Nat) : Bytes :=
  let x := m.table.read UnitRec.init u
  let (k, n) := unitOf u
  leBytes 1 k ++ leBytes 2 n ++ leBytes 1 x.st ++ leBytes 4 x.detail ++ leBytes 4 (Nat.min (2 ^ 32 - 1) x.aEvents) ++
    leBytes 2 (Nat.min 65535 x.bEvents) ++ leBytes 2 x.worst

/-- The record that entry `i` of the event log holds: that of the latest event k with k mod 4,096 = i (R446). -/
def Mgmt.eventAt (m : Mgmt) (i : Nat) : Bytes :=
  if m.tableHead ≤ i then zeros 32
  else ((m.log[i + (m.tableHead - 1 - i) / 4096 * 4096]?).map FaultRec.bytes).getD (zeros 32)

/-- A quadword of the health table at an offset that is a multiple of 8 (R436, R446). -/
def Mgmt.tableWord (m : Mgmt) (o : Nat) : Nat :=
  if o < 64 then hdr m.header o 8
  else if o < 64 + 16 * 1187 then hdr (m.unitBytes ((o - 64) / 16)) (o % 16) 8
  else if 0x100000 ≤ o ∧ o < 0x100000 + 32 * 4096 then hdr (m.eventAt ((o - 0x100000) / 32)) (o % 32) 8
  else 0

-- The host port -------------------------------------------------------------------------------------------------------

/-- A grade-A event of the host port (R436). -/
def State.hostEvent (s : State) : State :=
  { s with free := s.free + 1 }.logEvent none (eventRec 1 (Config.freeWord s.free).toNat 0)

/-- A value returned to the host. -/
def State.toHost (s : State) (bs : Bytes) : State := { s with mgmt := { s.mgmt with hostOut := s.mgmt.hostOut ++ [bs] } }

/-- Whether a BAR 0 access is one aligned 8-byte access within the BAR (R436). -/
def barOk (off size : Nat) : Bool := decide (size = 8) && decide (off % 8 = 0) && decide (off < 2 ^ 26)

/-- BAR0_WRITE (R436): a privileged MTSR of the core that owns the window; the per-group registers and numbers from 0x800
on are not reached. -/
def execBar0Write (off size : Nat) (v : Dword) (s : State) : Host.Outcome State Fault Refusal :=
  if !barOk off size then .next s.hostEvent
  else if off < 0x8000 * Config.cores then
    let n := off % 0x8000 / 8
    if n < 0x100 ∨ 0x800 ≤ n ∨ n = 0x210 ∨ n = 0x211 then .next s
    else .next (s.writeSys (off / 0x8000) n v.toNat)
  else if 0x1000000 ≤ off ∧ off < 0x1000080 then
    .next { s with mgmt := { s.mgmt with msixTable := s.mgmt.msixTable.write 0#64 ((off - 0x1000000) / 8) v } }
  else .next s

/-- What BAR 0 reads at an aligned offset (R436). The pending bits are a free value. -/
def State.bar0Word (s : State) (off : Nat) : Nat :=
  if off < 0x8000 * Config.cores then
    let n := off % 0x8000 / 8
    if n < 0x100 ∨ 0x800 ≤ n ∨ n = 0x210 ∨ n = 0x211 then 0 else s.readReg (off / 0x8000) n
  else if 0x1000000 ≤ off ∧ off < 0x1000080 then (s.mgmt.msixTable.read 0#64 ((off - 0x1000000) / 8)).toNat
  else if off = 0x1008000 then (Config.freeDword s.free).toNat
  else if 0x2000000 ≤ off ∧ off < 0x3000000 then s.mgmt.tableWord (off - 0x2000000)
  else 0

/-- BAR0_READ (R436). -/
def execBar0Read (off size : Nat) (s : State) : Host.Outcome State Fault Refusal :=
  if !barOk off size then .next (s.hostEvent.toHost (List.replicate size 0xFF#8))
  else .next ({ s with free := s.free + 1 }.toHost (leBytes 8 (s.bar0Word off)))

/-- The device physical address of a byte of BAR 2 (R437). -/
def State.bar2Addr (s : State) (o : Nat) : Nat :=
  let b := bitsOf (s.sysv 0x702) 0 12
  (if 0x9C7 < b then 0 else b) * 2 ^ 28 + o

/-- Whether BAR 2 reaches a device physical address (R437): a placed page, and no table of the reserved region. -/
def bar2Reaches (pa : Nat) : Bool := decide (pa / 65536 ≤ Config.lastPage) && !inTables pa

/-- BAR2_ACCESS (R437): a read of `n` bytes, or a write of the given ones. A byte that cannot be decoded is a free value. -/
def execBar2Access (off n : Nat) (w : Option Bytes) (s : State) : Host.Outcome State Fault Refusal :=
  match w with
  | some bs =>
    .next (((bs.zipIdx).filter fun e => decide (off + e.2 < 2 ^ 28) && bar2Reaches (s.bar2Addr (off + e.2))).foldl
      (fun (s : State) e => s.linearBytes (s.bar2Addr (off + e.2)) [e.1]) s)
  | none =>
    let rd := fun (i : Nat) =>
      let pa := s.bar2Addr (off + i)
      if 2 ^ 28 ≤ off + i ∨ bar2Reaches pa = false then 0xFF#8
      else (s.linearByte pa).getD (BitVec.ofNat 8 (Config.freeNat (s.free + i)))
    .next ({ s with free := s.free + n }.toHost ((List.range n).map rd))

/-- What the flash keeps of a core (R439). -/
def Core.keep (c : Core) : CoreKeep := ⟨c.slotRetired, c.pipesOff, c.coreOff, c.spareUsed, c.steered, c.arrayOff, c.spareOut⟩
/-- The persistent state (R439). -/
def State.persistent (s : State) : Flash :=
  ⟨s.res.chans, s.cores.map fun e => (e.1, e.2.keep), s.net.meshOut⟩

/-- A list of numbers as bytes: its length, then each. -/
def natsBytes (ns : List Nat) : Bytes := leBytes 4 ns.length ++ ns.flatMap (leBytes 4)

/-- The persistent state as bytes, for its digest. DESIGN CHOICE (safe, log 160): the encoding; the digest is a free function of
it. -/
def Flash.bytes (f : Flash) : Bytes :=
  leBytes 4 f.chans.length ++ (f.chans.flatMap fun e => natsBytes ([e.1, e.2.st.code] ++ e.2.slotsOut)) ++
    leBytes 4 f.cores.length ++ (f.cores.flatMap fun e =>
      natsBytes ([e.1, b2n e.2.coreOff, b2n e.2.spareUsed, e.2.steered, b2n e.2.arrayOff, b2n e.2.spareOut]) ++
        natsBytes e.2.slotRetired ++ natsBytes e.2.pipesOff) ++
    natsBytes f.meshOut

/-- A digest of 48 bytes (R440, R441). -/
def digestOf (bs : Bytes) : Bytes := (List.range 48).map (Config.sha384 bs)

/-- SPDM_REQUEST (R441): the measurements of a block, with a signature. Blocks 1 and 2 hold the firmware digests that start-up has
recorded, 3 holds FEAT and a digest of persistent state, 0xFE an LMS signature. Signatures are free values, and so are other blocks
and, before start-up has recorded them, the firmware digests. -/
def execSpdmRequest (block : Nat) (s : State) : Host.Outcome State Fault Refusal :=
  let dig := fun (k n : Nat) => (List.range n).map fun i => Config.digest (1024 * s.free + k) i
  let sig := dig 2 96
  let body := if block = 1 then (match s.mgmt.measured with
      | some (d, _) => d
      | none => dig 1 48) ++ sig
    else if block = 2 then (match s.mgmt.measured with
      | some (_, d) => d
      | none => dig 1 48) ++ sig
    else if block = 3 then leBytes 8 (s.sysv 0x700) ++ digestOf s.persistent.bytes ++ sig
    else if block = 0xFE then dig 0xFE (Config.freeNat s.free % 65536)
    else dig 0 (Config.freeNat s.free % 65536)
  .next ({ s with free := s.free + 1 }.toHost body)

-- Resets --------------------------------------------------------------------------------------------------------------

/-- A core right after a reset (R94, R168, R439). -/
def CoreKeep.core (k : CoreKeep) : Core :=
  { Core.init with
    slotRetired := k.slotRetired, pipesOff := k.pipesOff, coreOff := k.coreOff, spareUsed := k.spareUsed, steered := k.steered
    arrayOff := k.arrayOff, spareOut := k.spareOut }

/-- PERSISTENT_STATE_SAVE (R439). -/
def execPersistentStateSave (s : State) : Host.Outcome State Fault Refusal :=
  .next { s with mgmt := { s.mgmt with flash := s.persistent } }

/-- A channel after a reset (R417, R433, R439): a repair in progress ends, and counts since reset are 0. -/
def Chan.afterReset (c : Chan) : Chan :=
  { c with st := if c.st = .repair then c.prev else c.st, corrections := 0, uncorr := [], owner := 0, ended := none }

/-- Dirty lines at a warm or function reset: whether each was written back is a free value. -/
def State.flushSome (s : State) : State :=
  let dirty := (s.l2.filter fun e => e.2.dirty).map (·.1)
  (dirty.zipIdx).foldl (fun s e => if Config.freeBit (s.free + e.2) then (s.noteBlock e.1).writeBack e.1 else s) s

/-- The state that every reset leaves (R439), with the memory, the resilient memory and the persistent state given. -/
def State.afterReset (s : State) (mem : List Host.Cell) (res : Resil) (f : Flash) (cold : Bool) : State :=
  let z := State.reset
  { z with
    cores := f.cores.map fun e => (e.1, e.2.core)
    mem := mem
    res := res
    net := { z.net with meshOut := f.meshOut }
    mgmt := { z.mgmt with flash := s.mgmt.flash, cold := cold }
    agenda := s.agenda
    free := s.free + s.l2.length + 1 }

/-- The resilient memory after a warm or function reset (R411, R416, R417, R426): what lies in device memory stays, a
slice retirement in progress is done, engines stop, and counts since reset are 0. -/
def State.keptRes (s : State) : Resil :=
  let r := s.res
  { r with
    chans := r.chans.map fun e => (e.1, e.2.afterReset)
    rebuild := State.reset.res.rebuild
    heldW := [], sent := [], reissued := []
    gen := 0, retiring := none, markers := [], waiting := [], cursor := 0, passes := 0 }

/-- WARM_RESET and FUNCTION_RESET (R439): tasks end without a completion word. DESIGN CHOICE (log 155): repairs end, and the writes
that they have held are performed. -/
def State.softReset (s : State) : State :=
  let s := s.flushSome
  let chans := s.res.chans.map fun e => (e.1, e.2.afterReset)
  let s := ({ s with res := { s.res with chans := chans } } : State).releaseWrites
  let s := s.afterReset s.mem s.keptRes s.persistent false
  { s with mem := memWrite s.mem (Config.reservedBase + 0x5000000) ((List.range 4096).flatMap fun b => leBytes 2 (s.sliceOfBucket b)) }

/-- WARM_RESET (R439). -/
def execWarmReset (s : State) : Host.Outcome State Fault Refusal := .next s.softReset
/-- FUNCTION_RESET (R439). -/
def execFunctionReset (s : State) : Host.Outcome State Fault Refusal := .next s.softReset

/-- COLD_RESET (R439): device memory is lost, and persistent state comes from the flash. -/
def execColdReset (s : State) : Host.Outcome State Fault Refusal :=
  let f := s.mgmt.flash
  let chans := f.chans.map fun e => (e.1, { e.2.afterReset with spares := [] })
  .next (s.afterReset [] { State.reset.res with chans := chans } f true)

/-- Retires the slices of channels that came back DROPPED or RETIRED, in ascending order, before anything is cached
(R417, R422). -/
def State.retireSlices (s : State) : State :=
  let gone := (List.range Config.channels).filter fun c =>
    ((s.chan c).st = .dropped ∨ (s.chan c).st = .retired) ∧ !s.res.retiredSlices.contains c
  let s := gone.foldl (fun (s : State) z =>
    let moved := s.nextOwners z
    { s with res := { s.res with
        map := moved.foldl (fun (m : Tab Nat) (e : Nat × Nat) => m.write 0 e.1 (e.2 + 1)) s.res.map
        retiredSlices := z :: s.res.retiredSlices } }) s
  if gone.isEmpty then s
  else { s with mem := memWrite s.mem (Config.reservedBase + 0x5000000) ((List.range 4096).flatMap fun b => leBytes 2 (s.sliceOfBucket b)) }

/-- After a cold reset a page with a position on a RETIRED channel, or in a retired slot, is relocated by R419 (R440). -/
def State.relocateSlot (s : State) (ch sl : Nat) : State :=
  match s.slotPage ch sl with
  | none => s
  | some (n, p) =>
    match s.chooseSpare n with
    | none => s.leaveUnrelocated ch n
    | some (c, sp) =>
      match ppaRelocate (s.ppa n) p c sp with
      | none => s.leaveUnrelocated ch n
      | some e => (s.takeSpare c sp).setPpa n e

/-- The placement of a cold start (R440 step 4). DESIGN CHOICE (unsafe, log 114): the pages are relocated channel by channel
and slot by slot, in ascending order. -/
def State.placeAll (s : State) : State :=
  (Tab.keys s.res.chans).foldl (fun (s : State) ch =>
    let c := s.chan ch
    let slots := if c.st = .retired then (List.range dataSlots).map physSlot else c.slotsOut
    slots.foldl (fun s sl => s.relocateSlot ch sl) s) s

/-- The device firmware stands in the firmware area (R440 step 2). -/
def State.loadFirmware (s : State) : State :=
  let image := Config.firmwareImage.take Config.firmwareSize
  (List.range ((image.length + 127) / 128)).foldl
    (fun s i => s.linearBytes (Config.firmwareBase + 128 * i) ((image.drop (128 * i)).take 128)) s

/-- The Mirmar links that are enabled and down are trained (R440 step 5): which of them have a partner that answers, and what each
learns, are free values. -/
def State.trainLinks (s : State) : State :=
  (List.range 18).foldl (fun s l =>
    let f := s.free + 8 * l
    if Config.freeBit f then
      s.trainLink l (Config.freeBit (f + 1)) (Config.freeNat (f + 2)) (Config.freeNat (f + 3))
    else s) s

/-- START_UP (R440): `ok` tells whether the images verify. A success ends a failed start that Isaby's recovery path has
mended. DESIGN CHOICE (log 160): the firmware stands in the firmware area when the placement of a cold start has been made, so that the
area reads as the image. -/
def execStartUp (ok : Bool) (s : State) : Host.Outcome State Fault Refusal :=
  if s.phase ≠ 0 then .next s
  else if !ok then .next (s.forceSys 0x703 (s.sysv 0x703 % 16 + 16))
  else
    let s := if s.mgmt.cold then s.placeAll else s
    let s := s.retireSlices
    let t := s.loadFirmware
    let s := { s with
      mem := t.mem, res := t.res, net := s.trainLinks.net, free := s.free + 256
      mgmt := { s.mgmt with cold := false, measured := some (digestOf Config.isabyImage, digestOf Config.firmwareImage) } }
    .next (s.forceSys 0x703 (s.sysv 0x703 % 16 / 8 * 8 + (if bitOf (s.sysv 0x703) 3 then 2 else 1)))

-- The clock -----------------------------------------------------------------------------------------------------------

/-- SUPPLY_SAG (R449). -/
def execSupplySag (s : State) : Host.Outcome State Fault Refusal :=
  .next { s with mgmt := { s.mgmt with kSag := 12, sags := (s.mgmt.sags + 1) % 2 ^ 32 } }

/-- LIMIT in force (R449). -/
def State.powerLimit (s : State) : Nat := Nat.max 1000 (Nat.min 3200 (bitsOf (s.sysv 0x704) 0 12))

/-- One step down or up of a control's value of k, between 4 and 16. -/
def clockDown (k : Nat) : Nat := Nat.max 4 (k - 1)
/-- One step up. -/
def clockUp (k : Nat) : Nat := Nat.min 16 (k + 1)

/-- CLOCK_STEP (R449): with `sag`, one microsecond after recovery from a sag; else 100 microseconds at a module power in W
and with the junction above 100 °C or not. -/
def execClockStep (sag : Bool) (power : Nat) (hot : Bool) (s : State) : Host.Outcome State Fault Refusal :=
  let m := s.mgmt
  let l := s.powerLimit
  if sag then .next { s with mgmt := { m with kSag := clockUp m.kSag } }
  else
    .next { s with mgmt := { m with
      kPwr := if l < power then clockDown m.kPwr else if 100 * power ≤ 95 * l then clockUp m.kPwr else m.kPwr
      kHot := if hot then clockDown m.kHot else clockUp m.kHot } }

/-- THERMAL_TRIP (R449): a grade-E event, and the clocks stop. -/
def execThermalTrip (s : State) : Host.Outcome State Fault Refusal :=
  let s := { s with free := s.free + 1 }.logEvent none (eventRec 5 (Config.freeWord s.free).toNat 0)
  .next { s with mgmt := { s.mgmt with stopped := true } }

end Sys2Proof.Machine
end

