-- ==== Sys2Proof/Machine/Dispatch.lean ====
section
/-! DEFINITION. The dispatcher: one arm for each constructor of Instr. -/
namespace Sys2Proof.Machine

/-- What an instruction or an event does to the machine. -/
def exec (i : Instr) (s : State) : Host.Outcome State Fault Refusal :=
  match i with
  | .brt p disp => Sys2Proof.Machine.execBrt p disp s
  | .brf p disp => Sys2Proof.Machine.execBrf p disp s
  | .call disp => Sys2Proof.Machine.execCall disp s
  | .brx a => Sys2Proof.Machine.execBrx a s
  | .callx a => Sys2Proof.Machine.execCallx a s
  | .ret => Sys2Proof.Machine.execRet s
  | .retTargetPair a => Sys2Proof.Machine.execRetTargetPair a s
  | .retLowWord b => Sys2Proof.Machine.execRetLowWord b s
  | .exit => Sys2Proof.Machine.execExit s
  | .yield => Sys2Proof.Machine.execYield s
  | .sleep a => Sys2Proof.Machine.execSleep a s
  | .nop => Sys2Proof.Machine.execNop s
  | .itemhead d => Sys2Proof.Machine.execItemhead d s
  | .itemnext d => Sys2Proof.Machine.execItemnext d s
  | .wbase d a => Sys2Proof.Machine.execWbase d a s
  | .wbadd d a => Sys2Proof.Machine.execWbadd d a s
  | .hjoin h => Sys2Proof.Machine.execHjoin h s
  | .hleave h => Sys2Proof.Machine.execHleave h s
  | .hwait h => Sys2Proof.Machine.execHwait h s
  | .hset a h => Sys2Proof.Machine.execHset a h s
  | .hget d h => Sys2Proof.Machine.execHget d h s
  | .hcount d h => Sys2Proof.Machine.execHcount d h s
  | .hclr h => Sys2Proof.Machine.execHclr h s
  | .sel nw d a b p => Sys2Proof.Machine.execSel nw d a b p s
  | .pand d a b => Sys2Proof.Machine.execPand d a b s
  | .por d a b => Sys2Proof.Machine.execPor d a b s
  | .pxor d a b => Sys2Proof.Machine.execPxor d a b s
  | .pandn d a b => Sys2Proof.Machine.execPandn d a b s
  | .pnot d a => Sys2Proof.Machine.execPnot d a s
  | .pmov d a => Sys2Proof.Machine.execPmov d a s
  | .pclr d => Sys2Proof.Machine.execPclr d s
  | .add nw d a b => Sys2Proof.Machine.execAdd nw d a b s
  | .sub nw d a b => Sys2Proof.Machine.execSub nw d a b s
  | .min nw d a b => Sys2Proof.Machine.execMin nw d a b s
  | .max nw d a b => Sys2Proof.Machine.execMax nw d a b s
  | .minn nw d a b => Sys2Proof.Machine.execMinn nw d a b s
  | .maxn nw d a b => Sys2Proof.Machine.execMaxn nw d a b s
  | .abs nw d a => Sys2Proof.Machine.execAbs nw d a s
  | .absdiff nw d a b => Sys2Proof.Machine.execAbsdiff nw d a b s
  | .addsat nw d a b => Sys2Proof.Machine.execAddsat nw d a b s
  | .subsat nw d a b => Sys2Proof.Machine.execSubsat nw d a b s
  | .addsatn nw d a b => Sys2Proof.Machine.execAddsatn nw d a b s
  | .subsatn nw d a b => Sys2Proof.Machine.execSubsatn nw d a b s
  | .sad nw d a b => Sys2Proof.Machine.execSad nw d a b s
  | .and nw d a b => Sys2Proof.Machine.execAnd nw d a b s
  | .or nw d a b => Sys2Proof.Machine.execOr nw d a b s
  | .xor nw d a b => Sys2Proof.Machine.execXor nw d a b s
  | .andn nw d a b => Sys2Proof.Machine.execAndn nw d a b s
  | .orn nw d a b => Sys2Proof.Machine.execOrn nw d a b s
  | .xnor nw d a b => Sys2Proof.Machine.execXnor nw d a b s
  | .shl nw d a b => Sys2Proof.Machine.execShl nw d a b s
  | .shr nw d a b => Sys2Proof.Machine.execShr nw d a b s
  | .sar nw d a b => Sys2Proof.Machine.execSar nw d a b s
  | .rol nw d a b => Sys2Proof.Machine.execRol nw d a b s
  | .ror nw d a b => Sys2Proof.Machine.execRor nw d a b s
  | .mul nw d a b => Sys2Proof.Machine.execMul nw d a b s
  | .mulh nw d a b => Sys2Proof.Machine.execMulh nw d a b s
  | .mulhn nw d a b => Sys2Proof.Machine.execMulhn nw d a b s
  | .mad nw d a b => Sys2Proof.Machine.execMad nw d a b s
  | .div nw d a b => Sys2Proof.Machine.execDiv nw d a b s
  | .divn nw d a b => Sys2Proof.Machine.execDivn nw d a b s
  | .rem nw d a b => Sys2Proof.Machine.execRem nw d a b s
  | .remn nw d a b => Sys2Proof.Machine.execRemn nw d a b s
  | .clz nw d a => Sys2Proof.Machine.execClz nw d a s
  | .ctz nw d a => Sys2Proof.Machine.execCtz nw d a s
  | .popc nw d a => Sys2Proof.Machine.execPopc nw d a s
  | .brev nw d a => Sys2Proof.Machine.execBrev nw d a s
  | .bfe nw d a b => Sys2Proof.Machine.execBfe nw d a b s
  | .bfes nw d a b => Sys2Proof.Machine.execBfes nw d a b s
  | .bfi nw d a b => Sys2Proof.Machine.execBfi nw d a b s
  | .bmix nw d a b => Sys2Proof.Machine.execBmix nw d a b s
  | .add64 d a b => Sys2Proof.Machine.execAdd64 d a b s
  | .sub64 d a b => Sys2Proof.Machine.execSub64 d a b s
  | .shl64 d a b => Sys2Proof.Machine.execShl64 d a b s
  | .shr64 d a b => Sys2Proof.Machine.execShr64 d a b s
  | .sar64 d a b => Sys2Proof.Machine.execSar64 d a b s
  | .mul64 d a b => Sys2Proof.Machine.execMul64 d a b s
  | .mul64n d a b => Sys2Proof.Machine.execMul64n d a b s
  | .lea64 d a b => Sys2Proof.Machine.execLea64 d a b s
  | .cmp p a b c => Sys2Proof.Machine.execCmp p a b c s
  | .cmp64 p a b c => Sys2Proof.Machine.execCmp64 p a b c s
  | .ballot nw d p => Sys2Proof.Machine.execBallot nw d p s
  | .pfrom p a => Sys2Proof.Machine.execPfrom p a s
  | .matchLanes nw d a => Sys2Proof.Machine.execMatch nw d a s
  | .psum nw d a => Sys2Proof.Machine.execPsum nw d a s
  | .psumi nw d a => Sys2Proof.Machine.execPsumi nw d a s
  | .lred nw d a o => Sys2Proof.Machine.execLred nw d a o s
  | .shfl nw d a b => Sys2Proof.Machine.execShfl nw d a b s
  | .shflup nw d a b => Sys2Proof.Machine.execShflup nw d a b s
  | .shfldn nw d a b => Sys2Proof.Machine.execShfldn nw d a b s
  | .shflx nw d a b => Sys2Proof.Machine.execShflx nw d a b s
  | .rdlane nw d a b => Sys2Proof.Machine.execRdlane nw d a b s
  | .wrlane nw d a b => Sys2Proof.Machine.execWrlane nw d a b s
  | .elect nw d => Sys2Proof.Machine.execElect nw d s
  | .mov nw d a => Sys2Proof.Machine.execMov nw d a s
  | .mov64 d a => Sys2Proof.Machine.execMov64 d a s
  | .active nw d => Sys2Proof.Machine.execActive nw d s
  | .addi nw d a ix => Sys2Proof.Machine.execAddi nw d a ix s
  | .andi nw d a ix => Sys2Proof.Machine.execAndi nw d a ix s
  | .ori nw d a ix => Sys2Proof.Machine.execOri nw d a ix s
  | .xori nw d a ix => Sys2Proof.Machine.execXori nw d a ix s
  | .shli nw d a c => Sys2Proof.Machine.execShli nw d a c s
  | .shri nw d a c => Sys2Proof.Machine.execShri nw d a c s
  | .sari nw d a c => Sys2Proof.Machine.execSari nw d a c s
  | .movi nw d ix => Sys2Proof.Machine.execMovi nw d ix s
  | .cmpi c p a ix => Sys2Proof.Machine.execCmpi c p a ix s
  | .muli nw d a ix => Sys2Proof.Machine.execMuli nw d a ix s
  | .imx ix => Sys2Proof.Machine.execImx ix s
  | .fadd nw d a b f r => Sys2Proof.Machine.execFadd nw d a b f r s
  | .fsub nw d a b f r => Sys2Proof.Machine.execFsub nw d a b f r s
  | .fmul nw d a b f r => Sys2Proof.Machine.execFmul nw d a b f r s
  | .ffma nw d a b f r => Sys2Proof.Machine.execFfma nw d a b f r s
  | .fmin nw d a b => Sys2Proof.Machine.execFmin nw d a b s
  | .fmax nw d a b => Sys2Proof.Machine.execFmax nw d a b s
  | .fabs nw d a => Sys2Proof.Machine.execFabs nw d a s
  | .fneg nw d a => Sys2Proof.Machine.execFneg nw d a s
  | .fcopysign nw d a b => Sys2Proof.Machine.execFcopysign nw d a b s
  | .fclass nw d a => Sys2Proof.Machine.execFclass nw d a s
  | .frint nw d a r => Sys2Proof.Machine.execFrint nw d a r s
  | .fscale nw d a b => Sys2Proof.Machine.execFscale nw d a b s
  | .frcp nw d a => Sys2Proof.Machine.execFrcp nw d a s
  | .frsq nw d a => Sys2Proof.Machine.execFrsq nw d a s
  | .fsqrt nw d a => Sys2Proof.Machine.execFsqrt nw d a s
  | .fex2 nw d a => Sys2Proof.Machine.execFex2 nw d a s
  | .flg2 nw d a => Sys2Proof.Machine.execFlg2 nw d a s
  | .srseed a => Sys2Proof.Machine.execSrseed a s
  | .fcmp t p a b c => Sys2Proof.Machine.execFcmp t p a b c s
  | .fcvt nw d a m sx t => Sys2Proof.Machine.execFcvt nw d a m sx t s
  | .tclaim d a k => Sys2Proof.Machine.execTclaim d a k s
  | .trel a k => Sys2Proof.Machine.execTrel a k s
  | .tzero a k => Sys2Proof.Machine.execTzero a k s
  | .tstat d n => Sys2Proof.Machine.execTstat d n s
  | .tscale d a n => Sys2Proof.Machine.execTscale d a n s
  | .tscaleRemove d => Sys2Proof.Machine.execTscaleRemove d s
  | .tld sx a b => Sys2Proof.Machine.execTld sx a b s
  | .tldx w sx a b => Sys2Proof.Machine.execTldx w sx a b s
  | .tlds sx a n => Sys2Proof.Machine.execTlds sx a n s
  | .tst y t a m r => Sys2Proof.Machine.execTst y t a m r s
  | .tmv d a t => Sys2Proof.Machine.execTmv d a t s
  | .tmvi t a b => Sys2Proof.Machine.execTmvi t a b s
  | .mma sat z t va a vb b f => Sys2Proof.Machine.execMma sat z t va a vb b f s
  | .mms e z t va a vb b f => Sys2Proof.Machine.execMms e z t va a vb b f s
  | .atom64 g d a o sx r => Sys2Proof.Machine.execAtom64 g d a o sx r s
  | .atoml g d a o sx r => Sys2Proof.Machine.execAtoml g d a o sx r s
  | .casl g d a sx r => Sys2Proof.Machine.execCasl g d a sx r s
  | .tred d a b => Sys2Proof.Machine.execTred d a b s
  | .trwait d a b => Sys2Proof.Machine.execTrwait d a b s
  | .trdef d a b => Sys2Proof.Machine.execTrdef d a b s
  | .trstat d a n => Sys2Proof.Machine.execTrstat d a n s
  | .ldv g d a z r fresh lin w => Sys2Proof.Machine.execLdv g d a z r fresh lin w s
  | .stv g d a z r fresh lin w => Sys2Proof.Machine.execStv g d a z r fresh lin w s
  | .lds g d a z r fresh lin w => Sys2Proof.Machine.execLds g d a z r fresh lin w s
  | .sts g d a z r fresh lin w => Sys2Proof.Machine.execSts g d a z r fresh lin w s
  | .ldl g d a z r fresh lin w => Sys2Proof.Machine.execLdl g d a z r fresh lin w s
  | .stl g d a z r fresh lin w => Sys2Proof.Machine.execStl g d a z r fresh lin w s
  | .pref a r v => Sys2Proof.Machine.execPref a r v s
  | .invl a => Sys2Proof.Machine.execInvl a s
  | .invlAll => Sys2Proof.Machine.execInvlAll s
  | .wbl inv a b => Sys2Proof.Machine.execWbl inv a b s
  | .sdrain => Sys2Proof.Machine.execSdrain s
  | .sete a => Sys2Proof.Machine.execSete a s
  | .setf a => Sys2Proof.Machine.execSetf a s
  | .bankcfg d a b => Sys2Proof.Machine.execBankcfg d a b s
  | .probe d a => Sys2Proof.Machine.execProbe d a s
  | .acq a sx => Sys2Proof.Machine.execAcq a sx s
  | .rel a sx => Sys2Proof.Machine.execRel a sx s
  | .acqa sx => Sys2Proof.Machine.execAcqa sx s
  | .rela sx => Sys2Proof.Machine.execRela sx s
  | .bind d a b => Sys2Proof.Machine.execBind d a b s
  | .unbind d a => Sys2Proof.Machine.execUnbind d a s
  | .fence d sx => Sys2Proof.Machine.execFence d sx s
  | .waitcnt c n => Sys2Proof.Machine.execWaitcnt c n s
  | .ldacq g d a z sx w => Sys2Proof.Machine.execLdacq g d a z sx w s
  | .strel g d a z sx w => Sys2Proof.Machine.execStrel g d a z sx w s
  | .binit a n => Sys2Proof.Machine.execBinit a n s
  | .barv d a n => Sys2Proof.Machine.execBarv d a n s
  | .bwait a n => Sys2Proof.Machine.execBwait a n s
  | .bsync a n => Sys2Proof.Machine.execBsync a n s
  | .cbar a => Sys2Proof.Machine.execCbar a s
  | .srput a r => Sys2Proof.Machine.execSrput a r s
  | .srtake a r => Sys2Proof.Machine.execSrtake a r s
  | .srwaitFull a r => Sys2Proof.Machine.execSrwaitFull a r s
  | .srwaitFree a r => Sys2Proof.Machine.execSrwaitFree a r s
  | .atom g d a o sx r => Sys2Proof.Machine.execAtom g d a o sx r s
  | .red g d a o sx rl => Sys2Proof.Machine.execRed g d a o sx rl s
  | .cas g d a w sx r => Sys2Proof.Machine.execCas g d a w sx r s
  | .xopen d => Sys2Proof.Machine.execXopen d s
  | .xserial => Sys2Proof.Machine.execXserial s
  | .xclose => Sys2Proof.Machine.execXclose s
  | .xquit a => Sys2Proof.Machine.execXquit a s
  | .xstat d => Sys2Proof.Machine.execXstat d s
  | .xdeps d n => Sys2Proof.Machine.execXdeps d n s
  | .lrec d a b => Sys2Proof.Machine.execLrec d a b s
  | .lfree a => Sys2Proof.Machine.execLfree a s
  | .cpy d a b => Sys2Proof.Machine.execCpy d a b s
  | .cpyg d a b => Sys2Proof.Machine.execCpyg d a b s
  | .cpys d a b => Sys2Proof.Machine.execCpys d a b s
  | .cpyc d a b => Sys2Proof.Machine.execCpyc d a b s
  | .cpym d a b => Sys2Proof.Machine.execCpym d a b s
  | .cpye d a b => Sys2Proof.Machine.execCpye d a b s
  | .cpyf d a b => Sys2Proof.Machine.execCpyf d a b s
  | .chbind d a b => Sys2Proof.Machine.execChbind d a b s
  | .chfree q c => Sys2Proof.Machine.execChfree q c s
  | .chstat d c => Sys2Proof.Machine.execChstat d c s
  | .send a k c => Sys2Proof.Machine.execSend a k c s
  | .lstat d a => Sys2Proof.Machine.execLstat d a s
  | .launch d a => Sys2Proof.Machine.execLaunch d a s
  | .lwait d a => Sys2Proof.Machine.execLwait d a s
  | .lquery d a => Sys2Proof.Machine.execLquery d a s
  | .itemput a b => Sys2Proof.Machine.execItemput a b s
  | .itemclose b => Sys2Proof.Machine.execItemclose b s
  | .prio d a b => Sys2Proof.Machine.execPrio d a b s
  | .nopre => Sys2Proof.Machine.execNopre s
  | .okpre => Sys2Proof.Machine.execOkpre s
  | .gkill d a b => Sys2Proof.Machine.execGkill d a b s
  | .trap a => Sys2Proof.Machine.execTrap a s
  | .rett a => Sys2Proof.Machine.execRett a s
  | .mfsr d a => Sys2Proof.Machine.execMfsr d a s
  | .mtsr a b => Sys2Proof.Machine.execMtsr a b s
  | .brk => Sys2Proof.Machine.execBrk s
  | .fpop d a b => Sys2Proof.Machine.execFpop d a b s
  | .fresume d a b => Sys2Proof.Machine.execFresume d a b s
  | .mscrub d a b => Sys2Proof.Machine.execMscrub d a b s
  | .mretire d a b => Sys2Proof.Machine.execMretire d a b s
  | .mrepair d a b => Sys2Proof.Machine.execMrepair d a b s
  | .mrebuild d a b => Sys2Proof.Machine.execMrebuild d a b s
  | .mdrop d a => Sys2Proof.Machine.execMdrop d a s
  | .mplace d a b => Sys2Proof.Machine.execMplace d a b s
  | .minject d a b => Sys2Proof.Machine.execMinject d a b s
  | .mstat d a n => Sys2Proof.Machine.execMstat d a n s
  | .arrayQueueEntryComplete core ix => Sys2Proof.Machine.execArrayQueueEntryComplete core ix s
  | .treeNodeFold tree node => Sys2Proof.Machine.execTreeNodeFold tree node s
  | .treeTimeout tree => Sys2Proof.Machine.execTreeTimeout tree s
  | .loadCompletion g seq => Sys2Proof.Machine.execLoadCompletion g seq s
  | .homeSliceRequest g seq line victim => Sys2Proof.Machine.execHomeSliceRequest g seq line victim s
  | .translationWalk g seq line => Sys2Proof.Machine.execTranslationWalk g seq line s
  | .deferredLoadFault g => Sys2Proof.Machine.execDeferredLoadFault g s
  | .scratchWaitEnd g => Sys2Proof.Machine.execScratchWaitEnd g s
  | .wcbLineDrain g line => Sys2Proof.Machine.execWcbLineDrain g line s
  | .storeWriteAtHome g id => Sys2Proof.Machine.execStoreWriteAtHome g id s
  | .storeFaultRecordArrival g => Sys2Proof.Machine.execStoreFaultRecordArrival g s
  | .storeFault g => Sys2Proof.Machine.execStoreFault g s
  | .waitEnd g => Sys2Proof.Machine.execWaitEnd g s
  | .atomicPerform g seq line => Sys2Proof.Machine.execAtomicPerform g seq line s
  | .redCombine g seq g2 seq2 => Sys2Proof.Machine.execRedCombine g seq g2 seq2 s
  | .redHoldExpiry g seq => Sys2Proof.Machine.execRedHoldExpiry g seq s
  | .regionAccessAtBatten g seq line => Sys2Proof.Machine.execRegionAccessAtBatten g seq line s
  | .regionStoreMerge g seq line => Sys2Proof.Machine.execRegionStoreMerge g seq line s
  | .depthWaitEnd g seq line => Sys2Proof.Machine.execDepthWaitEnd g seq line s
  | .regionCommit slot => Sys2Proof.Machine.execRegionCommit slot s
  | .regionAbort slot code => Sys2Proof.Machine.execRegionAbort slot code s
  | .regionAbortDelivery g => Sys2Proof.Machine.execRegionAbortDelivery g s
  | .heldWriteRelease g id => Sys2Proof.Machine.execHeldWriteRelease g id s
  | .transferStart core ix n => Sys2Proof.Machine.execTransferStart core ix n s
  | .transferComplete core ix => Sys2Proof.Machine.execTransferComplete core ix s
  | .transferFaultHold core ix => Sys2Proof.Machine.execTransferFaultHold core ix s
  | .multicastDelivery core ix team => Sys2Proof.Machine.execMulticastDelivery core ix team s
  | .crcReply core ix v => Sys2Proof.Machine.execCrcReply core ix v s
  | .channelPopUnblock g => Sys2Proof.Machine.execChannelPopUnblock g s
  | .remotePushArrival g seq => Sys2Proof.Machine.execRemotePushArrival g seq s
  | .pushResend g seq => Sys2Proof.Machine.execPushResend g seq s
  | .nopreOverrun g => Sys2Proof.Machine.execNopreOverrun g s
  | .taskActivation t => Sys2Proof.Machine.execTaskActivation t s
  | .clusterPlacement c => Sys2Proof.Machine.execClusterPlacement c s
  | .groupActivation g => Sys2Proof.Machine.execGroupActivation g s
  | .priorityWriteBack g => Sys2Proof.Machine.execPriorityWriteBack g s
  | .groupQuantum g => Sys2Proof.Machine.execGroupQuantum g s
  | .blockedGroupWriteBack g => Sys2Proof.Machine.execBlockedGroupWriteBack g s
  | .priorityWriteOut c => Sys2Proof.Machine.execPriorityWriteOut c s
  | .teamQuantum c => Sys2Proof.Machine.execTeamQuantum c s
  | .sleepExpiry g => Sys2Proof.Machine.execSleepExpiry g s
  | .agingIssue g => Sys2Proof.Machine.execAgingIssue g s
  | .groupCompletion g => Sys2Proof.Machine.execGroupCompletion g s
  | .taskCompletionWord t => Sys2Proof.Machine.execTaskCompletionWord t s
  | .registerMissFill g reg => Sys2Proof.Machine.execRegisterMissFill g reg s
  | .frameFault g va word => Sys2Proof.Machine.execFrameFault g va word s
  | .localTrap g cause word => Sys2Proof.Machine.execLocalTrap g cause word s
  | .supervisorTrap g cause word => Sys2Proof.Machine.execSupervisorTrap g cause word s
  | .faultRecordAppend => Sys2Proof.Machine.execFaultRecordAppend s
  | .degradedRead g seq line => Sys2Proof.Machine.execDegradedRead g seq line s
  | .stripeWrite key => Sys2Proof.Machine.execStripeWrite key s
  | .channelNoResponseDrop ch => Sys2Proof.Machine.execChannelNoResponseDrop ch s
  | .channelUncorrectableDrop ch => Sys2Proof.Machine.execChannelUncorrectableDrop ch s
  | .rebuildStripeCopy => Sys2Proof.Machine.execRebuildStripeCopy s
  | .rebuildPageCommit => Sys2Proof.Machine.execRebuildPageCommit s
  | .patrolScrubVisit stripe => Sys2Proof.Machine.execPatrolScrubVisit stripe s
  | .repairEnd ch ok => Sys2Proof.Machine.execRepairEnd ch ok s
  | .prepareReceipt req => Sys2Proof.Machine.execPrepareReceipt req s
  | .sliceHandoff => Sys2Proof.Machine.execSliceHandoff s
  | .rehashReply g seq line => Sys2Proof.Machine.execRehashReply g seq line s
  | .flitArrival port f => Sys2Proof.Machine.execFlitArrival port f s
  | .outputArbitration port => Sys2Proof.Machine.execOutputArbitration port s
  | .linkFlit port f => Sys2Proof.Machine.execLinkFlit port f s
  | .replayTimeout port => Sys2Proof.Machine.execReplayTimeout port s
  | .laneLoss link lanes => Sys2Proof.Machine.execLaneLoss link lanes s
  | .retrainComplete link ok => Sys2Proof.Machine.execRetrainComplete link ok s
  | .meshLinkRetirement link => Sys2Proof.Machine.execMeshLinkRetirement link s
  | .linkDeath link => Sys2Proof.Machine.execLinkDeath link s
  | .lostNotice g seq => Sys2Proof.Machine.execLostNotice g seq s
  | .replyAcknowledgement key => Sys2Proof.Machine.execReplyAcknowledgement key s
  | .peerRequestAdmission q => Sys2Proof.Machine.execPeerRequestAdmission q s
  | .linkTraining link slow peer peerLink => Sys2Proof.Machine.execLinkTraining link slow peer peerLink s
  | .tlbInvalPage asid vpn => Sys2Proof.Machine.execTlbInvalPage asid vpn s
  | .tlbInvalRegion asid region => Sys2Proof.Machine.execTlbInvalRegion asid region s
  | .tlbInvalAsid asid => Sys2Proof.Machine.execTlbInvalAsid asid s
  | .tlbInvalAll => Sys2Proof.Machine.execTlbInvalAll s
  | .pwinCtlWrite n v => Sys2Proof.Machine.execPwinCtlWrite n v s
  | .hovCtlWrite n v => Sys2Proof.Machine.execHovCtlWrite n v s
  | .mirmarRtWrite v => Sys2Proof.Machine.execMirmarRtWrite v s
  | .mlinkEnWrite n v => Sys2Proof.Machine.execMlinkEnWrite n v s
  | .featWrite v => Sys2Proof.Machine.execFeatWrite v s
  | .drainSet => Sys2Proof.Machine.execDrainSet s
  | .drainClear => Sys2Proof.Machine.execDrainClear s
  | .drained => Sys2Proof.Machine.execDrained s
  | .evackWrite v => Sys2Proof.Machine.execEvackWrite v s
  | .dbgCmdResume task group => Sys2Proof.Machine.execDbgCmdResume task group s
  | .dbgCmdStep task group => Sys2Proof.Machine.execDbgCmdStep task group s
  | .dbgCmdStop task group => Sys2Proof.Machine.execDbgCmdStop task group s
  | .breakpointHit g => Sys2Proof.Machine.execBreakpointHit g s
  | .iftCoreTest core => Sys2Proof.Machine.execIftCoreTest core s
  | .iftChannelTest ch => Sys2Proof.Machine.execIftChannelTest ch s
  | .iftTestEnd pass => Sys2Proof.Machine.execIftTestEnd pass s
  | .bar0Write off size v => Sys2Proof.Machine.execBar0Write off size v s
  | .bar0Read off size => Sys2Proof.Machine.execBar0Read off size s
  | .bar2Access off n w => Sys2Proof.Machine.execBar2Access off n w s
  | .spdmRequest block => Sys2Proof.Machine.execSpdmRequest block s
  | .coldReset => Sys2Proof.Machine.execColdReset s
  | .warmReset => Sys2Proof.Machine.execWarmReset s
  | .functionReset => Sys2Proof.Machine.execFunctionReset s
  | .startUp ok => Sys2Proof.Machine.execStartUp ok s
  | .healthTableUpdate => Sys2Proof.Machine.execHealthTableUpdate s
  | .resetneeded => Sys2Proof.Machine.execResetneeded s
  | .supplySag => Sys2Proof.Machine.execSupplySag s
  | .clockStep sag power hot => Sys2Proof.Machine.execClockStep sag power hot s
  | .thermalTrip => Sys2Proof.Machine.execThermalTrip s
  | .systemRegisterWrite core n v => Sys2Proof.Machine.execSystemRegisterWrite core n v s
  | .illegalEncoding w => Sys2Proof.Machine.execIllegalEncoding w s
  | .instructionFetchFault cause word => Sys2Proof.Machine.execInstructionFetchFault cause word s
  | .externalAcknowledgement g seq ok data => Sys2Proof.Machine.execExternalAcknowledgement g seq ok data s
  | .persistentStateSave => Sys2Proof.Machine.execPersistentStateSave s

end Sys2Proof.Machine
end

