-- ==== Sys2Proof/Machine/Issue.lean ====
section
/-! DEFINITION. What happens next: fetching a word (R29), the choice of the group that issues (R59 to R62, R358, R359),
what precedes an issue, an IMX pair (R36), and the steps of the engines between issues. -/
namespace Sys2Proof.Machine

/-- A step: of an instruction, an engine, or the surroundings. -/
abbrev Act := State → Host.Outcome State Fault Refusal

/-- Changes the next state of an outcome. -/
def onNext (f : State → State) : Host.Outcome State Fault Refusal → Host.Outcome State Fault Refusal
  | .next s => .next (f s)
  | .fault r => .fault r
  | .refused r => .refused r

-- Fetch -----------------------------------------------------------------------------------------------------------

/-- Four bytes of a line at an offset (R28). -/
def Line.word (l : Line) (o : Nat) : Word := BitVec.ofNat 32 (leNat (Tab.slice 0#8 l.bytes o 4))

/-- A fetch that misses the L1: the line of the home slice, which then stands in the L1 too (R29, R180, R468). -/
def State.fetchHome (s : State) (g : Group) (a : Nat) : Except (Nat × Nat) (State × Word) :=
  if !s.homePath g.core a then .error (causePoison, 0)
  else
    match s.fetch g.asid (a / 128) false true g.priv 0 with
    | .fail c w => .error (c, w)
    | .ext x =>
      let (s, live) := s.extLive g.core x
      if !live then .error (causePoison, 0)
      else match (s.sendRead (s.hardware g.core) .load (a % 128) 4 [] x).outsideBytes 4 x with
        | .ok (s, bs) => .ok (s, BitVec.ofNat 32 (leNat bs))
        | .error e => .error e
    | .line s' l =>
      if l.poison then .error (causePoison, 0)
      else .ok (s'.fillL1 g.core (lineKey g.asid (a / 128)) 0 l, l.word (a % 128))

/-- The instruction word at an address, by a stale-tolerant read (R29, R180, R468): the word, or cause and word of the
fetch fault. An address that is not a multiple of 4 gives ALIGN (R28). -/
def State.fetchWord (s : State) (g : Group) (a : Nat) : Except (Nat × Nat) (State × Word) :=
  match formFault false false 1 a with
  | some e => .error e
  | none =>
    if a % 4 ≠ 0 then .error (causeAlign, (Config.freeWord s.free).toNat)
    else
      let l := (s.core g.core).l1.read Line.absent (lineKey g.asid (a / 128))
      match l.present, l.marks with
      | true, some m =>
        if m.allow false true g.priv then .ok (s, l.word (a % 128))
        else .error (causeProt, s.leafLevel g.asid a + if m.sys && !g.priv then 0x30 else 0x20)
      | _, _ => s.fetchHome g a

/-- Whether a fetch misses the L1 and waits at its home slice, for a commit or a slice handoff (R276, R423). -/
def State.fetchWaits (s : State) (g : Group) (a : Nat) : Bool :=
  let l := (s.core g.core).l1.read Line.absent (lineKey g.asid (a / 128))
  decide (a < 2 ^ 52) && !(l.present && l.marks.isSome) && s.lineBusy g.core g.asid a 4

/-- What stands at an address for the issue unit: an instruction, a word that is none (R45), or a fetch fault (R29). -/
inductive Fetched where
  | instr (i : Instr)
  | bad (w : Word)
  | fault (cause word : Nat)
  deriving Repr

/-- The word at an address, decoded (R29). -/
def State.decodeAt (s : State) (g : Group) (a : Nat) : State × Fetched :=
  match s.fetchWord g a with
  | .error (c, w) => (s, .fault c w)
  | .ok (s', w) =>
    match decode w with
    | .ok i => (s', .instr i)
    | .error _ => (s', .bad w)

/-- What was fetched issues. -/
def Fetched.run (f : Fetched) (s : State) : Host.Outcome State Fault Refusal :=
  match f with
  | .instr i => exec i s
  | .bad w => execIllegalEncoding w s
  | .fault c w => execInstructionFetchFault c w s

-- The group that issues -------------------------------------------------------------------------------------------

/-- Whether the requests and replays of a restore have been performed, or have failed again (R383). -/
def Group.restored (g : Group) : Bool := g.again.all fun e => !e.2 || !g.undone e.1

/-- Whether a group may take the next issue of its core (R358): ACTIVE, awake, not blocked but for an abort that ends
its wait (R279), no register line awaited (R381), nothing left of a restore (R383), with a lane that is live or parked. -/
def Group.mayIssue (g : Group) : Bool :=
  decide (g.sched = .active) && decide (g.sleep = 0) && g.missing.isNone &&
    ((!g.blocked && g.restored) || (g.reg.abortPending.isSome && g.reg.ckpt.isSome)) &&
    ((List.range 32).any fun l => g.isLive l || g.isParked l)

/-- Whether its core and its frame let a group issue too: the core has a vector pipe (R92), and no commit or slice handoff holds
the frame that a trap would write (R276, R423). -/
def State.canIssue (s : State) (k : Nat) : Bool :=
  (s.group k).mayIssue && !(s.core (s.group k).core).coreOff && !s.frameBusy k

/-- The groups of a core that may issue, by key. -/
def State.readyOn (s : State) (c : Nat) : List Nat :=
  (s.groups.map (·.1)).filter fun k => decide ((s.group k).core = c) && s.canIssue k

/-- The next group in a round robin after the key `last − 1` (R359). -/
def nextAfter (last : Nat) (ks : List Nat) : Option Nat :=
  match ks.find? fun k => last ≤ k with
  | some k => some k
  | none => ks.head?

/-- The group of a core that issues next (R359): the highest priority, then the round robin of that priority. -/
def State.pickOn (s : State) (c : Nat) : Option Nat :=
  let ks := s.readyOn c
  let p := ks.foldl (fun p k => Nat.max p (s.prioOf k)) 0
  nextAfter ((s.core c).last.read 0 p) (ks.filter fun k => s.prioOf k = p)

/-- The group that issues next. Cores run beside one another (R14): among those with a group that may issue, the one
after that of the latest issue, or another by the free order. -/
def State.pickGroup (s : State) : Option Nat :=
  let cs := ((s.groups.map (·.1)).filter s.canIssue).map fun k => (s.group k).core
  let here := s.me.core
  match minBy (fun c => if here < c then c else c + 2 ^ 64) cs with
  | none => none
  | some c => ((c :: cs.eraseDups.filter (· ≠ c)).rotateLeft (Config.order (2 * s.tick))).head?.bind s.pickOn

/-- SLACK of what a core issues now: its ready ACTIVE groups, at most 64 (R329, R359). -/
def State.slackOf (s : State) (c : Nat) : Nat := Nat.min 64 (s.readyOn c).length

/-- The chosen group takes its turn in its core's round robin, and the core counts its ready groups. -/
def State.select (s : State) (k : Nat) : State :=
  let g := s.group k
  let core := s.core g.core
  { s.setCore g.core { core with last := core.last.put (s.prioOf k) (k + 1), slack := s.slackOf g.core } with cur := k }

-- Before an issue ---------------------------------------------------------------------------------------------------

/-- What the group does instead of issuing its bundle, if anything: the delivery of an abort (R279); and unless its bundle
is inside an instruction already (R61), a trap that waits for its next issue (R201, R285, R363), a debug stop (R444). A
step goes on while a latch run is open, so no debug stop abandons the run (R87). A bundle that waits for an atomic which waits
for the replay of a recorded write (R201, R242) takes that record's trap. -/
def State.beforeIssue (s : State) (k : Nat) : Option Act :=
  let g := s.group k
  if g.reg.abortPending.isSome && g.reg.ckpt.isSome then some (execRegionAbortDelivery k)
  else if g.entered then
    (if g.sfnew && g.rett.isNone && (g.ops.any fun o => o.accs.any fun a => g.recordHolds o (a.addr / 128)) then some (execStoreFault k)
      else none)
  else if g.sfnew && g.rett.isNone then some (execStoreFault k)
  else if g.overrun then some (execNopreOverrun k)
  else if !g.inStep && (g.dbg || decide (g.dbgStep = 4) || s.breakpointDue k) then some (execBreakpointHit k)
  else if g.ops.any fun o => !o.done && o.fault.isSome && o.isRegionStore then some (execDeferredLoadFault k)
  else none

-- After an issue ----------------------------------------------------------------------------------------------------

/-- The lanes that issued have advanced; the other live lanes have stood one more issue, but for those that were blocked
at it (R60): lanes that wait for an item while the team's queue is open and empty (`dry`). -/
def Group.countStalls (g : Group) (lanes : List Nat) (dry : Bool) : Group :=
  { g with stall := (List.range 32).foldl (fun t l =>
      t.write 0 l (if g.isLive l && !lanes.contains l && !(dry && Word.has g.itemWait l) then g.stall.read 0 l + 1 else 0)) [] }

/-- Whether an item wait of a team's lanes blocks: its queue is open and empty (R72). -/
def Team.dry (t : Team) : Bool := t.items.isEmpty && !t.itemClosed && decide (t.itemCap ≠ 0)

/-- Where a debug step stands after an issue (R87, R88): a latch run counts as one issue, a bundle that blocks ends an
all-bundle step, which the debug status then reports, and a trap out of the core ends the step. -/
def Group.stepOn (g : Group) : Group :=
  if g.sched ≠ .active then { g with dbgStep := 0, dbgLeft := [] }
  else if g.blocked then (if g.dbgStep = 3 then
      { g with dbgStep := 4, dbgLeft := [], stepBlocked := true, entered := false, blocked := false } else g)
  else if g.run.isSome then g
  else if g.dbgStep = 1 then { g with dbgStep := 4 }
  else if g.dbgStep = 3 then
    let left := (g.dbgLeft.drop 1).filter fun m => !(g.bundleIn m).isEmpty
    { g with dbgLeft := left, dbgStep := if left.isEmpty then 4 else 3 }
  else g

/-- Time passes: the sleeping groups' counts run down (R70). -/
def State.timePasses (n : Nat) (s : State) : State :=
  { s with groups := s.groups.map (fun e => (e.1, { e.2 with sleep := e.2.sleep - n })), tick := s.tick + 1 }

/-- The next bundle of a group: one instruction, or an IMX and the word after it together (R36). The second word of a pair is
fetched at PC + 4, and a word there that is no instruction traps as the pair. A fetch that waits at its home slice blocks the
bundle. -/
def State.runBundle (s : State) (k : Nat) : Host.Outcome State Fault Refusal :=
  let g := s.group k
  let wait := fun (s : State) => Host.Outcome.next (s.setGroup k { s.group k with blocked := true, imx := none })
  if s.fetchWaits g g.pc.toNat then wait s
  else
  let (s, f) := s.decodeAt g g.pc.toNat
  match f with
  | .instr (.imx v) =>
    match execImx v s with
    | .next s =>
      if (s.group k).imx.isSome then
        if s.fetchWaits (s.group k) (g.pc + 4#64).toNat then wait s
        else
          let (s, f) := s.decodeAt (s.group k) (g.pc + 4#64).toNat
          f.run s
      else .next s
    | r => r
  | f => f.run s

/-- Whether the next bundle of an INACTIVE group would block (R358): what it would do as an ACTIVE group whose register lines
are there. -/
def State.stillBlocked (s : State) (k : Nat) : Bool :=
  let g := { s.group k with sched := .active, core := s.teamCore k, blocked := false, absent := [], missing := none }
  let t := { s.setGroup k g.ready with cur := k }
  (t.beforeIssue k).isNone && !g.liveLanes.isEmpty && (match t.runBundle k with
    | .next u => (u.group k).blocked
    | _ => false)

/-- Every blocked bundle of an ACTIVE group tries again: what it waits for may have come. An INACTIVE group is blocked as long as
its next bundle would be (R358). -/
def State.wake (s : State) : State :=
  { s with groups := s.groups.map fun e => (e.1, { e.2 with blocked := decide (e.2.sched = .inactive) && s.stillBlocked e.1 }) }

/-- The machine with as many lines of other groups written back as an act that would answer `t` allocates on each core (R22,
R380). -/
def State.roomFor (s : State) (k : Nat) (t : State) : State :=
  s.coresInUse.foldl (fun s c => s.makeLines c k (t.cacheLines c - s.cacheLines c)) s

/-- An act with the register lines that it allocates for group `k` (R22, R380): lines of other groups give way before it; while
too few can, it does not happen, and `wait` says what stands instead. -/
def Act.withLines (act : Act) (k : Nat) (wait : State → State) : Act := fun s =>
  match act s with
  | .next t =>
    if t.cachesFit then .next t
    else
      let s := s.roomFor k t
      match act s with
      | .next t => if t.cachesFit then .next t else .next (wait s)
      | r => r
  | r => r

/-- The operations that an issue has made bear the core's count of ready groups (R359). -/
def Group.stamp (g : Group) (seq n : Nat) : Group :=
  { g with ops := g.ops.map fun o => if seq ≤ o.seq then { o with slack := n } else o }

/-- The machine after group `k` has issued for `lanes`: SLACK, stalls, debug steps, and the bundles that waited. An instruction
that a corrected register makes issue anew (R96) has not issued yet. `seq` is the number of its next operation before. -/
def State.afterIssue (k : Nat) (lanes : List Nat) (seq : Nat) (s : State) : State :=
  let g := (s.group k).stamp seq (s.core (s.group k).core).slack
  let s :=
    if g.blocked then s.setGroup k g.stepOn
    else if g.entered then s.setGroup k g
    else (s.setGroup k { (g.countStalls lanes (s.team g.team).dry).stepOn with dbgOnce := false }).wake
  { s with turn := .engine }

/-- The bundle of a group issues. -/
def State.issueBundle (s : State) (k : Nat) : Host.Outcome State Fault Refusal :=
  let s := s.setGroup k (s.group k).ready
  let g := s.group k
  onNext (State.afterIssue k g.bundle g.seq) (s.runBundle k)

/-- The group's turn, for whose lines there is room: what precedes its issue, the trap of a group whose lanes are all parked
(R62), or its bundle. -/
def State.turnOf (k : Nat) (s : State) : Host.Outcome State Fault Refusal :=
  let turned := fun (s : State) => { s.wake with turn := .engine }
  match s.beforeIssue k with
  | some act => onNext turned (act s)
  | none => if (s.group k).liveLanes.isEmpty then .next (turned (s.checkLive k)) else s.issueBundle k

/-- The group's turn: blocked while no line of the register cache that it needs is free (R22). -/
def State.issueGroup (s : State) (k : Nat) : Host.Outcome State Fault Refusal :=
  (Act.withLines (State.turnOf k) k fun s => { s.setGroup k { s.group k with blocked := true } with turn := .engine }) (s.select k)

-- The engines -------------------------------------------------------------------------------------------------------

/-- The steps that the operations of a group may take. -/
def opEvents (k : Nat) (o : Op) : List Act :=
  let lines := (o.accs.map fun a => a.addr / 128).eraseDups
  [execLoadCompletion k o.seq, execRemotePushArrival k o.seq, execPushResend k o.seq, execWblPerform k o.seq,
    execRedRecord k o.seq, execTredArrival k o.seq] ++
    lines.flatMap fun l => [execHomeSliceRequest k o.seq l none, execTranslationWalk k o.seq l, execDegradedRead k o.seq l,
      execAtomicPerform k o.seq l, execRegionAccessAtBatten k o.seq l, execRegionStoreMerge k o.seq l, execDepthWaitEnd k o.seq l]

/-- The steps that the engines may take for a group. -/
def groupEvents (k : Nat) (g : Group) : List Act :=
  g.ops.flatMap (opEvents k) ++ g.wcb.map (fun w => execWcbLineDrain k w.line) ++
    (g.parts.filter Part.queued).map (fun p => execWcbLineDrain k p.line) ++
    g.parts.flatMap (fun p => [execStoreWriteAtHome k p.id, execHeldWriteRelease k p.id]) ++
    (if g.wait.isSome then [execWaitEnd k] else []) ++
    (match g.lineWanted with
      | some r => [execRegisterMissFill k r]
      | none => []) ++
    [execStoreFaultRecordArrival k, execChannelPopUnblock k, execDeferredLoadFault k, execRegionAbortDelivery k, execGroupCompletion k,
      execGroupActivation k, execPriorityWriteBack k, execAgingIssue k]

/-- The FRAME_FAULT of a group that waited for one of its core's four residents (R385). -/
def frameEvents (k : Nat) (g : Group) : List Act :=
  if g.frameWaits then
    match g.frameLate with
    | some (w, va) => [execFrameFault k va w]
    | none => []
  else []

/-- The steps of a core's array queue and shuttle. -/
def coreEvents (c : Nat) (x : Core) : List Act :=
  (List.range x.arr.length).map (fun i => execArrayQueueEntryComplete c i) ++
    (x.shuttle.zipIdx).flatMap fun e => [execTransferStart c e.2 32, execTransferFaultHold c e.2, execTransferComplete c e.2] ++
      e.1.teams.map fun t => execMulticastDelivery c e.2 t

/-- The steps of the device's own units. -/
def State.deviceEvents (s : State) : List Act :=
  (if s.phase = 0 ∧ !bitOf (s.sysv 0x703) 4 then [execStartUp true] else []) ++
    (s.tasks.map (·.1)).flatMap (fun t => [execTaskActivation t, execTaskCompletionWord t]) ++
    s.waiting.map (fun c => execClusterPlacement c) ++ (s.clusters.map (·.1)).map (fun c => execPriorityWriteOut c) ++
    (s.batten.slots.map (·.1)).flatMap (fun x => [execRegionCommit x, execRegionAbort x 0x11]) ++
    (if s.batten.bad then [execBattenError] else []) ++
    s.trees.flatMap (fun e => (List.range e.2.nodes.length).map fun i => execTreeNodeFold e.1 i) ++
    [execFaultRecordAppend, execPersistentStateSave, execDrained, execResetneeded] ++
    [execRebuildStripeCopy, execRebuildPageCommit] ++
    (if s.res.sent.isEmpty then [] else [execStripeAcknowledged]) ++
    (s.res.chans.map (·.1)).map (fun c => execUncorrectableWindow c) ++
    (match s.res.retiring, (List.range requesters).find? fun r => !s.res.markers.contains r with
      | some _, some r => [execPrepareReceipt r]
      | some _, none => [execSliceHandoff]
      | none, _ => []) ++
    (s.net.ports.filter fun e => !e.2.out.isEmpty || !e.2.resend.isEmpty || e.2.nak || e.2.owed.any fun c => decide (c.2 ≠ 0)).map
      (fun e => execOutputArbitration e.1) ++ (if s.net.peerOut.isEmpty then [] else [execOutputArbitration 0]) ++ (if s.net.held.isEmpty then [] else [execPeerHeldRelease]) ++
    (match s.mgmt.ift with
      | some (0, c) => [execIftCoreTest c]
      | _ => [])

/-- What the hardware times: write-backs (R360, R361), the link flits of idle links (R330), tree time-outs (R262), the patrol scrub (R425) and the health table
(R446). The model offers it at every 4,096th step. -/
def State.timedEvents (s : State) : List Act :=
  if s.tick % 4096 = 4095 then
    (s.groups.map (·.1)).flatMap (fun k => [execBlockedGroupWriteBack k, execGroupQuantum k]) ++
      (s.clusters.map (·.1)).map (fun c => execTeamQuantum c) ++
      s.trees.map (fun e => execTreeTimeout e.1) ++
      (List.range 18).map execOutputArbitration ++ s.net.ports.map (fun e => execOutputArbitration e.1) ++
      [execPatrolScrubVisit s.res.cursor, execHealthTableUpdate]
  else []

/-- Every step that an engine may take now, in an order that the spec leaves open. -/
def State.engineEvents (s : State) : List Act :=
  let es := s.timedEvents ++ s.groups.flatMap (fun e => groupEvents e.1 e.2 ++ frameEvents e.1 e.2) ++
    s.cores.flatMap (fun e => coreEvents e.1 e.2) ++ s.deviceEvents
  es.rotateLeft (s.tick + Config.order (2 * s.tick + 1))

/-- The first of some steps that changes the machine; one that allocates register lines happens while there is room for them. -/
def State.firstEvent (s : State) : List Act → Option State
  | [] => none
  | act :: r =>
    match Act.withLines act noGroup (fun s => s) s with
    | .next t => if t = s then s.firstEvent r else some t
    | _ => s.firstEvent r

/-- One step of the engines, if one can be taken. -/
def State.engineStep (s : State) : Option State :=
  (s.firstEvent s.engineEvents).map fun t => { t.wake with turn := .issue }

/-- Whether a constructor stands for a step of the part or of its surroundings that can be put on the agenda: neither
an instruction nor a trap of one. -/
def isEvent (i : Instr) : Bool :=
  (encode i).isEmpty && (match i with
    | .illegalEncoding _ => false
    | .instructionFetchFault _ _ => false
    | .localTrap _ _ _ => false
    | .supervisorTrap _ _ _ => false
    | _ => true)

-- The step ------------------------------------------------------------------------------------------------------------

/-- The least count among the sleeping groups (R70). -/
def State.leastSleep (s : State) : Nat :=
  ((minBy id ((s.groups.map fun e => e.2.sleep).filter (· ≠ 0))).getD 0)

/-- Nothing can happen until a sleep ends: the time to the first end passes. -/
def State.idle (s : State) : State := { s.timePasses s.leastSleep with turn := .engine }

/-- The issue units' turn: a group issues; where none may, an engine takes the step. -/
def State.issueStep (s : State) : Host.Outcome State Fault Refusal :=
  match s.pickGroup with
  | some k => s.issueGroup k
  | none =>
    match s.engineStep with
    | some t => .next t
    | none => .next s.idle

/-- One step, before its time passes. Stopped clocks leave RESETNEEDED only (R449); the agenda comes first; then the
engines and the issue units take turns, in an order that the spec leaves open. -/
def State.move (s : State) : Host.Outcome State Fault Refusal :=
  match s.agenda with
  | i :: r => if isEvent i then onNext State.wake (Act.withLines (exec i) noGroup (fun s => s) { s with agenda := r }) else .next { s with agenda := r }
  | [] =>
    if s.mgmt.stopped then
      if s.gradeE && decide (s.phase ≠ 4) then execResetneeded s else .next s
    else
      match s.turn with
      | .issue => s.issueStep
      | .engine =>
        match if Config.issueFirst s.tick then none else s.engineStep with
        | some t => .next t
        | none => s.issueStep

/-- One indivisible step of the machine. -/
def State.nextStep (s : State) : Host.Outcome State Fault Refusal := onNext (State.timePasses 1) s.move

-- A loaded program -------------------------------------------------------------------------------------------------------

/-- The address at which a loaded program stands. -/
def programBase : Nat := 0x10000

/-- The task of a loaded program: slot 0, generation 1, one cluster of one team of one group, ASID 0. -/
def programTask : Task :=
  { Task.init with state := .active, gen := 1, placedN := 1, record := { LaunchRec.init with
      nreg := 512, rgn := true, ncl := 1, kpc := programBase, scratch := 1024, itemq := 5, nring := 1, rings := [4] } }

/-- The group of a loaded program, ACTIVE on core 0 with 32 live lanes at its first word. -/
def programGroup : Group :=
  { Group.init with
    taskId := 256, nreg := 512, rgn := true, sched := .active, fresh := false, sr := (List.range 32).map (srSeed 0#32)
    lanes := List.replicate 32 ⟨BitVec.ofNat 64 programBase, 0#64, .live⟩ }

/-- The team of a loaded program. -/
def programTeam : Team :=
  { Team.init with
    resident := true, scratchSize := 131072, nring := 1, ringSize := [4], itemCap := 32, launch := 256 }

/-- The state in which a task, loaded from outside the machine, is about to issue its first word: start-up has ended
(R440), the task has been launched, placed and activated (R351 to R360), and its text stands in the L1 of core 0. -/
def State.withProgram (s : State) (ws : List Word) : State :=
  let text := Line.ofBytes (ws.flatMap fun w => leBytes 4 w.toNat) ⟨true, true, false, false⟩ 0 false
  let core := s.core 0
  { s.setCore 0 { core with l1 := core.l1.put (lineKey 0 (programBase / 128)) text } with
    groups := [(0, programGroup)]
    teams := s.teams.put 0 programTeam
    clusters := s.clusters.put 0 { Cluster.init with placed := true, ever := true }
    tasks := s.tasks.put 0 programTask
    sys := s.sys.put 0x703 1#64
    mgmt := { s.mgmt with stopped := false }
    cur := 0
    turn := .issue
    agenda := [] }

end Sys2Proof.Machine
end

