-- ==== Sys2Proof/Machine/Step.lean ====
section
/-! DEFINITION. One step of the machine, and the state in which a given word is the next to issue. -/
namespace Sys2Proof.Machine

/-- One indivisible step of the Y7: the next entry of the agenda, a step of an engine, or the issue of one bundle. -/
def step (s : State) : Host.Outcome State Fault Refusal := s.nextStep

/-- The state with an instruction word stored where `step` fetches next. -/
def State.withFetchWord (s : State) (nbits w : Nat) : State := s.withProgram [BitVec.ofNat 32 (w % 2 ^ nbits)]

end Sys2Proof.Machine
end

