-- ==== Sys2Proof/Safety.lean ====
section
/-! DEFINITION. What counts as a safe step and a sound state, and the words in which the claims speak: when an
instruction passes its checks, what it writes, and what it leaves alone. -/
namespace Sys2Proof.Machine

/-- A step is safe when it answers a next state: the machine neither faults nor refuses. -/
def SafeStep (s : State) : Prop := ∃ t, step s = .next t

/-- The canonical form of device memory (addresses rise, and no entry equals what an unlisted address reads as). -/
def State.memWf (s : State) : Prop := Memory.wf s.mem = true

/-- The byte of device memory at a physical address, as the frames of the claims read it. -/
def State.byteAt (s : State) (a : Nat) : Byte := memByte s.mem a

/-- The machine as the bundle's instruction begins: the issue stream has taken the bundle's lanes (R81). -/
def State.begun (s : State) : State := s.setMe { s.me.enter with blocked := false, entered := false }

/-- An instruction can issue for the group in hand: the group is ACTIVE and its bundle has a lane (R59, R358). -/
def State.issues (s : State) : Prop := s.me.sched = .active ∧ s.me.bundle ≠ []

/-- The source operands of some uses. -/
def sourcesOf (us : List Use) : List Use := us.filter fun u => !u.dst

/-- None of the checks of R45 stops the instruction, and no register that it uses has to be waited for: its fields are
legal, its operands stand where they may, its privilege, role, bundle and region are right, its window and channels hold,
no outstanding operation writes its registers (R200), and the registers it reads are present and sound (R96, R381). -/
structure Pre.Passes (p : Pre) (s : State) : Prop where
  imx : imxOk s.me p.imx = true
  legal : p.legal = true
  operands : p.uses.all (Use.ok s.me) = true
  operandOk : p.operandOk = true
  classes : (p.vec || p.mixed || (sourcesOf p.uses).all fun u => !(isVec s.me u.o)) = true
  priv : p.privOk = true
  role : p.roleOk = true
  bundle : p.bundleOk = true
  window : windowBreach s.me p.uses = none
  channels : channelBreaches s s.me p.uses = none
  free : s.me.ops.any (Op.inWayOf s.me p.uses) = false
  present : ((sourcesOf p.uses).flatMap (Use.vregs s.me) ++ p.merged s.me ++
    uncopied s.me p.uses).all (fun r => !s.me.absent.contains r) = true
  sound : (codeKeys s.me (sourcesOf p.uses) ++ p.merged s.me ++ p.codes).all (fun k =>
    !s.me.poison.contains k && (s.me.regErr.read [] k).isEmpty) = true
  region : (decide (s.me.reg.nest = 0) || (p.inRegion && !usesChannel p.uses)) = true

/-- No computation error is injected into the pipes of the group's core, so that the passes of R90 agree. -/
def State.pipesSound (s : State) : Prop := (s.core s.me.core).pipeErr = []

/-- An operand that is no channel. -/
def plainOperand (o : Operand) : Bool := (channelOf o).isNone

/-- The vector and scalar registers of `h` are those of `g`, but that the `w` registers of the destination hold word `i`
of `val` in lane `l`: a vector destination in the bundle's lanes, a scalar one by the lowest lane (R38 to R40, R86). Any
other destination discards the result. -/
def Delivered (g h : Group) (d : Operand) (w : Nat) (val : Nat → Nat → Word) : Prop :=
  (∀ r l, l < 32 → h.vreg r l = match d with
    | .v n => if g.wb + n.toNat ≤ r ∧ r < g.wb + n.toNat + w ∧ l ∈ g.bundle then val (r - (g.wb + n.toNat)) l else g.vreg r l
    | _ => g.vreg r l) ∧
  ∀ r, h.sreg r = match d with
    | .s n => if n.toNat ≤ r ∧ r < n.toNat + w then val (r - n.toNat) g.first else g.sreg r
    | _ => g.sreg r

/-- The vector and scalar registers are unchanged. -/
def SameRegs (g h : Group) : Prop := (∀ r l, h.vreg r l = g.vreg r l) ∧ ∀ r, h.sreg r = g.sreg r

/-- The bundle's lanes go to the next word (past both words of an IMX pair), and no other lane moves (R36, R64). -/
def Advanced (g h : Group) : Prop :=
  ∀ l, h.lane l = if l ∈ g.bundle then { g.lane l with pc := g.nextPc (g.lane l).pc } else g.lane l

/-- Nothing of the machine changes but the group in hand: no byte of device memory, no other group, no core, no queue. -/
def OnlyMe (s t : State) : Prop := t = s.setMe t.me

/-- Nothing of the group changes but its registers, predicates and heddles, its lanes, and what belongs to the issue of
its instructions: what the register cache notes of lines, latches, run, aging, the pair's IMX. -/
def OnlyRegs (g h : Group) : Prop :=
  h = { g with
    lanes := h.lanes, v := h.v, s := h.s, p := h.p, h := h.h, absent := h.absent, lines := h.lines, poison := h.poison
    regErr := h.regErr, dirty := h.dirty, used := h.used, latches := h.latches, stream := h.stream, run := h.run, runFull := h.runFull
    nextTag := h.nextTag, aged := h.aged, imx := h.imx, blocked := h.blocked, entered := h.entered }

/-- The predicates and heddles are unchanged. -/
def SameMasks (g h : Group) : Prop := h.p = g.p ∧ h.h = g.h

/-- No register receives a result. -/
def noResult : Nat → Nat → Word := fun _ _ => 0#32
/-- Every lane receives the same word. -/
def sameResult (x : Word) : Nat → Nat → Word := fun _ _ => x

/-- The instruction has its effect: `exec` answers a next state, in which the machine but for the group in hand is that of
`u`, the group but for its registers, predicates, heddles, lanes and issue bookkeeping is `g`, the result `val` of `w`
words stands in `d` and no other register has changed, predicates and heddles are as before, and the bundle's lanes have
gone on. -/
def Ends (i : Instr) (s u : State) (g : Group) (d : Operand) (w : Nat) (val : Nat → Nat → Word) : Prop :=
  ∃ t, exec i s = .next t ∧ OnlyMe u t ∧ OnlyRegs g t.me ∧ Delivered s.me t.me d w val ∧ Advanced s.me t.me ∧
    SameMasks s.me t.me

/-- The state in which an instruction that stops leaves the group, before its trap is taken. -/
def State.unblocked (s : State) : State := s.setMe { s.me with blocked := false, entered := false }

/-- The state in which a control instruction that stops leaves the group: its issue has ended an open run (R84). -/
def State.runEnded (s : State) : State := (s.setMe s.me.closeRun).unblocked

/-- The instruction traps: the machine takes the trap `t` of the group in hand, and nothing else has happened. -/
def Traps (i : Instr) (s : State) (t : Trap) : Prop := exec i s = .next (s.unblocked.takeTrap s.cur t)

/-- `Traps` of a control instruction. -/
def ControlTraps (i : Instr) (s : State) (t : Trap) : Prop := exec i s = .next (s.runEnded.takeTrap s.cur t)

-- The results of the pipe instructions ----------------------------------------------------------------------------------

/-- A pipe instruction with a 32-bit result: its nw bit, destination, sources, checks, and the result of lane `l` from the
words of its sources, source by source and lane by lane. -/
structure PipeSpec where
  nw : Bool
  d : Operand
  srcs : List Operand
  pre : Group → Pre
  val : Group → (Nat → Nat → Word) → Nat → Word

/-- The word of source `i` in lane `l`: a channel's entries go to the executing lanes in ascending order, and the one
entry that a scalar execution takes goes to every lane (R39, R316); any other operand reads as its class says (R38). -/
def readOf (g : Group) (srcs : List Operand) (lanes : List Nat) (xs : List (List Word)) (i l : Nat) : Word :=
  let o := srcs.getD i .zero
  let x := xs.getD i []
  if (channelOf o).isSome then x.getD (lanes.idxOf l) (x.headD 0#32) else g.wordAt o 0 l

/-- `op d, a`. -/
def spec1 (nw : Bool) (d a : Operand) (f : Word → Word) : PipeSpec :=
  ⟨nw, d, [a], fun g => Pre.plain g 0 d [dst d, src a], fun _ rd l => f (rd 0 l)⟩
/-- `op d, a, b`. -/
def spec2 (nw : Bool) (d a b : Operand) (f : Word → Word → Word) : PipeSpec :=
  ⟨nw, d, [a, b], fun g => Pre.plain g 0 d [dst d, src a, src b], fun _ rd l => f (rd 0 l) (rd 1 l)⟩
/-- The uses of an instruction that reads d as a third source unless nw = 1 (R100). -/
def uses3 (nw : Bool) (d a b : Operand) : List Use :=
  if nw then [dst d, src a, src b] else [dst d, src a, src b, src d]
/-- `op d, a, b` with d as a third source, 0 with nw = 1 (R100). -/
def spec3 (nw : Bool) (d a b : Operand) (f : Word → Word → Word → Word) : PipeSpec :=
  ⟨nw, d, [a, b, if nw then .zero else d], fun g => { Pre.plain g 0 d (uses3 nw d a b) with operandOk := nw || isReg d },
    fun _ rd l => f (rd 0 l) (rd 1 l) (rd 2 l)⟩
/-- `op d, a, imm`: the immediate is sign- or zero-extended, or completed by an IMX (R35, R36). -/
def specImm (nw signed : Bool) (d a : Operand) (i : BitVec 11) (f : Word → Word → Word) : PipeSpec :=
  ⟨nw, d, [a], fun g => Pre.plain g 1 d [dst d, src a], fun g rd l => f (rd 0 l) (immediate g signed i)⟩
/-- `op d, a` on floating words. -/
def specF1 (nw : Bool) (d a : Operand) (f : Word → Word) : PipeSpec :=
  ⟨nw, d, [a], fun g => floatPre g d [dst d, src a], fun _ rd l => f (rd 0 l)⟩
/-- `op d, a, b` on floating words. -/
def specF2 (nw : Bool) (d a b : Operand) (f : Word → Word → Word) : PipeSpec :=
  ⟨nw, d, [a, b], fun g => floatPre g d [dst d, src a, src b], fun _ rd l => f (rd 0 l) (rd 1 l)⟩
/-- A shuffle: lane l takes a of lane `pick l b[l]` (R111). -/
def specShuffle (nw : Bool) (d a b : Operand) (pick : Nat → Nat → Nat) : PipeSpec :=
  ⟨nw, d, [b], fun g => { laneVec g nw d [dst d, src a, src b] with operandOk := (nw || isV d) && shuffleSource a },
    fun g rd l => g.wordAt a 0 (pick l (rd 0 l).toNat)⟩
/-- A result over the bundle's lanes (R111): a v destination or none. -/
def specLane (nw : Bool) (d a : Operand) (f : Group → (Nat → Word) → Nat → Word) : PipeSpec :=
  ⟨nw, d, [a], fun g => laneVec g nw d [dst d, src a], fun g rd => f g (rd 0)⟩

/-- The sum of a source over the bundle's lanes that satisfy a condition. -/
def sumLanes (g : Group) (x : Nat → Word) (p : Nat → Bool) : Word :=
  ((g.bundle.filter p).map x).foldl (· + ·) 0#32

/-- The pipe instructions with a 32-bit result, and what the rules R101 to R105, R109, R111, R112 and R133 to R136 make it
in each lane. -/
def pipeSpec : Instr → Option PipeSpec
  | .mov nw d a => some (spec1 nw d a fun x => x)
  | .sel nw d a b p => some ⟨nw, d, [a, b], fun g => { Pre.plain g 0 d [dst d, src a, src b] with codes := [3000] },
      fun g rd l => if Word.has (g.preg p.toNat) l then rd 0 l else rd 1 l⟩
  | .active nw d => some ⟨nw, d, [], fun g => Pre.plain g 0 d [dst d], fun g _ _ => maskOfLanes g.bundle⟩
  | .add nw d a b => some (spec2 nw d a b fun x y => x + y)
  | .sub nw d a b => some (spec2 nw d a b fun x y => x - y)
  | .min nw d a b => some (spec2 nw d a b fun x y => if x.toInt ≤ y.toInt then x else y)
  | .max nw d a b => some (spec2 nw d a b fun x y => if x.toInt ≤ y.toInt then y else x)
  | .minn nw d a b => some (spec2 nw d a b fun x y => if x.toNat ≤ y.toNat then x else y)
  | .maxn nw d a b => some (spec2 nw d a b fun x y => if x.toNat ≤ y.toNat then y else x)
  | .abs nw d a => some (spec1 nw d a fun x => trunc32 x.toInt.natAbs)
  | .absdiff nw d a b => some (spec2 nw d a b fun x y => trunc32 (x.toInt - y.toInt).natAbs)
  | .addsat nw d a b => some (spec2 nw d a b fun x y => trunc32 (clamp (-2147483648) 2147483647 (x.toInt + y.toInt)))
  | .subsat nw d a b => some (spec2 nw d a b fun x y => trunc32 (clamp (-2147483648) 2147483647 (x.toInt - y.toInt)))
  | .addsatn nw d a b => some (spec2 nw d a b fun x y => trunc32 (clamp 0 4294967295 (x.toNat + y.toNat)))
  | .subsatn nw d a b => some (spec2 nw d a b fun x y => trunc32 (clamp 0 4294967295 ((x.toNat : Int) - y.toNat)))
  | .sad nw d a b => some (spec3 nw d a b fun x y z => BitVec.ofNat 32 (z.toNat + sumAbsDiff x y))
  | .and nw d a b => some (spec2 nw d a b fun x y => x &&& y)
  | .or nw d a b => some (spec2 nw d a b fun x y => x ||| y)
  | .xor nw d a b => some (spec2 nw d a b fun x y => x ^^^ y)
  | .andn nw d a b => some (spec2 nw d a b fun x y => x &&& ~~~y)
  | .orn nw d a b => some (spec2 nw d a b fun x y => x ||| ~~~y)
  | .xnor nw d a b => some (spec2 nw d a b fun x y => ~~~(x ^^^ y))
  | .shl nw d a b => some (spec2 nw d a b fun x y => if y.toNat < 32 then x <<< y.toNat else 0#32)
  | .shr nw d a b => some (spec2 nw d a b fun x y => if y.toNat < 32 then x >>> y.toNat else 0#32)
  | .sar nw d a b => some (spec2 nw d a b shiftA)
  | .rol nw d a b => some (spec2 nw d a b fun x y => rotL x y.toNat)
  | .ror nw d a b => some (spec2 nw d a b fun x y => rotL x (32 - y.toNat % 32))
  | .mul nw d a b => some (spec2 nw d a b fun x y => x * y)
  | .mulh nw d a b => some (spec2 nw d a b fun x y => trunc32 (x.toInt * y.toInt / 4294967296))
  | .mulhn nw d a b => some (spec2 nw d a b fun x y => BitVec.ofNat 32 (x.toNat * y.toNat / 4294967296))
  | .mad nw d a b => some (spec3 nw d a b fun x y z => x * y + z)
  | .div nw d a b => some (spec2 nw d a b intDiv)
  | .divn nw d a b => some (spec2 nw d a b fun x y => if y = 0#32 then 0xFFFFFFFF#32 else BitVec.ofNat 32 (x.toNat / y.toNat))
  | .rem nw d a b => some (spec2 nw d a b intRem)
  | .remn nw d a b => some (spec2 nw d a b fun x y => if y = 0#32 then x else BitVec.ofNat 32 (x.toNat % y.toNat))
  | .clz nw d a => some (spec1 nw d a countLead)
  | .ctz nw d a => some (spec1 nw d a countTrail)
  | .popc nw d a => some (spec1 nw d a popCount)
  | .brev nw d a => some (spec1 nw d a bitRev)
  | .bfe nw d a b => some (spec2 nw d a b fieldGet)
  | .bfes nw d a b => some (spec2 nw d a b fieldGetS)
  | .bfi nw d a b => some (spec3 nw d a b fieldPut)
  | .bmix nw d a b => some (spec3 nw d a b mixBytes)
  | .addi nw d a i => some (specImm nw true d a i fun x y => x + y)
  | .andi nw d a i => some (specImm nw false d a i fun x y => x &&& y)
  | .ori nw d a i => some (specImm nw false d a i fun x y => x ||| y)
  | .xori nw d a i => some (specImm nw false d a i fun x y => x ^^^ y)
  | .muli nw d a i => some (specImm nw true d a i fun x y => x * y)
  | .movi nw d i => some ⟨nw, d, [], fun g => Pre.plain g 1 d [dst d], fun g _ _ => immediate g true i⟩
  | .shli nw d a c => some (spec1 nw d a fun x => x <<< c.toNat)
  | .shri nw d a c => some (spec1 nw d a fun x => x >>> c.toNat)
  | .sari nw d a c => some (spec1 nw d a fun x => shiftA x (c.setWidth 32))
  | .ballot nw d p => some ⟨nw, d, [], fun g => { laneMixed g d [dst d] with codes := [3000] },
      fun g _ _ => maskOf fun j => g.bundle.contains j && Word.has (g.preg p.toNat) j⟩
  | .matchLanes nw d a => some (specLane nw d a fun g x l => maskOfLanes (g.bundle.filter fun j => x j = x l))
  | .psum nw d a => some (specLane nw d a fun g x l => sumLanes g x fun j => decide (j < l))
  | .psumi nw d a => some (specLane nw d a fun g x l => sumLanes g x fun j => decide (j ≤ l))
  | .lred nw d a o => some ⟨nw, d, [a], fun g => laneMixed g d [dst d, src a], fun g rd _ =>
      match g.bundle.map (rd 0) with
      | [] => 0#32
      | v :: vs => vs.foldl (lredOp o.toNat) v⟩
  | .shfl nw d a b => some (specShuffle nw d a b fun _ n => n % 32)
  | .shflup nw d a b => some (specShuffle nw d a b fun l n => if n ≤ l then l - n else l)
  | .shfldn nw d a b => some (specShuffle nw d a b fun l n => if l + n ≤ 31 then l + n else l)
  | .shflx nw d a b => some (specShuffle nw d a b fun l n => l ^^^ (n % 32))
  | .rdlane nw d a b => some ⟨nw, d, [b], fun g =>
      let p := laneMixed g d [dst d, src a, src b]
      { p with operandOk := shuffleSource a && scalarSource g p.vec b }, fun g rd _ => g.wordAt a 0 ((rd 0 g.first).toNat % 32)⟩
  | .elect nw d => some ⟨nw, d, [], fun g => laneMixed g d [dst d], fun g _ l =>
      if isV d then (if l = g.first then 1#32 else 0#32) else BitVec.ofNat 32 g.first⟩
  | .fadd nw d a b f r => some (specF2 nw d a b fun x y => packedOp f.toNat r.toNat (fpArith 0 r.toNat) [x, y])
  | .fsub nw d a b f r => some (specF2 nw d a b fun x y => packedOp f.toNat r.toNat (fpArith 1 r.toNat) [x, y])
  | .fmul nw d a b f r => some (specF2 nw d a b fun x y => packedOp f.toNat r.toNat (fpArith 2 r.toNat) [x, y])
  | .ffma nw d a b f r => some ⟨nw, d, if nw then [a, b] else [a, b, d],
      fun g => { floatPre g d (uses3 nw d a b) with operandOk := nw || isReg d }, fun _ rd l =>
        packedOp f.toNat r.toNat (fpArith 3 r.toNat)
          (if nw then [rd 0 l, rd 1 l] else [rd 0 l, rd 1 l, rd 2 l])⟩
  | .fmin nw d a b => some (specF2 nw d a b (fpMinMax false))
  | .fmax nw d a b => some (specF2 nw d a b (fpMinMax true))
  | .fabs nw d a => some (specF1 nw d a fun x => x &&& 0x7FFFFFFF#32)
  | .fneg nw d a => some (specF1 nw d a fun x => x ^^^ 0x80000000#32)
  | .fcopysign nw d a b => some (specF2 nw d a b fun x y => (x &&& 0x7FFFFFFF#32) ||| (y &&& 0x80000000#32))
  | .fclass nw d a => some (specF1 nw d a fpClass)
  | .frint nw d a r => some (specF1 nw d a (fpRint r.toNat))
  | .fscale nw d a b => some (specF2 nw d a b fpScale)
  | .frcp nw d a => some (specF1 nw d a fun x => f32Word 0 (f32Val x).recip)
  | .frsq nw d a => some (specF1 nw d a fun x => f32Word 0 (f32Val x).rsqrt)
  | .fsqrt nw d a => some (specF1 nw d a fun x => f32Word 0 (f32Val x).sqrt)
  | .fex2 nw d a => some (specF1 nw d a fun x => f32Word 0 (f32Val x).exp2)
  | .flg2 nw d a => some (specF1 nw d a fun x => f32Word 0 (f32Val x).log2)
  | _ => none

-- Wide results, predicates and jumps --------------------------------------------------------------------------------

/-- The value that `readWides` read for source `k` in lane `l`; the one value of a scalar execution goes to every lane. -/
def pickOf (lanes : List Nat) (xs : List (List Nat)) (k l : Nat) : Nat :=
  let x := xs.getD k []
  x.getD (lanes.idxOf l) (x.headD 0)

/-- An instruction with a 64-bit result: destination, sources with their widths in words, and the result (R106). -/
structure WideSpec where
  d : Operand
  srcs : List (Operand × Nat)
  val : (Nat → Dword) → Dword

/-- The checks of an instruction with a 64-bit result. -/
def WideSpec.pre (r : WideSpec) (g : Group) : Pre := Pre.plain g 0 r.d (dstN r.d 2 :: r.srcs.map fun x => srcN x.1 x.2)

/-- The low 32 bits of a value. -/
def low32 (x : Dword) : Word := x.setWidth 32

/-- The 64-bit instructions and what R101 and R106 make their results; a 32-bit source stands in the low bits. -/
def wideSpec : Instr → Option WideSpec
  | .add64 d a b => some ⟨d, [(a, 2), (b, 2)], fun x => x 0 + x 1⟩
  | .sub64 d a b => some ⟨d, [(a, 2), (b, 2)], fun x => x 0 - x 1⟩
  | .shl64 d a b => some ⟨d, [(a, 2), (b, 1)], fun x => x 0 <<< (x 1).toNat⟩
  | .shr64 d a b => some ⟨d, [(a, 2), (b, 1)], fun x => x 0 >>> (x 1).toNat⟩
  | .sar64 d a b => some ⟨d, [(a, 2), (b, 1)], fun x => (x 0).sshiftRight (x 1).toNat⟩
  | .mul64 d a b => some ⟨d, [(a, 1), (b, 1)], fun x => (low32 (x 0)).signExtend 64 * (low32 (x 1)).signExtend 64⟩
  | .mul64n d a b => some ⟨d, [(a, 1), (b, 1)], fun x => x 0 * x 1⟩
  | .lea64 d a b => some ⟨d, [(a, 2), (b, 1)], fun x => x 0 + (low32 (x 1)).signExtend 64⟩
  | .mov64 d a => some ⟨d, [(a, 2)], fun x => x 0⟩
  | _ => none

/-- An instruction that writes a predicate: its number, sources with their widths, checks, and the bit of lane `l` from
the values of its sources. -/
structure PredSpec where
  p : BitVec 4
  srcs : List (Operand × Nat)
  pre : Group → Pre
  val : Group → (Nat → Nat → Nat) → Nat → Bool

/-- A predicate operation (R107). -/
def specPred (d : BitVec 4) (f : Group → Nat → Bool) : PredSpec :=
  ⟨d, [], fun g => { Pre.plain g 0 .zero [] with vec := true, codes := [3000] }, fun g _ l => f g l⟩

/-- A compare: in scalar execution every lane takes the one comparison of the lowest lane (R108). -/
def specCompare (p : BitVec 4) (srcs : List (Operand × Nat)) (pre : Group → Pre) (f : Group → (Nat → Nat) → Bool) : PredSpec :=
  ⟨p, srcs, pre, fun g rd l => f g fun k => rd k (if (pre g).vec then l else g.first)⟩

/-- The instructions that write a predicate, and the bit that R107, R108, R111 and R138 give each lane. -/
def predSpec : Instr → Option PredSpec
  | .pand d a b => some (specPred d fun g l => Word.has (g.preg a.toNat) l && Word.has (g.preg b.toNat) l)
  | .por d a b => some (specPred d fun g l => Word.has (g.preg a.toNat) l || Word.has (g.preg b.toNat) l)
  | .pxor d a b => some (specPred d fun g l => Word.has (g.preg a.toNat) l != Word.has (g.preg b.toNat) l)
  | .pandn d a b => some (specPred d fun g l => Word.has (g.preg a.toNat) l && !Word.has (g.preg b.toNat) l)
  | .pnot d a => some (specPred d fun g l => !Word.has (g.preg a.toNat) l)
  | .pmov d a => some (specPred d fun g l => Word.has (g.preg a.toNat) l)
  | .pclr d => some (specPred d fun _ _ => false)
  | .cmp p a b c => some (specCompare p [(a, 1), (b, 1)] (fun g => comparePre g 0 [src a, src b])
      fun _ x => condition 32 c.toNat (x 0) (x 1))
  | .cmp64 p a b c => some (specCompare p [(a, 2), (b, 2)] (fun g => comparePre g 0 [srcN a 2, srcN b 2])
      fun _ x => condition 64 c.toNat (x 0) (x 1))
  | .cmpi c p a i => some (specCompare p [(a, 1)] (fun g => comparePre g 1 [src a])
      fun g x => condition 32 (cmpiCode c.toNat) (x 0) (immediate g true i).toNat)
  | .fcmp t p a b c => some (specCompare p [(a, 1), (b, 1)] (fun g => { floatPre g .zero [src a, src b] with codes := [3000] })
      fun _ x =>
        let ty := if t = 0#2 then Ty.f32 else if t = 1#2 then Ty.f16 else Ty.bf16
        fpCond c.toNat (ty.value (x 0)) (ty.value (x 1)))
  | .pfrom p a => some ⟨p, [(a, 1)], fun g => comparePre g 0 [src a],
      fun g rd l => (if (channelOf a).isSome then rd 0 l else (g.wordAt a 0 l).toNat).testBit l⟩
  | _ => none

/-- The predicate register `p` holds `bit l` in the bundle's lanes and is unchanged elsewhere; p15 stays 1 (R107); no other
predicate changes, nor a heddle, nor a register. -/
def PredWritten (g h : Group) (p : BitVec 4) (bit : Nat → Bool) : Prop :=
  (∀ n l, l < 32 → Word.has (h.preg n) l =
    if n = p.toNat ∧ n ≠ 15 ∧ l ∈ g.bundle then bit l else Word.has (g.preg n) l) ∧ h.h = g.h ∧ SameRegs g h

/-- An instruction that moves the program counter: its checks, each lane's target, whether the target comes from registers
and so must be a multiple of 4 (R28, R67), and whether the link register takes PC + 4. -/
structure JumpSpec where
  pre : Group → Pre
  to' : Group → Nat → Nat
  checked : Bool
  link : Bool

/-- PC + 4 × disp (R32). -/
def relTarget (g : Group) (n : Nat) (disp : BitVec n) : Nat := (g.pc + 4#64 * disp.signExtend 64).toNat

/-- The branches, calls and returns (R64, R67). -/
def jumpSpec : Instr → Option JumpSpec
  | .brt p disp => some ⟨fun g => { controlPre g [] with codes := [3000] },
      fun g l => if Word.has (g.preg p.toNat) l then relTarget g 22 disp else (g.pc + 4#64).toNat, false, false⟩
  | .brf p disp => some ⟨fun g => { controlPre g [] with codes := [3000] },
      fun g l => if Word.has (g.preg p.toNat) l then (g.pc + 4#64).toNat else relTarget g 22 disp, false, false⟩
  | .call disp => some ⟨fun g => controlPre g [], fun g _ => relTarget g 26 disp, false, true⟩
  | .brx a => some ⟨fun g => controlPre g [srcN a 2], fun g l => g.wide a 2 l, true, false⟩
  | .callx a => some ⟨fun g => controlPre g [srcN a 2], fun g l => g.wide a 2 l, true, true⟩
  | .ret => some ⟨fun g => controlPre g [], fun g l => (g.lane l).link.toNat, true, false⟩
  | .retTargetPair a => some ⟨fun g => controlPre g [srcN a 2], fun g l => g.wide a 2 l, true, false⟩
  | .retLowWord b => some ⟨fun g => { controlPre g [src b] with operandOk := isReg b },
      fun g l => (g.lane l).link.toNat / 2 ^ 32 * 2 ^ 32 + (g.wordAt b 0 l).toNat, true, false⟩
  | _ => none

/-- A group after a control or heddle instruction: latches invalid, no run open (R81, R84). -/
def Group.Closed (g : Group) : Prop := g.latches = [] ∧ g.run = none

/-- `Ends` of an instruction that also makes the latches invalid and ends an open run (R81, R84). -/
def ClosedEnds (i : Instr) (s u : State) (g : Group) (d : Operand) (w : Nat) (val : Nat → Nat → Word) : Prop :=
  ∃ t, exec i s = .next t ∧ OnlyMe u t ∧ OnlyRegs g t.me ∧ Delivered s.me t.me d w val ∧ Advanced s.me t.me ∧
    SameMasks s.me t.me ∧ t.me.Closed

/-- A lane that is parked on a heddle whose set is `m` is released when every lane of the set is parked on it, or when the
lane is no member of the set (R79). `parked` tells which lanes are parked on it. -/
def Freed (parked : Nat → Bool) (m : Word) (l : Nat) : Prop :=
  parked l = true ∧ ((∀ j, j < 32 → Word.has m j = true → parked j = true) ∨ Word.has m l = false)

/-- A released lane goes on at the word after its HWAIT (R79). -/
def Lane.released (x : Lane) : Lane := { x with st := .live, pc := x.pc + 4#64 }

/-- The lane after its instruction, when it goes to the next word. -/
def Group.nextLane (g : Group) (l : Nat) : Lane := { g.lane l with pc := g.nextPc (g.lane l).pc }

-- Loads and stores ----------------------------------------------------------------------------------------------------

/-- A load or a store: address form, predicate, data field, address pair, size code, retention, and its marks. `scope` is
that of an LDACQ or a STREL. -/
structure MemSpec where
  f : Form
  p : BitVec 4
  d : Operand
  a : Operand
  z : BitVec 3
  ret : Nat
  fresh : Bool
  lin : Bool
  full : Bool
  scope : Option Nat

/-- The loads (R191, R193, R226). -/
def loadSpec : Instr → Option MemSpec
  | .ldv p d a z r fresh lin w => some ⟨.vec, p, d, a, z, r.toNat, fresh, lin, w, none⟩
  | .lds p d a z r fresh lin w => some ⟨.one, p, d, a, z, r.toNat, fresh, lin, w, none⟩
  | .ldl p d a z r fresh lin w => some ⟨.line, p, d, a, z, r.toNat, fresh, lin, w, none⟩
  | .ldacq p d a z sc w => some ⟨if isV a then .vec else .one, p, d, a, z, 0, true, false, w, some sc.toNat⟩
  | _ => none

/-- The stores (R191, R194, R226). -/
def storeSpec : Instr → Option MemSpec
  | .stv p d a z r fresh lin w => some ⟨.vec, p, d, a, z, r.toNat, fresh, lin, w, none⟩
  | .sts p d a z r fresh lin w => some ⟨.one, p, d, a, z, r.toNat, fresh, lin, w, none⟩
  | .stl p d a z r fresh lin w => some ⟨.line, p, d, a, z, r.toNat, fresh, lin, w, none⟩
  | .strel p d a z sc w => some ⟨if isV a then .vec else .one, p, d, a, z, 0, false, false, w, some sc.toNat⟩
  | _ => none

/-- The width in bytes of one lane's access. -/
def MemSpec.width (r : MemSpec) : Nat := widthOf r.z.toNat

/-- The checks of a load (R191, R192, R226, R269). -/
def MemSpec.loadPre (r : MemSpec) (g : Group) : Pre :=
  { controlPre g [dstN r.d (regsOf r.width), srcN r.a 2] with
    imx := 2, codes := [3000], operandOk := formOk g r.f true r.scope.isSome r.d r.a, privOk := !r.lin || g.priv
    inRegion := !r.lin && r.scope.isNone }

/-- The checks of a store (R191, R192, R226, R269). -/
def MemSpec.storePre (r : MemSpec) (g : Group) : Pre :=
  { controlPre g [srcN r.d (regsOf r.width), srcN r.a 2] with
    imx := 2, codes := [3000], operandOk := formOk g r.f false r.scope.isSome r.d r.a, privOk := !r.lin || g.priv
    inRegion := !r.lin && r.scope.isNone }

/-- The lanes that access data, with their addresses: those of the bundle whose predicate bit is 1; base + offset, and
with LDL and STL lane times width beside (R191, R193). -/
def MemSpec.lanesAt (r : MemSpec) (g : Group) : List (Nat × Nat) := g.targets r.f r.p r.a r.width

/-- Where a load's result goes: a scalar destination takes the value of the lowest active lane, if that lane loads (R193;
log 18). -/
def MemSpec.resultTo (r : MemSpec) (g : Group) : Dst :=
  if isS r.d && decide ((r.lanesAt g).head?.map (·.1) ≠ some g.first) then .none else g.dstOf r.d (regsOf r.width)

/-- The operation that a load leaves outstanding (R193, R228). -/
def MemSpec.loadOp (r : MemSpec) (s : State) (ps : List (Nat × Place)) : Op :=
  let g := s.me
  Op.settle { Op.base g.seq .mem (.load r.width (r.z = 1#3 || r.z = 3#3)) g.pc with
    accs := ((r.lanesAt g).zip ps).map (s.loadAcc g r.fresh r.width)
    dst := r.resultTo g, code := (encodeOperand r.d).toNat, fresh := r.fresh || r.scope.isSome
    lin := r.lin, ret := r.ret, scope := r.scope.getD 0, order := if r.scope.isSome then 1 else 0, slot := g.regionSlot }

/-- The bytes that a group would read at an offset of a line among its own writes on their way (R196). -/
def Group.sees (g : Group) (line o : Nat) : Option Byte := g.ownByte 0 0 line o

-- Atomics -------------------------------------------------------------------------------------------------------------

/-- An instruction of format FA: predicate, data field, address field, what is performed, the width of the data and of the
result in words, scope, order code, and whether it is performed in scratch (R243). -/
structure AtomSpec where
  p : BitVec 4
  d : Operand
  a : Operand
  k : OpKind
  words : Nat
  res : Nat
  scope : Nat
  order : Nat
  inScratch : Bool

/-- The instructions of format FA (R243 to R246). -/
def atomSpec : Instr → Option AtomSpec
  | .atom p d a o sc r => some ⟨p, d, a, .atom o.toNat 4, 1, 1, sc.toNat, r.toNat, false⟩
  | .atom64 p d a o sc r => some ⟨p, d, a, .atom o.toNat 8, 2, 2, sc.toNat, r.toNat, false⟩
  | .atoml p d a o sc r => some ⟨p, d, a, .atom o.toNat 4, 1, 1, sc.toNat, r.toNat, true⟩
  | .casl p d a sc r => some ⟨p, d, a, .cas 4, 2, 1, sc.toNat, r.toNat, true⟩
  | .cas p d a w sc r => some ⟨p, d, a, .cas (4 * 2 ^ w.toNat), 2 * 2 ^ w.toNat, 2 ^ w.toNat, sc.toNat, r.toNat, false⟩
  | .red p d a o sc rl => some ⟨p, d, a, .red o.toNat (if o = 15#4 then 8 else 4), if o = 15#4 then 2 else 1, 0, sc.toNat,
      if rl then 2 else 0, false⟩
  | _ => none

/-- Whether the instruction has no result (R245). -/
def AtomSpec.isRed (r : AtomSpec) : Bool :=
  match r.k with
  | .red _ _ => true
  | _ => false

/-- The operand fields of an atomic: with a result, d is a destination too. -/
def AtomSpec.uses (r : AtomSpec) : List Use :=
  (if r.isRed then [srcN r.d r.words] else [dstN r.d r.res, srcN r.d r.words]) ++ [srcN r.a 2]

/-- The checks of an atomic (R243, R247). -/
def AtomSpec.pre (r : AtomSpec) (g : Group) : Pre :=
  let cls := if r.isRed then (if isV r.a then isVec g r.d || isZero r.d || (channelOf r.d).isSome else !isVec g r.d)
    else (isV r.a && isV r.d) || (isS r.a && isS r.d)
  { orderPre g r.uses with imx := 2, codes := [3000], operandOk := isReg r.a && cls }

/-- The lanes that access data, with their addresses. -/
def AtomSpec.lanesAt (r : AtomSpec) (g : Group) : List (Nat × Nat) :=
  g.targets (if isV r.a then .vec else .one) r.p r.a r.k.width

/-- The accesses at issue: each lane's operands, a CAS's compare value and new value. -/
def AtomSpec.accs (r : AtomSpec) (ts : List (Nat × Nat)) (lanes : List Nat) (xs : List (List Nat)) : List Acc :=
  ts.map fun t =>
    let v := match (lanes.zip (xs.headD [])).find? fun e => e.1 = t.1 with
      | some e => e.2
      | none => 0
    match r.k with
    | .cas w => ⟨t.1, t.2, .wait, [], leBytes w v, leBytes w (v / 2 ^ (8 * w)), []⟩
    | _ => ⟨t.1, t.2, .wait, [], leBytes r.k.width v, [], []⟩

end Sys2Proof.Machine
end

