-- ==== Sys2Proof/Certificates/Slice0/Obligations.lean ====
section
/-! DEFINITION. The statements for the provers, family by family. Each docstring names the rules of spec/ that the
statement formalises, or the sections it rests on. Words such as Passes, Delivered, Advanced and Ends are defined in
Sys2Proof/Safety.lean. -/
open Sys2Proof Sys2Proof.Machine

-- The encoding and the step ---------------------------------------------------------------------------------------------

/-- Every well-formed instruction has one word, and the decoder reads that word as the instruction, with every operand
at every value that the encoding admits (02_encoding.md). -/
def Obligations.DecodeEncode : Prop :=
  ∀ i : Instr, i.encoded = true → i.wf = true → ∃ w, encode i = [w] ∧ decode w = .ok i

/-- A word that decodes is the one word of its instruction, and that instruction is well-formed: no bit of a word is
ignored, so that a reserved bit or field that is not 0 decodes to nothing (02_encoding.md). -/
def Obligations.EncodeDecode : Prop :=
  ∀ (w : Word) (i : Instr), decode w = .ok i → encode i = [w] ∧ i.encoded = true ∧ i.wf = true

/-- A step always answers a next state: no state stops the machine, and no instruction is refused (derived from the
whole model; 15_resilience.md, 16_system.md). -/
def Obligations.StepNeverStops : Prop := ∀ s : State, SafeStep s

/-- Every instruction of an ACTIVE group answers a next state: its effect, its trap, or a bundle that waits
(03_control.md, 15_resilience.md). -/
def Obligations.ExecAnswers : Prop :=
  ∀ (i : Instr) (s : State), s.me.sched = .active → ∃ t, exec i s = .next t

/-- The state in which group `k` is about to issue its bundle: it has been chosen, and its bundle is decided. -/
def aboutToIssue (s : State) (k : Nat) : State := (s.select k).setGroup k ((s.select k).group k).ready

/-- The issue units have the turn, group `k` is chosen, and nothing comes before its issue. -/
def Chosen (s : State) (k : Nat) : Prop :=
  s.agenda = [] ∧ s.mgmt.stopped = false ∧ s.turn = .issue ∧ s.pickGroup = some k ∧
    (s.select k).beforeIssue k = none ∧ ((s.select k).group k).liveLanes ≠ []

/-- No commit and no slice handoff holds the fetch of the group's word (R276, R423). -/
def fetchFree (s : State) (k : Nat) : Prop :=
  (aboutToIssue s k).fetchWaits ((aboutToIssue s k).group k) ((aboutToIssue s k).group k).pc.toNat = false

/-- The issue of group `k` whose instruction answers `t`, with the bookkeeping of an issue. -/
def issued (s : State) (k : Nat) (t : State) : State :=
  State.afterIssue k ((aboutToIssue s k).group k).bundle ((aboutToIssue s k).group k).seq t

/-- The step issues the bundle of group `k`, whose instruction answers `t`, and time passes. Where the register cache cannot hold the lines that it
allocates, lines of other groups give way first and the group takes its turn anew, or it stays blocked while too few can (R22,
R380). -/
def IssuesAs (s : State) (k : Nat) (t : State) : Prop :=
  ((issued s k t).cachesFit = true → step s = .next (State.timePasses 1 (issued s k t))) ∧
  ((issued s k t).cachesFit = false →
    let u := (s.select k).roomFor k (issued s k t)
    ∀ v, State.turnOf k u = .next v →
      step s = .next (State.timePasses 1 (if v.cachesFit then v
        else { u.setGroup k { u.group k with blocked := true } with turn := .engine })))

/-- A step runs the decoded instruction: when the word at the program counter of the chosen group's bundle decodes to an
instruction other than IMX, the step is `exec` of it, followed by the bookkeeping of an issue and the passing of one step
(R22, R29, R59, R359). -/
def Obligations.StepRunsDecoded : Prop :=
  ∀ (s s1 t : State) (k : Nat) (w : Word) (i : Instr), Chosen s k → fetchFree s k →
    (aboutToIssue s k).fetchWord ((aboutToIssue s k).group k) ((aboutToIssue s k).group k).pc.toNat = .ok (s1, w) →
    decode w = .ok i → (∀ v, i ≠ .imx v) → exec i s1 = .next t → IssuesAs s k t

/-- An IMX and the word after it issue together: the group holds the 26 bits while the second word, fetched at PC + 4,
runs (R36). -/
def Sys2Proof.Claims.StepRunsPair : Prop :=
  ∀ (s s1 s2 s3 t : State) (k : Nat) (w w2 : Word) (v : BitVec 26) (i : Instr), Chosen s k → fetchFree s k →
    (aboutToIssue s k).fetchWord ((aboutToIssue s k).group k) ((aboutToIssue s k).group k).pc.toNat = .ok (s1, w) →
    decode w = .ok (.imx v) → exec (.imx v) s1 = .next s2 → (s2.group k).imx = some v →
    s2.fetchWaits (s2.group k) (((aboutToIssue s k).group k).pc + 4#64).toNat = false →
    s2.fetchWord (s2.group k) (((aboutToIssue s k).group k).pc + 4#64).toNat = .ok (s3, w2) → decode w2 = .ok i →
    exec i s3 = .next t → IssuesAs s k t

/-- A word that is no instruction issues as an illegal encoding, and a fetch that fails as a fetch fault (R29, R45). A fetch that a
commit or a slice handoff holds blocks the bundle (R276, R423). -/
def Sys2Proof.Claims.StepTrapsUndecoded : Prop :=
  ∀ (s t : State) (k : Nat), Chosen s k →
    (∀ s1 w e, fetchFree s k → (aboutToIssue s k).fetchWord ((aboutToIssue s k).group k) ((aboutToIssue s k).group k).pc.toNat = .ok (s1, w) →
      decode w = .error e → exec (.illegalEncoding w) s1 = .next t → IssuesAs s k t) ∧
    (∀ c w, fetchFree s k →
      (aboutToIssue s k).fetchWord ((aboutToIssue s k).group k) ((aboutToIssue s k).group k).pc.toNat = .error (c, w) →
      exec (.instructionFetchFault c w) (aboutToIssue s k) = .next t → IssuesAs s k t) ∧
    (¬fetchFree s k → let u := aboutToIssue s k
      IssuesAs s k (u.setGroup k { u.group k with blocked := true, imx := none }))

/-- A step runs an IMX pair, an illegal word and a failed fetch: both parts (R29, R36, R45). -/
def Obligations.StepPairsAndTraps : Prop :=
  Claims.StepRunsPair ∧ Claims.StepTrapsUndecoded

-- Pipe instructions -------------------------------------------------------------------------------------------------------

/-- What reading the sources does. A register, latch, special or zero source reads the group's words and changes nothing;
a pop takes the oldest entries of its queue, one for each executing lane, when that many are there, none is poisoned, none is
reserved for another group's instruction, and the group's turn has come; a peek reads the entries that stood there before the
instruction, behind those that are reserved for another group's, and takes none (R38, R316). -/
def Obligations.SourcesRead : Prop :=
  (∀ (b s : State) (lanes : List Nat) (o : Operand), plainOperand o = true →
    readSource b s lanes o = .ok (s, lanes.map fun l => s.me.wordAt o 0 l)) ∧
  (∀ (b s : State) (lanes : List Nat) (n : BitVec 3) (x : Binding), s.me.chans.read none n.toNat = some x →
    let q := s.queue (qidCore x.qid) (qidIndex x.qid)
    let q0 := b.queue (qidCore x.qid) (qidIndex x.qid)
    lanes.length ≤ q.entries.length → (q0.waiters = [] ∨ q0.waiters.head? = some s.cur) → q0.hidden s.cur = 0 →
    (q.entries.take lanes.length).all (fun e => !e.2) = true →
    ∃ t, readSource b s lanes (.pop n) = .ok (t, (q.entries.take lanes.length).map (·.1)) ∧
      (t.queue (qidCore x.qid) (qidIndex x.qid)).entries = q.entries.drop lanes.length ∧
      (∀ c j, (c, j) ≠ (qidCore x.qid, qidIndex x.qid) → t.queue c j = s.queue c j) ∧ t.groups = s.groups ∧
      t.mem = s.mem) ∧
  ∀ (b s : State) (lanes : List Nat) (n : BitVec 3) (x : Binding), s.me.chans.read none n.toNat = some x →
    let q := b.queue (qidCore x.qid) (qidIndex x.qid)
    q.hidden s.cur + lanes.length ≤ q.entries.length →
    readSource b s lanes (.chan n) = .ok (s, ((q.entries.drop (q.hidden s.cur)).take lanes.length).map (·.1))

/-- The 32-bit pipe instructions. For an instruction that passes its checks and whose sources can be read, every executing
lane receives the result that its rule gives from what was read; a destination that is a register takes it in the
bundle's lanes, or once, and no other register changes; the lanes go on; predicates and heddles stay; nothing else of the
machine changes but the queues that the sources popped (R38, R39, R64, R86, R99 to R105, R109 to R112, R133 to R136). -/
def Obligations.PipeResult : Prop :=
  ∀ (i : Instr) (r : PipeSpec) (s s1 : State) (lanes : List Nat) (xs : List (List Word)),
    pipeSpec i = some r → s.issues →
    { r.pre s.begun.me with legal := runLegal s.begun.me r.nw }.Passes s.begun →
    lanes = s.begun.me.execLanes (r.pre s.begun.me).vec →
    readSources s.begun lanes s.begun r.srcs = .ok (s1, xs) →
    plainOperand r.d = true → s.pipesSound →
    Ends i s s1 s.me r.d 1 fun _ => r.val s.begun.me (readOf s.begun.me r.srcs lanes xs)

/-- LOGIC, major 0x09: the fn code of each member, and what each lane's d receives from a and b: AND, OR, XOR, ANDN (a AND
NOT b), ORN (a OR NOT b), XNOR; SHL Trunc(a × 2^c, 32), SHR floor(Nat(a) / 2^c), SAR floor(Signed(a) / 2^c), ROL and ROR by
c mod 32, for the count c = Nat(b): so SHL and SHR give 0, and SAR the sign, for c ≥ 32 (R103). Channel operands: PipeResult,
PipePushes. -/
def Obligations.LogicResults : Prop :=
  ∀ (nw : Bool) (d a b : Operand),
    let gives := fun (fn : Nat) (i : Instr) (f : Word → Word → Word) =>
      (∀ w : Word, encode i = [w] → w.toNat / 2 ^ 26 = 0x09 ∧ w.toNat % 16 = fn) ∧
      ∀ s : State, s.issues → plainOperand d = true → plainOperand a = true → plainOperand b = true → s.pipesSound →
        { Pre.plain s.begun.me 0 d [dst d, src a, src b] with legal := runLegal s.begun.me nw }.Passes s.begun →
        Ends i s s s.me d 1 fun _ l => f (s.begun.me.wordAt a 0 l) (s.begun.me.wordAt b 0 l)
    gives 0 (.and nw d a b) (fun x y => x &&& y) ∧ gives 1 (.or nw d a b) (fun x y => x ||| y) ∧
    gives 2 (.xor nw d a b) (fun x y => x ^^^ y) ∧ gives 3 (.andn nw d a b) (fun x y => x &&& ~~~y) ∧
    gives 4 (.orn nw d a b) (fun x y => x ||| ~~~y) ∧ gives 5 (.xnor nw d a b) (fun x y => ~~~(x ^^^ y)) ∧
    gives 6 (.shl nw d a b) (fun x y => BitVec.ofNat 32 (x.toNat * 2 ^ y.toNat)) ∧
    gives 7 (.shr nw d a b) (fun x y => BitVec.ofNat 32 (x.toNat / 2 ^ y.toNat)) ∧
    gives 8 (.sar nw d a b) (fun x y => BitVec.ofInt 32 (x.toInt / 2 ^ y.toNat)) ∧
    gives 9 (.rol nw d a b) (fun x y => x.rotateLeft (y.toNat % 32)) ∧
    gives 10 (.ror nw d a b) (fun x y => x.rotateRight (y.toNat % 32))

/-- MULDIV, major 0x0A: the fn code of each member, and what each lane's d receives from a, b and, for MAD, the old d: MUL
Trunc(a × b, 32); MULH and MULHN the high words of the signed and unsigned products; MAD Trunc(a × b + d, 32); DIV and DIVN
0xFFFF_FFFF for b = 0, else the quotient rounded toward zero, 0x8000_0000 for the one that does not fit; REM and REMN a for b = 0,
else what is left, 0 for that one; a nonzero REM result has the sign of a (R104). Channel operands: PipeResult, PipePushes. -/
def Obligations.MulDivResults : Prop :=
  let rem := fun (x y : Word) => if y = 0#32 then x else if x = 0x80000000#32 ∧ y = 0xFFFFFFFF#32 then 0#32
    else BitVec.ofInt 32 (x.toInt - y.toInt * x.toInt.tdiv y.toInt)
  (∀ x y : Word, rem x y ≠ 0#32 → (x.toInt < 0 ↔ (rem x y).toInt < 0)) ∧
  ∀ (nw : Bool) (d a b : Operand),
    let code := fun (fn : Nat) (i : Instr) => ∀ w : Word, encode i = [w] → w.toNat / 2 ^ 26 = 0x0A ∧ w.toNat % 16 = fn
    let gives := fun (fn : Nat) (i : Instr) (f : Word → Word → Word) =>
      code fn i ∧
      ∀ s : State, s.issues → plainOperand d = true → plainOperand a = true → plainOperand b = true → s.pipesSound →
        { Pre.plain s.begun.me 0 d [dst d, src a, src b] with legal := runLegal s.begun.me nw }.Passes s.begun →
        Ends i s s s.me d 1 fun _ l => f (s.begun.me.wordAt a 0 l) (s.begun.me.wordAt b 0 l)
    gives 0 (.mul nw d a b) (fun x y => BitVec.ofNat 32 (x.toNat * y.toNat)) ∧
    gives 1 (.mulh nw d a b) (fun x y => BitVec.ofInt 32 (x.toInt * y.toInt / 2 ^ 32)) ∧
    gives 2 (.mulhn nw d a b) (fun x y => BitVec.ofNat 32 (x.toNat * y.toNat / 2 ^ 32)) ∧
    (code 3 (.mad nw d a b) ∧
      ∀ s : State, s.issues → plainOperand d = true → plainOperand a = true → plainOperand b = true → s.pipesSound →
        { Pre.plain s.begun.me 0 d (uses3 nw d a b) with
          legal := runLegal s.begun.me nw, operandOk := nw || isReg d }.Passes s.begun →
        Ends (.mad nw d a b) s s s.me d 1 fun _ l => BitVec.ofNat 32 ((s.begun.me.wordAt a 0 l).toNat *
          (s.begun.me.wordAt b 0 l).toNat + if nw then 0 else (s.begun.me.wordAt d 0 l).toNat)) ∧
    gives 4 (.div nw d a b) (fun x y => if y = 0#32 then 0xFFFFFFFF#32
      else if x = 0x80000000#32 ∧ y = 0xFFFFFFFF#32 then 0x80000000#32 else BitVec.ofInt 32 (x.toInt.tdiv y.toInt)) ∧
    gives 5 (.divn nw d a b) (fun x y => if y = 0#32 then 0xFFFFFFFF#32 else BitVec.ofNat 32 (x.toNat / y.toNat)) ∧
    gives 6 (.rem nw d a b) rem ∧
    gives 7 (.remn nw d a b) (fun x y => if y = 0#32 then x else BitVec.ofNat 32 (x.toNat % y.toNat))

/-- The bit of FCLASS for an f32 word: 0 −∞, 1 negative normal, 2 negative subnormal, 3 −0, 4 +0, 5 positive subnormal, 6
positive normal, 7 +∞, 8 signalling NaN (fraction bit 22 = 0), 9 quiet NaN (R136). -/
def classBit (x : Word) : Nat :=
  let neg := x.toNat / 2 ^ 31 = 1
  let exponent := x.toNat / 2 ^ 23 % 2 ^ 8
  let fraction := x.toNat % 2 ^ 23
  if exponent = 255 then
    (if fraction ≠ 0 then (if fraction / 2 ^ 22 = 0 then 8 else 9) else if neg then 0 else 7)
  else if exponent ≠ 0 then (if neg then 1 else 6)
  else if fraction ≠ 0 then (if neg then 2 else 5)
  else if neg then 3 else 4

/-- FCLASS writes a 10-bit mask with exactly one bit set, the one of the word's class, and zeros above it (R136). Channel
operands: PipeResult, PipePushes. -/
def Obligations.FclassMask : Prop :=
  ∀ (nw : Bool) (d a : Operand) (s : State), s.issues → plainOperand d = true → plainOperand a = true → s.pipesSound →
    { floatPre s.begun.me d [dst d, src a] with legal := runLegal s.begun.me nw }.Passes s.begun →
    Ends (.fclass nw d a) s s s.me d 1 fun _ l => BitVec.ofNat 32 (2 ^ classBit (s.begun.me.wordAt a 0 l))

/-- A pipe instruction whose destination is a channel pushes the results of the executing lanes, in ascending order of
lanes: to a live queue of its own core with room beside the entries that loads have reserved, and with no earlier push of
the group to that queue on its way, they are appended at once, and nothing else of the machine changes but the group's
lanes and latches (R38, R317, R318). -/
def Sys2Proof.Claims.PipePushes : Prop :=
  ∀ (i : Instr) (r : PipeSpec) (s s1 : State) (lanes : List Nat) (xs : List (List Word)) (n : BitVec 3) (x : Binding),
    pipeSpec i = some r → r.d = .chan n → s.issues →
    { r.pre s.begun.me with legal := runLegal s.begun.me r.nw }.Passes s.begun →
    lanes = s.begun.me.execLanes (r.pre s.begun.me).vec →
    readSources s.begun lanes s.begun r.srcs = .ok (s1, xs) → s.pipesSound →
    s.me.chans.read none n.toNat = some x → s1.qidHere x.qid = true → qidCore x.qid = s.me.core → s1.qidLive x.qid = true →
    s.me.pushBefore s.me.seq x.qid = false →
    (s1.queue s.me.core (qidIndex x.qid)).entries.length + s1.reserved x.qid + lanes.length ≤
      2 ^ (s1.queue s.me.core (qidIndex x.qid)).logcap →
    let q := s1.queue s.me.core (qidIndex x.qid)
    let ws := lanes.map (r.val s.begun.me (readOf s.begun.me r.srcs lanes xs))
    Ends i s (s1.setQueue s.me.core (qidIndex x.qid) { q with entries := q.entries ++ ws.map fun w => (w, false) }) s.me
      .zero 0 noResult

/-- The other ends of a push: to a queue of this core whose binding is stale the push is refused, which the fence status
and the binding count; to a full queue, the entries that loads have reserved counted, the bundle waits; to another core or device it becomes an operation of the msg
counter (R317, R319). -/
def Sys2Proof.Claims.PushEnds : Prop :=
  ∀ (s : State) (c cls : Nat) (xs : List Word) (x : Binding), s.me.chans.read none c = some x →
    ((s.qidHere x.qid = true ∧ qidCore x.qid = s.me.core ∧ s.qidLive x.qid = false →
      ∃ t, s.push c xs cls = .ok t ∧ OnlyMe s t ∧ t.me.fence = fenceAdd s.me.fence 2 ∧
        t.me.chans.read none c = some { x with failed := Nat.min 255 (x.failed + 1) }) ∧
    (s.qidHere x.qid = true ∧ qidCore x.qid = s.me.core ∧ s.qidLive x.qid = true ∧
        2 ^ (s.queue s.me.core (qidIndex x.qid)).logcap <
          (s.queue s.me.core (qidIndex x.qid)).entries.length + s.reserved x.qid + xs.length →
      s.push c xs cls = .error .block) ∧
    ((s.qidHere x.qid = false ∨ qidCore x.qid ≠ s.me.core) ∧ s.me.outstanding .msg < 4095 ∧
        s.pushesOut s.me < 16 →
      s.push c xs cls = .ok (s.setMe { s.me with
        ops := s.me.ops ++ [{ Op.base s.me.seq .msg (.push x.qid xs cls) s.me.pc with code := c }]
        seq := s.me.seq + 1 })))

/-- Pushes to channels: an append at once, and the other ends (R38, R317, R319). -/
def Obligations.Pushes : Prop :=
  Claims.PipePushes ∧ Claims.PushEnds

/-- The 64-bit instructions: the pair of the destination takes the result that R101 or R106 gives, low word first; the
rest as for the 32-bit pipe instructions (R40, R101, R106). -/
def Sys2Proof.Claims.WideResult : Prop :=
  ∀ (i : Instr) (r : WideSpec) (s s1 : State) (lanes : List Nat) (xs : List (List Nat)),
    wideSpec i = some r → s.issues → (r.pre s.begun.me).Passes s.begun →
    lanes = s.begun.me.execLanes (r.pre s.begun.me).vec →
    readWides s.begun lanes s.begun r.srcs = .ok (s1, xs) → s.pipesSound →
    Ends i s s1 s.me r.d 2 fun k l =>
      low32 (r.val (fun j => BitVec.ofNat 64 (pickOf lanes xs j l)) >>> (32 * k))

/-- The instructions that write a predicate: the bundle's lanes of the predicate take the bits that the rule gives, the
other lanes keep theirs, a write to p15 is discarded; no register and no other predicate changes
(R107, R108, R111, R138). -/
def Sys2Proof.Claims.PredicateResult : Prop :=
  ∀ (i : Instr) (r : PredSpec) (s s1 : State) (lanes : List Nat) (xs : List (List Nat)),
    predSpec i = some r → s.issues → (r.pre s.begun.me).Passes s.begun →
    lanes = s.begun.me.execLanes (r.pre s.begun.me).vec →
    readWides s.begun lanes s.begun r.srcs = .ok (s1, xs) → s.pipesSound →
    ∃ t, exec i s = .next t ∧ OnlyMe s1 t ∧ OnlyRegs s.me t.me ∧ Advanced s.me t.me ∧
      PredWritten s.me t.me r.p (r.val s.begun.me (pickOf lanes xs))

/-- Results in pairs and in predicates (R40, R101, R106 to R108, R111, R138). -/
def Obligations.WideAndPredicateResults : Prop :=
  Claims.WideResult ∧ Claims.PredicateResult

/-- WRLANE writes a into the one lane b mod 32 of d, active or not (R111); FCVT converts every executing lane's value by
its mode, from and to the types of its fields, and a drawing mode advances each executing lane's generator once
(R126, R139 to R141); SRSEED ends an open run and seeds the generators of the bundle's lanes (R137). -/
def Obligations.LaneConvertSeed : Prop :=
  (∀ (s : State) (nw : Bool) (n : BitVec 6) (a b : Operand), s.issues →
    { laneVec s.begun.me nw (.v n) (uses3 nw (.v n) a b) with
      operandOk := scalarSource s.begun.me true a && scalarSource s.begun.me true b
      legal := runLegal s.begun.me nw }.Passes s.begun → s.pipesSound →
    ∃ t, exec (.wrlane nw (.v n) a b) s = .next t ∧ OnlyMe s t ∧ OnlyRegs s.me t.me ∧ Advanced s.me t.me ∧
      SameMasks s.me t.me ∧ (∀ r, t.me.sreg r = s.me.sreg r) ∧
      ∀ r l, l < 32 → t.me.vreg r l = if r = s.me.wb + n.toNat ∧ l = (s.begun.me.scalar b).toNat % 32
        then s.begun.me.scalar a else s.me.vreg r l) ∧
  (∀ (s s1 : State) (a b : Operand) (xs : List (List Word)), s.issues →
    let p := laneVec s.begun.me true .zero (uses3 true .zero a b)
    { p with
      operandOk := scalarSource s.begun.me p.vec a && scalarSource s.begun.me p.vec b
      legal := runLegal s.begun.me true }.Passes s.begun →
    readSources s.begun (s.me.bundle.take 1) s.begun [a, b] = .ok (s1, xs) → s.pipesSound →
    Ends (.wrlane true .zero a b) s s1 s.me .zero 0 noResult) ∧
  (∀ (s s1 : State) (nw : Bool) (d a : Operand) (m : BitVec 3) (sc dc : BitVec 4) (lanes : List Nat) (xs : List (List Nat)),
    s.issues →
    let st := Ty.ofCode sc.toNat
    let dt := Ty.ofCode dc.toNat
    let ws := if st.width = 64 then 2 else 1
    let wd := if dt.width = 64 then 2 else 1
    let p := floatPre s.begun.me d [dstN d wd, srcN a ws]
    { p with legal := runLegal s.begun.me nw && !(nw && decide (wd = 2)) }.Passes s.begun →
    lanes = s.begun.me.execLanes p.vec → readWides s.begun lanes s.begun [(a, ws)] = .ok (s1, xs) →
    plainOperand d = true → s.pipesSound →
    let draw := fun l => if drawsMode m.toNat then (srNext (s.me.sr.getD l 1#32)).toNat / 65536 else 0
    let y := fun l => convert dt st m.toNat (draw l) (pickOf lanes xs 0 l)
    Ends (.fcvt nw d a m sc dc) s s1
      { s.me with sr := if drawsMode m.toNat then
          (s.me.sr.zipIdx).map fun e => if lanes.contains e.2 then srNext e.1 else e.1 else s.me.sr }
      d wd fun k l => if wd = 2 then wordOf (y l) k else placeResult dt (y l)) ∧
  ∀ (s s1 : State) (a : Operand) (xs : List Word), s.issues →
    { Pre.plain s.begun.me 0 .zero [src a] with vec := true, roleOk := floatRole s.begun.me true }.Passes s.begun →
    readSource s.begun s.begun s.me.bundle a = .ok (s1, xs) → s.pipesSound →
    ∃ t, exec (.srseed a) s = .next t ∧ OnlyMe s1 t ∧ OnlyRegs { s.me with sr := t.me.sr } t.me ∧ SameRegs s.me t.me ∧
      SameMasks s.me t.me ∧ Advanced s.me t.me ∧ t.me.run = none ∧
      ∀ l, l < 32 → t.me.sr.getD l 1#32 =
        if l ∈ s.me.bundle then srSeed (xs.getD (s.me.bundle.idxOf l) 0#32) l else s.me.sr.getD l 1#32

-- Control, heddles, items, the window -------------------------------------------------------------------------------------

/-- The checks before an instruction come in their order, each with its cause: the IMX and the fields (ILLEGAL), operand
classes (OPERAND), privilege (PRIV), role (ROLE), the bundle (CONVERGENCE), the window (WINDOW), channels (CHANNEL); an
instruction that passes them and finds its registers goes on with the state unchanged (R45, R321, R378). That WINDOW comes before
CHANNEL (log 13), and where the register code is decoded among the checks (log 165), are the model's choice. -/
def Obligations.CheckOrder : Prop :=
  ∀ (p : Pre) (s : State),
    let a := imxOk s.me p.imx && p.legal
    let b := p.uses.all (Use.ok s.me) && p.operandOk && (p.vec || p.mixed || (sourcesOf p.uses).all fun u => !(isVec s.me u.o))
    (a = false → p.check s = .error (.trap (Trap.precise 0x01 none))) ∧
    (a = true → b = false → p.check s = .error (.trap (Trap.precise 0x02 none))) ∧
    (a = true → b = true → p.privOk = false → p.check s = .error (.trap (Trap.precise 0x05 none))) ∧
    (a = true → b = true → p.privOk = true → p.roleOk = false → p.check s = .error (.trap (Trap.precise 0x04 none))) ∧
    (a = true → b = true → p.privOk = true → p.roleOk = true → p.bundleOk = false →
      p.check s = .error (.trap (Trap.precise 0x03 none))) ∧
    (a = true → b = true → p.privOk = true → p.roleOk = true → p.bundleOk = true →
      (∀ w, windowBreach s.me p.uses = some w → p.check s = .error (.trap (Trap.precise 0x0E (some w)))) ∧
      (windowBreach s.me p.uses = none → ∀ w, channelBreaches s s.me p.uses = some w →
        p.check s = .error (.trap (Trap.precise 0x0C (some w))))) ∧
    (p.Passes s → p.check s = .ok s)

/-- Branches, calls and returns: the bundle's lanes go to their targets, BRT and BRF by their predicate bits; a call leaves
PC + 4 in the link registers; no register, predicate or heddle changes, latches are invalid after it (R64, R67, R81). -/
def Sys2Proof.Claims.JumpTargets : Prop :=
  ∀ (i : Instr) (r : JumpSpec) (s : State), jumpSpec i = some r → s.issues → (r.pre s.begun.me).Passes s.begun →
    (r.checked = true → ∀ l ∈ s.me.bundle, r.to' s.begun.me l % 4 = 0) →
    ∃ t, exec i s = .next t ∧ OnlyMe s t ∧ OnlyRegs s.me t.me ∧ SameRegs s.me t.me ∧ SameMasks s.me t.me ∧ t.me.Closed ∧
      ∀ l, t.me.lane l = if l ∈ s.me.bundle then { s.me.lane l with
        pc := BitVec.ofNat 64 (r.to' s.begun.me l)
        link := if r.link then s.me.pc + 4#64 else (s.me.lane l).link } else s.me.lane l

/-- A transfer to a register value that is no multiple of 4 traps ALIGN, before any lane moves; its issue has ended an open
run all the same (R28, R67, R84). -/
def Sys2Proof.Claims.MisalignedJumpTraps : Prop :=
  ∀ (i : Instr) (r : JumpSpec) (s : State), jumpSpec i = some r → s.issues → (r.pre s.begun.me).Passes s.begun →
    r.checked = true → (∃ l ∈ s.me.bundle, r.to' s.begun.me l % 4 ≠ 0) → ControlTraps i s (Trap.precise 0x06 none)

/-- Transfers of control: where the lanes go, and when a transfer traps ALIGN (R28, R64, R67, R81). -/
def Obligations.Jumps : Prop :=
  Claims.JumpTargets ∧ Claims.MisalignedJumpTraps

/-- NOP only goes on; YIELD puts the group last in its core's round robin; SLEEP keeps the group from issuing for the low
24 bits of a, and acts as YIELD with 0 (a section that may not be pre-empted ends when the sleep outlasts it); IMX leaves
its 26 bits for the word that follows (R36, R69, R70, R359, R363). That YIELD puts the group behind those of its own priority (log
44, log 96), and that a SLEEP ends such a section by its count (log 3), are the model's choice. -/
def Sys2Proof.Claims.PausesEnd : Prop :=
  (∀ s : State, s.issues → (controlPre s.begun.me []).Passes s.begun → ClosedEnds .nop s s s.me .zero 0 noResult) ∧
  (∀ s : State, s.issues → (controlPre s.begun.me []).Passes s.begun →
    let c := s.core s.me.core
    ClosedEnds .yield s (s.setCore s.me.core { c with last := c.last.put (s.task s.me.task).prio (s.cur + 1) }) s.me
      .zero 0 noResult) ∧
  (∀ (s s1 : State) (a : Operand) (x : Word), s.issues →
    { controlPre s.begun.me [src a] with operandOk := !isVec s.begun.me a }.Passes s.begun →
    scalarRead s.begun a = .ok (s1, x) →
    let n := x.toNat % 2 ^ 24
    let c := s1.core s.me.core
    let late := s.me.nopre && decide (Config.noprelimit ≤ n)
    ClosedEnds (.sleep a) s
      (if n = 0 then s1.setCore s.me.core { c with last := c.last.put (s1.task s.me.task).prio (s.cur + 1) } else s1)
      { s.me with sleep := n, sleepCount := n, nopre := s.me.nopre && !late, overrun := s.me.overrun || late } .zero 0 noResult) ∧
  ∀ (s : State) (v : BitVec 26), s.me.sched = .active → s.me.imx = none →
    exec (.imx v) s = .next (s.setMe { s.begun.me with imx := some v })

/-- EXIT: the bundle's lanes exit and leave every heddle, and lanes that this releases go on; registers and predicates
stay (R68, R79). The first part is about a group without parked lanes, the second about one that keeps a live lane. -/
def Sys2Proof.Claims.ExitLeaves : Prop :=
  ∀ s : State, s.issues → { controlPre s.begun.me [] with codes := [3001] }.Passes s.begun → faultedOps s.begun.me = .ok () → s.me.reg.nest = 0 →
    let m := maskOfLanes s.me.bundle
    let left := fun h => s.me.heddle h &&& ~~~m
    ((∀ l, s.me.isParked l = false) →
      ∃ t, exec .exit s = .next t ∧ OnlyMe s t ∧ OnlyRegs s.me t.me ∧ SameRegs s.me t.me ∧ t.me.p = s.me.p ∧ t.me.Closed ∧
        (∀ h, h < 12 → t.me.heddle h = left h) ∧
        ∀ l, t.me.lane l = if l ∈ s.me.bundle then { s.me.lane l with st := .exited } else s.me.lane l) ∧
    ((∃ l, l < 32 ∧ l ∉ s.me.bundle ∧ s.me.isLive l = true) →
      ∃ t, exec .exit s = .next t ∧ OnlyMe s t ∧ OnlyRegs s.me t.me ∧ SameRegs s.me t.me ∧ t.me.p = s.me.p ∧ t.me.Closed ∧
        (∀ h, h < 12 → t.me.heddle h = left h) ∧
        (∀ l ∈ s.me.bundle, t.me.lane l = { s.me.lane l with st := .exited }) ∧
        ∀ l, l < 32 → l ∉ s.me.bundle →
          (s.me.isParked l = false → t.me.lane l = s.me.lane l) ∧
          ∀ h, h < 12 → (s.me.lane l).st = .parked h →
            (Freed (fun j => s.me.parkedOn h j) (left h) l → t.me.lane l = (s.me.lane l).released) ∧
            (¬Freed (fun j => s.me.parkedOn h j) (left h) l → t.me.lane l = s.me.lane l))

/-- NOP, YIELD, SLEEP, IMX and EXIT (R36, R68 to R70, R79, R359, R363). -/
def Obligations.PausesAndExit : Prop :=
  Claims.PausesEnd ∧ Claims.ExitLeaves

/-- HJOIN, HLEAVE, HCLR and HSET: the heddle's set takes its new value, no other heddle changes, the bundle goes on, and
after all but HJOIN the lanes that the new set frees go on (R74, R79). HGET gives a heddle's set and HCOUNT the number of
its members; no heddle changes (R74). -/
def Sys2Proof.Claims.HeddleInstructions : Prop :=
  (∀ (s s1 : State) (h : BitVec 4), s.issues → h.toNat < 12 →
    let m := s.me.heddle h.toNat
    let me := maskOfLanes s.me.bundle
    let written := fun (i : Instr) (u : State) (new : Word) (frees : Bool) =>
      ∃ t, exec i s = .next t ∧ OnlyMe u t ∧ OnlyRegs s.me t.me ∧ SameRegs s.me t.me ∧ t.me.p = s.me.p ∧ t.me.Closed ∧
        (∀ n, t.me.heddle n = if n = h.toNat then new else s.me.heddle n) ∧
        (∀ l ∈ s.me.bundle, t.me.lane l = s.me.nextLane l) ∧
        ∀ l, l < 32 → l ∉ s.me.bundle →
          (frees = true ∧ Freed (fun j => s.me.parkedOn h.toNat j) new l → t.me.lane l = (s.me.lane l).released) ∧
          (frees = false ∨ ¬Freed (fun j => s.me.parkedOn h.toNat j) new l → t.me.lane l = s.me.lane l)
    ({ controlPre s.begun.me [] with codes := [3001] }.Passes s.begun →
      written (.hjoin h) s (m ||| me) false ∧ written (.hleave h) s (m &&& ~~~me) true ∧ written (.hclr h) s 0#32 true) ∧
    ∀ (a : Operand) (x : Word),
      { controlPre s.begun.me [src a] with operandOk := !isVec s.begun.me a, codes := [3001] }.Passes s.begun →
      scalarRead s.begun a = .ok (s1, x) → written (.hset a h) s1 x true) ∧
  ∀ (s : State) (d : Operand) (h : BitVec 4), s.issues →
    { controlPre s.begun.me [dst d] with operandOk := isReg d, codes := [3001] }.Passes s.begun →
    ClosedEnds (.hget d h) s s s.me d 1 (sameResult (s.me.heddle h.toNat)) ∧
    ClosedEnds (.hcount d h) s s s.me d 1 (sameResult (popCount (s.me.heddle h.toNat)))

/-- HWAIT parks the bundle's lanes that are members of the set and lets the others go on; when every member is parked, or
where a parked lane is no member, the lanes go on at the next word (R75, R79). Stated where a lane is live afterwards. -/
def Sys2Proof.Claims.HwaitParks : Prop :=
  ∀ (s : State) (h : BitVec 4), s.issues → h.toNat < 12 →
    { controlPre s.begun.me [] with codes := [3001] }.Passes s.begun →
    let m := s.me.heddle h.toNat
    let parked := fun l => (decide (l ∈ s.me.bundle) && Word.has m l) || s.me.parkedOn h.toNat l
    (∃ l, l < 32 ∧ (s.me.isLive l = true ∧ parked l = false ∨ Freed parked m l)) →
    ∃ t, exec (.hwait h) s = .next t ∧ OnlyMe s t ∧ OnlyRegs s.me t.me ∧ SameRegs s.me t.me ∧ SameMasks s.me t.me ∧
      t.me.Closed ∧ ∀ l, l < 32 →
        (Freed parked m l → t.me.lane l = (s.me.lane l).released) ∧
        (¬Freed parked m l → t.me.lane l =
          if l ∈ s.me.bundle then
            (if Word.has m l then { s.me.lane l with st := .parked h.toNat }
             else { s.me.lane l with pc := (s.me.lane l).pc + 4#64 })
          else s.me.lane l)

/-- The heddle instructions (R74, R75, R79). -/
def Obligations.Heddles : Prop :=
  Claims.HeddleInstructions ∧ Claims.HwaitParks

/-- What `takeItems` gives the receivers, in order: the queued items, then the empty item where the queue is closed or
there is none, else nothing yet; the items taken leave the queue (R72). -/
def Sys2Proof.Claims.ItemsInOrder : Prop :=
  ∀ (t : Team) (n i : Nat), i < n →
    (takeItems t n).1 = { t with items := t.items.drop n } ∧ (takeItems t n).2.length = n ∧
    (takeItems t n).2.getD i none =
      if i < t.items.length then some (t.items.getD i 0#32, true)
      else if t.itemClosed = true ∨ t.itemCap = 0 then some (0xFFFFFFFF#32, false) else none

/-- ITEMHEAD and ITEMNEXT: each executing lane that receives an item takes it into d and goes on, after ITEMNEXT with a
queued item to the address that ITEMHEAD recorded; a lane that receives nothing stays and waits; ITEMHEAD records its next
word. Where only some of 32 lanes receive, d merges, so that its line must be there (R60, R72, R73, R86). The model's choice: the
marks of the lanes that wait (log 105), and that the item head is recorded with the first delivery (log 164). -/
def Sys2Proof.Claims.ItemsReceived : Prop :=
  ∀ (s : State) (d : Operand), s.issues →
    { controlPre s.begun.me [dst d] with operandOk := isReg d, inRegion := false }.Passes s.begun →
    let lanes := s.me.execLanes (isV d)
    let got := (takeItems (s.team s.me.team) lanes.length).2
    let of' := fun l => got.getD (lanes.idxOf l) none
    let u := s.setTeam s.me.team (takeItems (s.team s.me.team) lanes.length).1
    let received := fun (i : Instr) (head : Option Dword) (to' : Bool → Dword) =>
      ∃ t, exec i s = .next t ∧ OnlyMe u t ∧ SameMasks s.me t.me ∧ t.me.Closed ∧
        OnlyRegs { s.me with ihead := head, itemWait := t.me.itemWait } t.me ∧
        (∀ l, l < 32 → Word.has t.me.itemWait l =
          if l ∈ s.me.bundle then isV d && (of' l).isNone else Word.has s.me.itemWait l) ∧
        (∀ r l, l < 32 → t.me.vreg r l = match d with
          | .v n => if r = s.me.wb + n.toNat ∧ l ∈ s.me.bundle then (match of' l with
            | some x => x.1
            | none => s.me.vreg r l) else s.me.vreg r l
          | _ => s.me.vreg r l) ∧
        (∀ r, t.me.sreg r = match d with
          | .s n => if r = n.toNat then (match of' s.me.first with
            | some x => x.1
            | none => s.me.sreg r) else s.me.sreg r
          | _ => s.me.sreg r) ∧
        ∀ l, t.me.lane l = if l ∈ s.me.bundle then (match of' (if isV d then l else s.me.first) with
            | some x => { s.me.lane l with pc := to' x.2 }
            | none => s.me.lane l) else s.me.lane l
    let part := mergedRegs s.me (lanes.filter fun l => (of' l).isSome) [dst d]
    (∃ l ∈ lanes, (of' l).isSome) →
    (part.all fun r => !s.me.absent.contains r && !s.me.poison.contains r && (s.me.regErr.read [] r).isEmpty) = true →
    received (.itemhead d) (some (s.me.pc + 4#64)) (fun _ => s.me.pc + 4#64) ∧
    ∀ head, s.me.ihead = some head →
      received (.itemnext d) (some head) (fun item => if item then head else s.me.pc + 4#64)

/-- ITEMHEAD and ITEMNEXT: which items come, and what each lane receives (R72, R73). -/
def Obligations.Items : Prop :=
  Claims.ItemsInOrder ∧ Claims.ItemsReceived

/-- WBASE and WBADD: the window base becomes a, or moves by a, when the result is a multiple of 8 that leaves 8 registers
above it, and d takes the old base; any other result traps WINDOW with the result, and the base stays (R379). -/
def Obligations.WindowMoves : Prop :=
  ∀ (s s1 : State) (d a : Operand) (x : Word), s.issues →
    { controlPre s.begun.me [dst d, src a] with operandOk := !isVec s.begun.me a && (isS d || isZero d) }.Passes s.begun →
    scalarRead s.begun a = .ok (s1, x) →
    let moves := fun (i : Instr) (n : Int) =>
      (n % 8 = 0 ∧ 0 ≤ n ∧ n ≤ (s.me.nreg : Int) - 8 →
        ClosedEnds i s s1 { s.me with wb := n.toNat } d 1 (sameResult (BitVec.ofNat 32 s.me.wb))) ∧
      (¬(n % 8 = 0 ∧ 0 ≤ n ∧ n ≤ (s.me.nreg : Int) - 8) →
        ControlTraps i s (Trap.precise 0x0E (some (BitVec.ofInt 32 n).toNat)))
    moves (.wbase d a) x.toNat ∧ moves (.wbadd d a) (s.me.wb + x.toInt)

-- Memory ------------------------------------------------------------------------------------------------------------------

/-- A load issues: each lane of its bundle whose predicate bit is 1 has its access, at base plus offset, and the operation
is outstanding under the next number of the group; no register, no predicate and nothing else of the machine changes yet, but
what the reads of a linear load leave at the stripes they meet (R414, R416).
An LDACQ of no lane waits for the earlier loads, acquires all memory at its scope, and counts (R220, R228). Stated for
addresses that pass their checks, with room for the request and for the entries of a channel destination, and with the
lines full that .wait asks for (R191, R193, R195, R226, R228, R317). -/
def Obligations.LoadsIssue : Prop :=
  (∀ (i : Instr) (r : MemSpec) (s : State) (ps : List (Nat × Place)), loadSpec i = some r → s.issues →
    (r.loadPre s.begun.me).Passes s.begun → gateAccess s.begun.me = .ok () →
    let ts := r.lanesAt s.begun.me
    (r.scope.isSome = true → faultedOps s.begun.me = .ok ()) → (ts = [] → r.scope = none) →
    s.begun.checkAddrs s.begun.me r.lin false 0 r.width ts = .ok ps →
    s.begun.mergeDst (dstN r.d (regsOf r.width)) ts.length = .ok s.begun →
    (r.full = true → (scratchLines ps).all (fun e => s.lineFull e.1 e.2) = true) →
    s.me.loadsOut < 32 → s.begun.requestRoom s.begun.me true = true →
    s.begun.chanRoom (r.resultTo s.begun.me) (ts.zip ps).length = .ok () →
    Ends i s (s.noteReads (s.linearLines r.width (ps.map (·.2))))
      { s.me with ops := s.me.ops ++ [r.loadOp s.begun ps], seq := s.me.seq + 1 } .zero 0 noResult) ∧
  ∀ (i : Instr) (r : MemSpec) (s : State) (scope : Nat), loadSpec i = some r → r.scope = some scope → s.issues →
    (r.loadPre s.begun.me).Passes s.begun → gateAccess s.begun.me = .ok () → loadsReturned s.begun.me = .ok () →
    r.lanesAt s.begun.me = [] → s.me.outstanding .mem < 4095 →
    let u := (s.acquire s.me scope allMemory).countInstant s.me.pc
    Ends i s u u.me .zero 0 noResult

/-- What one lane's access is at issue: a scratch access has its bytes at once, from the scratch of its team or from the
group's own writes on their way; a virtual one that is fresh, or whose line the L1 does not hold, waits for the home
slice; a stale-tolerant one whose line the L1 holds, and which no earlier access of the group to the line still precedes,
takes the line's bytes where its marks allow it (R188, R196, R216, R217). A result of 1 or 2 bytes is sign- or
zero-extended to 32 bits as its size code says (R193). The model's choice: scratch is read at issue (log 16), and the group's own
writes come from its buffer until they have been performed (log 23). -/
def Sys2Proof.Claims.LoadAccess : Prop :=
  (∀ (s : State) (g : Group) (fresh : Bool) (w l addr e : Nat),
    (∀ t o, let a := s.loadAcc g fresh w ((l, addr), e, .scratch t o)
      a.lane = l ∧ a.addr = addr ∧ a.st = .got ∧
        a.data = (List.range w).map fun i => (g.ownByte 1 t (o / 128) (o % 128 + i)).getD (s.scratchByte t (o + i))) ∧
    ∀ v, let a := s.loadAcc g fresh w ((l, addr), e, .va v)
      let line := (s.core g.core).l1.read Line.absent (g.key v)
      a.lane = l ∧ a.addr = addr ∧ (fresh = true ∨ line.present = false → a.st = .wait) ∧
        ∀ m, fresh = false → g.regionSlot = 0 → line.present = true → g.atomicBefore g.seq (v / 128) = false →
          g.loadBefore g.seq (v / 128) = false → s.fillBefore s.cur g.seq (v / 128) = false → line.marks = some m → m.allow false false g.priv = true →
          a.st = .got ∧ a.data = (List.range w).map fun i =>
            (g.ownByte 0 0 (v / 128) (v % 128 + i)).getD (line.bytes.read 0#8 (v % 128 + i))) ∧
  ∀ (a b : Byte), extend 1 false [a] = a.toNat ∧ extend 1 true [a] = (a.signExtend 32).toNat ∧
    extend 2 false [a, b] = a.toNat + 256 * b.toNat ∧ extend 2 true [a, b] = ((b ++ a).signExtend 32).toNat

/-- A load completes when each lane has been served and every earlier load and atomic has: the destination takes each
lane's bytes, extended as the size code says, and every other register of every group keeps its value; an acquire read
leaves by `completeOp` too (R25, R193, R228). -/
def Sys2Proof.Claims.LoadDelivers : Prop :=
  ∀ (s : State) (k seq : Nat) (o : Op), (s.group k).op seq = some o → (s.group k).completes o = true →
    (s.group k).sched = .active → exec (.loadCompletion k seq) s = .next (s.completeOp k o) ∧
    ∀ (u : State), (State.deliver { s with cur := k } o = .ok u) → o.order % 2 = 0 →
      let t := s.completeOp k o
      (∀ j, j ≠ k → t.group j = s.group j) ∧ t.mem = s.mem ∧ t.l2 = s.l2 ∧ SameMasks (s.group k) (t.group k) ∧
      (t.group k).lanes = (s.group k).lanes ∧
      ((o.accs.map (·.lane)).Nodup → (∀ a ∈ o.accs, a.lane < 32) → ∀ r l, l < 32 → (t.group k).vreg r l = match o.dst with
        | .v n w => if n ≤ r ∧ r < n + w then (match o.accs.find? fun a => a.lane = l with
            | some a => wordOf (o.resultOf a) (r - n)
            | none => (s.group k).vreg r l) else (s.group k).vreg r l
        | _ => (s.group k).vreg r l) ∧
      ∀ r, (t.group k).sreg r = match o.dst with
        | .s n w => if n ≤ r ∧ r < n + w then (match o.accs with
            | a :: _ => wordOf (o.resultOf a) (r - n)
            | [] => (s.group k).sreg r) else (s.group k).sreg r
        | _ => (s.group k).sreg r

/-- What a load takes at issue, and what it delivers when it completes (R25, R188, R193, R196, R217, R228). -/
def Obligations.LoadsComplete : Prop :=
  Claims.LoadAccess ∧ Claims.LoadDelivers

/-- A store outside a region and without release issues: its lanes' bytes are gathered by line and each line is stored,
in the order of the lanes; the store is outstanding until its last line has completed; one that had to wait for a drain
goes on with the lines that are left (R194, R197, R199, R228). Inside a region
the bytes wait in the operation, which goes to the region's slot (R271). That a store which waits for drains goes on with the lines
that are left is the model's choice (log 107). -/
def Sys2Proof.Claims.StoresIssue : Prop :=
  (∀ (i : Instr) (r : MemSpec) (s s1 s2 : State) (ps : List (Nat × Place)) (xs : List (List Nat)),
    storeSpec i = some r → r.scope = none → s.issues → (r.storePre s.begun.me).Passes s.begun →
    gateAccess s.begun.me = .ok () → s.me.regionSlot = 0 →
    let ts := r.lanesAt s.begun.me
    s.begun.checkAddrs s.begun.me r.lin true 0 r.width ts = .ok ps →
    (s.me.reg.nest = 0 ∨ scratchLines ps = []) →
    let lanes := if r.f = .one then s.me.bundle.take 1 else s.me.bundle
    readWides s.begun lanes s.begun [(r.d, regsOf r.width)] = .ok (s1, xs) →
    let lines := gather [] (ps.map fun e => (e.2, storeData lanes (xs.headD []) r.width e.1))
    let uses := [srcN r.d (regsOf r.width), srcN r.a 2]
    let op : Op := { Op.base s.me.seq .mem .store s.me.pc with
      lin := r.lin, ret := r.ret, fresh := r.fresh
      fault := if r.lin then (ts.find? fun t => bitOf t.2 40).map fun t => (causeView, 0, t.1, t.2) else none }
    (s.me.storing = none → s.begun.requestRoom s.begun.me false = true →
      foldM (fun u e => State.storeLine u s.me.seq s.me.pc r.fresh r.full r.ret e) s1 lines = .ok s2 →
      exec i s = .next (((s2.setMe { s2.me with ops := s2.me.ops ++ [op], seq := s.me.seq + 1 }).finish s.begun.me
        uses).settle s2.cur)) ∧
    ∀ q n, s.me.storing = some (q, n) →
      foldM (fun u e => State.storeLine u q s.me.pc r.fresh r.full r.ret e) s1 (lines.drop n) = .ok s2 →
      exec i s = .next (((s2.setMe { s2.me with storing := none }).finish s.begun.me uses).settle s2.cur)) ∧
  ∀ (i : Instr) (r : MemSpec) (s s1 : State) (ps : List (Nat × Place)) (xs : List (List Nat)),
    storeSpec i = some r → r.scope = none → s.issues → (r.storePre s.begun.me).Passes s.begun →
    gateAccess s.begun.me = .ok () → 0 < s.me.regionSlot →
    let ts := r.lanesAt s.begun.me
    s.begun.checkAddrs s.begun.me r.lin true 0 r.width ts = .ok ps → scratchLines ps = [] →
    s.begun.requestRoom s.begun.me false = true →
    (s.me.ops.filter fun o => o.heldKind = some 2).length < 16 → s.me.heldCount < 48 →
    let lanes := if r.f = .one then s.me.bundle.take 1 else s.me.bundle
    readWides s.begun lanes s.begun [(r.d, regsOf r.width)] = .ok (s1, xs) →
    let accs := ts.map fun t => (⟨t.1, t.2, .wait, [], storeData lanes (xs.headD []) r.width t.1, [], []⟩ : Acc)
    let op : Op := { Op.base s.me.seq .mem .store s.me.pc with
      accs := accs, slot := s.me.regionSlot, ret := r.ret, done := ts.isEmpty }
    exec i s = .next (((s1.setMe { s1.me with ops := s1.me.ops ++ [op], seq := s.me.seq + 1 }).finish s.begun.me
      [srcN r.d (regsOf r.width), srcN r.a 2]).settle s1.cur)

/-- A STREL holds its own writes until every access before it has finished: the release is open with the lines of its
objects, each line waits as a held write, and nothing is written yet (R219, R226). -/
def Sys2Proof.Claims.StoreReleaseHolds : Prop :=
  ∀ (i : Instr) (r : MemSpec) (s s1 : State) (scope : Nat) (ps : List (Nat × Place)) (xs : List (List Nat)),
    storeSpec i = some r → r.scope = some scope → s.issues → (r.storePre s.begun.me).Passes s.begun →
    gateAccess s.begun.me = .ok () → faultedOps s.begun.me = .ok () →
    let ts := r.lanesAt s.begun.me
    ts ≠ [] → s.begun.checkAddrs s.begun.me r.lin true 0 r.width ts = .ok ps →
    s.begun.requestRoom s.begun.me false = true →
    let objs := ps.map fun e => match e.2 with
      | .va a => (0, 0, a / 128)
      | .scratch t o => (1, t, o / 128)
      | .linear a => (2, 0, a / 128)
    let lanes := if r.f = .one then s.me.bundle.take 1 else s.me.bundle
    let u := s.begun.openRelease scope objs.eraseDups
    readWides u lanes u [(r.d, regsOf r.width)] = .ok (s1, xs) →
    s.begun.me.heldCount + (gather [] (ps.map fun e => (e.2, ([] : Bytes)))).length ≤ 48 →
    ∃ t, exec i s = .next t ∧ t.mem = s.mem ∧ t.l2 = s.l2 ∧ t.teams = s.teams ∧ SameRegs s.me t.me ∧ SameMasks s.me t.me ∧
      Advanced s.me t.me ∧ t.me.seq = s.me.seq + 1

/-- What storing one line of bytes does. In scratch the bytes stand at once, other scratch bytes stay, and .full marks the
line; a virtual line's bytes stand among the group's own writes, where its later loads see them, and device memory and
the L2 are unchanged until the home slice takes them (R188, R189, R196, R197). That scratch is written at issue (log 16), and that
lines which an open release holds wait as held writes (log 20), is the model's choice. -/
def Sys2Proof.Claims.StoredLine : Prop :=
  ∀ (s t : State) (seq off : Nat) (pc : Dword) (fresh full : Bool) (ret line : Nat) (bs : Bytes), off + bs.length ≤ 128 →
    (∀ tm, s.me.heldBy 1 tm line = none → (s.team tm).resident = true →
      s.storeLine seq pc fresh full ret (1, tm, line, putBytes [] off bs) = .ok t →
      (∀ o, t.scratchByte tm o =
        if 128 * line + off ≤ o ∧ o < 128 * line + off + bs.length then bs.getD (o - (128 * line + off)) 0#8
        else s.scratchByte tm o) ∧
      (∀ n, t.lineFull tm n = if full = true ∧ n = line then true else s.lineFull tm n) ∧
      (∀ j, j ≠ tm → t.team j = s.team j) ∧ t.groups = s.groups ∧ t.mem = s.mem ∧ t.l2 = s.l2) ∧
    (s.me.heldBy 0 0 line = none →
      s.storeLine seq pc fresh full ret (0, 0, line, putBytes [] off bs) = .ok t →
      OnlyMe s t ∧ (∀ n o, t.me.sees n o =
        if n = line ∧ off ≤ o ∧ o < off + bs.length then some (bs.getD (o - off) 0#8) else s.me.sees n o))

/-- Stores at issue, with and without a region or a release, and what each of their lines does (R188, R189, R194, R196,
R197, R219, R226, R228, R271). -/
def Obligations.StoresLeave : Prop :=
  Claims.StoresIssue ∧ Claims.StoreReleaseHolds ∧ Claims.StoredLine

/-- The path of a load behind its issue. At the home slice, after the group's earlier accesses to the line, a line that the L2 holds answers, and one that it does not goes
to the translation home; there it is translated, a sector with an erasure waits for its degraded read, and the line that
comes back serves every lane of the load that reads it (R25, R177, R180, R216, R414). -/
def Sys2Proof.Claims.LoadPath : Prop :=
  ∀ (s : State) (k seq line : Nat) (o : Op), (s.group k).op seq = some o → o.onPath = true → (s.group k).sched = .active →
    let g := s.group k
    ((o.accs.any fun a => decide (a.addr / 128 = line) && decide (a.st = .wait)) = true →
      g.atomicBefore seq line = false → g.loadBefore seq line = false → s.fillBefore k seq line = false →
      g.mayRedo seq = true → s.rehashHolds g.core (128 * line) (some (k, seq)) = false → s.locked (lineKey g.asid line) = false →
      s.homePath g.core (128 * line) = true →
      ((s.l2Line (lineKey g.asid line)).present = false →
        exec (.homeSliceRequest k seq line none) s = .next (s.moveLine k seq line .wait .walk)) ∧
      ((s.l2Line (lineKey g.asid line)).present = true → (s.l2Line (lineKey g.asid line)).marks.isSome = true →
        ∀ s' l, s.fetch g.asid line o.isStore false g.priv o.ret = .line s' l →
        exec (.homeSliceRequest k seq line none) s = .next (s'.serveLine k o line l))) ∧
    ((o.accs.any fun a => decide (a.addr / 128 = line) && decide (a.st = .walk)) = true →
      s.locked (lineKey g.asid line) = false → ∀ pa m, s.translate g.asid (128 * line) o.isStore false g.priv = .mem pa m →
      ((s.l2Line (lineKey g.asid line)).present = false → s.degraded (pa / 128) = true →
        exec (.translationWalk k seq line) s =
          .next ((s.tlbFill g.asid (128 * line)).moveLine k seq line .walk (.degraded (pa / 128)))) ∧
      (s.degraded (pa / 128) = false →
        ∀ s' l, s.fetch g.asid line o.isStore false g.priv o.ret = .line s' l →
        exec (.translationWalk k seq line) s = .next (s'.serveLine k o line l)))

/-- A served line: outside a region each lane of the load that waits for the line takes its bytes from it, the group's own
bytes first; a line that cannot be decoded faults the load with POISON (R25, R196, R200). -/
def Sys2Proof.Claims.ServedLine : Prop :=
  ∀ (s : State) (k line w : Nat) (sg : Bool) (o : Op) (l : Line), (s.group k).op o.seq = some o → o.kind = .load w sg →
    o.slot = 0 →
    let t := s.serveLine k o line l
    t.mem = s.mem ∧ t.l2 = s.l2 ∧ (∀ j, j ≠ k → t.group j = s.group j) ∧
    ∀ o', (t.group k).op o.seq = some o' → ∀ (n : Nat) (a : Acc), o.accs[n]? = some a → ∃ b : Acc, o'.accs[n]? = some b ∧ b.lane = a.lane ∧
      (a.addr / 128 = line ∧ a.st = .wait →
        if l.poison then b.st = .failed causePoison 0
        else b.st = .got ∧ b.data = a.merge w fun i => l.bytes.read 0#8 (a.addr % 128 + i)) ∧
      (a.addr / 128 ≠ line → b = a)

/-- The path of a load from issue to its bytes (R25, R177, R180, R196, R200, R414). -/
def Obligations.LoadsTravel : Prop :=
  Claims.LoadPath ∧ Claims.ServedLine

/-- The path of a store behind its issue. WCB_LINE_DRAIN and STORE_WRITE_AT_HOME and HELD_WRITE_RELEASE answer a next state: a
line of the write-combining buffer that is whole, or whose group waits or does
not run, drains; at its home slice a drained line is performed, in order behind the group's accesses to the same bytes;
held behind open regions until they have ended; recorded behind a failed line of the same bytes (R197, R201, R287). The model's
choice: which lines of a group that does not run drain when (log 2, log 134). -/
def Sys2Proof.Claims.StorePath : Prop :=
  (∀ (s : State) (k line : Nat) (w : WcbLine), (s.group k).wcb.find? (fun w => w.line = line) = some w →
    128 ≤ (w.bytes.filter fun e => e.2.isSome).length ∨ (s.group k).blocked = true ∨ (s.group k).sched ≠ .active ∨
      (s.group k).liveLanes = [] →
    (s.group k).drained < 16 → s.coreRequests (s.group k).core < 4096 →
    exec (.wcbLineDrain k line) s = .next ((s.setGroup k ((s.group k).drainLine line)).settle k)) ∧
  (∀ (s : State) (k id : Nat) (p : Part), (s.group k).parts.find? (fun p => p.id = id) = some p → p.st = .wait →
    p.rel = none → (s.group k).mayWrite p = true → (s.group k).mayRedo p.first = true →
    (∀ e, p.cls ≠ 0 → (s.group k).recordOver p = some e →
      exec (.storeWriteAtHome k id) s = .next (s.partTo k id (.failed (e.word % 256) 256))) ∧
    ((s.group k).recordOver p = none → p.cls ≠ 0 → exec (.storeWriteAtHome k id) s = .next (s.performPart k p)) ∧
    ((s.group k).recordOver p = none → p.cls = 0 → s.rehashHolds (s.group k).core (128 * p.line) none = false →
      s.tstBefore k p.first p.line = false →
      s.homePath (s.group k).core (128 * p.line) = true →
      (s.regionHolds (s.group k).asid p.line = false →
        exec (.storeWriteAtHome k id) s = .next (s.performPart k p)) ∧
      (s.regionHolds (s.group k).asid p.line = true → ∀ s' l,
        s.fetch (s.group k).asid p.line true false (s.group k).priv p.ret = .line s' l →
        exec (.storeWriteAtHome k id) s = .next (s'.partTo k id .held)))) ∧
  (∀ (s : State) (k id : Nat) (p : Part), (s.group k).parts.find? (fun p => p.id = id) = some p → p.st = .held →
    s.regionHolds (s.group k).asid p.line = false →
    let key := lineKey (s.group k).asid p.line
    let l := s.l2Line key
    l.present = true →
    let u := (s.putLine (key / 2 ^ 45) (key % 2 ^ 45) (l.merge p.bytes (if p.ret = 3 then 0 else p.ret))).updateL1
      (s.group k).core key p.bytes
    exec (.heldWriteRelease k id) s = .next ((u.setGroup k ((u.group k).dropPart id)).settle k))

/-- The bytes of a write at its home slice stand in the L2 line, which is modified from then on; its other bytes are those
that the line had; device memory changes when the line is written back. A line that the L2 does not hold comes into it first,
where its set has a way, but for a write without allocation, which goes through to the channels and leaves the L2 as it is (R180,
R183, R197, R215); a write of another retention ends the preference of the line's block. Stated where every stripe can be decoded.
That a write without allocation goes through (log 109), and what becomes of marks (log 108), is the model's choice. -/
def Sys2Proof.Claims.HomeWriteMerges : Prop :=
  ∀ (s s' : State) (asid line off : Nat) (bs : Bytes) (priv : Bool) (ret : Nat) (l : Line),
    (∀ st, (s.erasures st).length ≤ 2) → s.homeWrite asid line (putBytes [] off bs) priv ret = .line s' l →
    let here := (s.l2Line (lineKey asid line)).present
    s'.groups = s.groups ∧ (∀ i, i < bs.length → l.bytes.read 0#8 (off + i) = bs.getD i 0#8) ∧ l.dirty = true ∧
    (here = true ∨ ret ≠ 3 ∧ s.setFull (lineKey asid line) = false → s'.l2Line (lineKey asid line) = l) ∧
    (here = true → s'.mem = s.mem ∧
      (∀ k, k ≠ lineKey asid line → { s'.l2Line k with ret := 0 } = { s.l2Line k with ret := 0 }) ∧
      ∀ o, (o < off ∨ off + bs.length ≤ o) →
        l.bytes.read 0#8 o = (s.l2Line (lineKey asid line)).bytes.read 0#8 o) ∧
    (here = false → ret = 3 → s'.l2 = s.l2)

/-- A sector that is written whole reads back as written, where no chunk of its stripe is an erasure, no repair holds a write of
the stripe and the stripe is not poisoned (R412, R415). -/
def Sys2Proof.Claims.SectorReadsBack : Prop :=
  ∀ (s : State) (line : Nat) (bs : Bytes), bs.length = 128 → inTables (128 * line) = false →
    ppaState (s.ppa (line / 512)) ≠ 2 → s.res.poison.contains (line / 4) = false →
    128 * line < Config.reservedBase →
    ((s.initPage (line / 512)).erasures (line / 4)) = [] → (∀ w ∈ s.res.heldW, w.st ≠ line / 4) →
    (s.writeSector line (bs.map some) false).readSector line = some bs ∧
    ∀ a, a < Config.reservedBase → a / 128 ≠ line → (s.writeSector line (bs.map some) false).byteAt a = s.byteAt a

/-- The path of a store from issue to the L2 and to device memory (R180, R197, R201, R215, R287, R412, R415). -/
def Obligations.StoresTravel : Prop :=
  Claims.StorePath ∧ Claims.HomeWriteMerges ∧ Claims.SectorReadsBack

/-- The end of an instruction that is no latch producer: the bundle's lanes go to the next word, past both words of an IMX
pair, and nothing else changes but the open run; the ends of control instructions close the run too (R36, R64, R81). -/
def Obligations.FinishFrame : Prop :=
  ∀ (s : State) (g0 : Group) (us : List Use), g0.bundle = s.me.bundle →
    OnlyMe s (s.finish g0 us) ∧ OnlyRegs s.me (s.finish g0 us).me ∧ SameRegs s.me (s.finish g0 us).me ∧
    SameMasks s.me (s.finish g0 us).me ∧ Advanced s.me (s.finish g0 us).me ∧
    OnlyMe s (s.finishControl g0) ∧ OnlyRegs s.me (s.finishControl g0).me ∧ SameRegs s.me (s.finishControl g0).me ∧
    SameMasks s.me (s.finishControl g0).me ∧ Advanced s.me (s.finishControl g0).me ∧ (s.finishControl g0).me.Closed

/-- Failed writes and faulted loads. A failed write joins its group's store-fault records, the fence status takes its bits and
counts each operation that fails with it, and the group traps at its next issue; a group blocked behind a faulted load
issues again and stops there, and a faulted region store stops it at once, once its frame can be reached; an acknowledgement
from outside completes the write or gives the lanes their data, an acquire with the binding of its object (R200, R201, R220,
R230, R341). The model's choice: the fields of the trap's record (log 78), that a write outside the device is complete with its
acknowledgement (log 21), the cause of a reduction on undecodable data (log 22), and the acknowledgement that a reply is given
(log 154). -/
def Obligations.StoreFaults : Prop :=
  (∀ (s : State) (k c w : Nat) (p : Part), (s.group k).parts.find? (fun p => match p.st with
      | .failed _ _ => true
      | _ => false) = some p → p.st = .failed c w → (s.group k).sched = .active → (s.group k).sfq.length < 16 →
    ∃ t, exec (.storeFaultRecordArrival k) s = .next t ∧ (t.group k).sfnew = true ∧
      (t.group k).sfq = (s.group k).sfq ++
        [⟨c + (if w = 256 then 256 else 0), p.pc, { p with st := .wait, rel := none }, (s.group k).core⟩] ∧
      (t.group k).fence = fenceNote (s.group k).fence (fenceBits c)
        ((s.group k).ops.filter fun o => p.ops.contains o.seq && !o.failed).length ∧
      (∀ q ∈ (t.group k).parts, q.id ≠ p.id) ∧ t.mem = s.mem ∧ ∀ j, j ≠ k → t.group j = s.group j) ∧
  (∀ (s : State) (k : Nat) (e : SfEntry) (r : List SfEntry), (s.group k).sfq = e :: r → (s.group k).sfnew = true →
    (s.group k).sched = .active →
    exec (.storeFault k) s = .next ((s.setGroup k { s.group k with sfnew := false }).takeTrap k (storeFaultTrap (s.group k) e))) ∧
  (∀ (s : State) (k : Nat) (o : Op) (f : Nat × Nat × Nat × Nat), (s.group k).sched = .active →
    (s.group k).ops.find? (fun o => !o.done && o.fault.isSome && ((s.group k).blocked || o.isRegionStore)) = some o →
    o.fault = some f → (let g := s.group k
      s.lineBusy g.core g.asid (s.frameBase g) (frameSize g.nreg g.rgn) = false) →
    exec (.deferredLoadFault k) s =
      .next (if o.isRegionStore then s.takeTrap k (o.deferred f) else s.setGroup k { s.group k with blocked := false })) ∧
  (∀ (s : State) (k : Nat), exec (.scratchWaitEnd k) s = .next (s.setGroup k { s.group k with blocked := false })) ∧
  (∀ (s : State) (k seq : Nat) (data : Bytes) (p : Part), k ≠ noGroup →
    (s.group k).parts.find? (fun p => p.ops.contains seq && (match p.st with
      | .ext _ => true
      | _ => false)) = some p →
    let u := s.replied k seq
    exec (.externalAcknowledgement k seq true data) s = .next ((u.setGroup k ((s.group k).dropPart p.id)).settle k)) ∧
  ∀ (s : State) (k seq w : Nat) (sg : Bool) (data : Bytes) (o : Op) (a : Acc), k ≠ noGroup →
    (s.group k).parts.find? (fun p => p.ops.contains seq && (match p.st with
      | .ext _ => true
      | _ => false)) = none →
    (s.group k).op seq = some o → o.kind = .load w sg → o.cls = .mem →
    let ext := fun (a : Acc) => match a.st with
      | .ext _ => true
      | _ => false
    let this := fun (b : Acc) => ext b && decide (b.lane = a.lane)
    o.accs.find? ext = some a →
    let u := s.replied k seq
    exec (.externalAcknowledgement k seq true data) s =
      .next ((u.setGroup k ((s.group k).setOp seq fun o => o.mapAccs this fun b =>
        { b with st := .got, data := b.merge w fun i => data.getD i 0#8
                 op2 := if o.order % 2 = 1 then u.bindingBytes (s.group k).asid b.addr else b.op2 })).settle k)

/-- The members of MEMC: PREF brings its lines into the L2, and into the L1 where it asks; INVL removes lines, or every
line of the group's address space, from its core's L1; SETE and SETF write the full/empty bits of the lines of their
scratch addresses; PROBE reports on each address; SDRAIN ends when no store of the group is on its way. SETE, SETF and
PROBE count on the mem counter as they complete (R203, R204, R206, R208, R228). The model's choice: what PROBE answers for window
addresses (log 32), the offset of INVL.ALL (log 140), and when the members that complete at issue count (log 141). -/
def Sys2Proof.Claims.MemcEnds : Prop :=
  ∀ (s : State) (d a : Operand), s.issues →
    let g := s.begun.me
    let ts := g.pairTargets a
    (∀ (r : BitVec 2) (v : Bool), (memcPre g [srcN a 2] 2).Passes s.begun →
      exec (.pref a r v) s = .next ((ts.foldl (fun u t => u.prefetch g (!v) r.toNat t.2) s.begun).finish g [srcN a 2])) ∧
    (∀ ps, (memcPre g [srcN a 2] 2).Passes s.begun →
      s.begun.checkAddrs g false false 0 1 (ts.filter fun t => !isScratch t.2) = .ok ps →
      Ends (.invl a) s (s.dropL1 g.core fun k => ((ts.filter fun t => !isScratch t.2).map fun t => g.key t.2).contains k)
        s.me .zero 0 noResult) ∧
    ((memcPre g [] 2).Passes s.begun →
      Ends .invlAll s (s.dropL1 g.core fun k => decide (k / 2 ^ 45 = g.asid)) s.me .zero 0 noResult) ∧
    ({ controlPre g [] with inRegion := false }.Passes s.begun → faultedOps g.drain = .ok () →
      (g.drain.ops.any fun o => o.isStore && !o.done) = false → g.sfq = [] →
      exec .sdrain s = .next ((s.setMe g.drain).finish g [])) ∧
    (∀ ps, (memcPre g [srcN a 2] 0).Passes s.begun → gateAccess g = .ok () → s.me.outstanding .mem < 4095 →
      s.begun.checkAddrs g false true 2 1 ts = .ok ps → s.me.reg.nest = 0 →
      (∀ p ∈ g.parts, p.cls = 1 → ∀ e ∈ ps, ∀ t o, e.2 = .scratch t o → ¬(p.team = t ∧ p.line = o / 128)) →
      let marked := fun (b : Bool) => ps.foldl (fun u e => match e.2 with
        | .scratch t o => u.setFullBit t (o / 128) b
        | _ => u) s
      let counted := fun (b : Bool) => (marked b).countInstant s.me.pc
      Ends (.sete a) s (counted false) (counted false).me .zero 0 noResult ∧
      Ends (.setf a) s (counted true) (counted true).me .zero 0 noResult) ∧
    ({ memcPre g [dst d, srcN a 2] 0 with operandOk := (isV a && isV d) || (!isV a && isS d) }.Passes s.begun →
      gateAccess g = .ok () → s.me.outstanding .mem < 4095 →
      let u := s.countInstant s.me.pc
      Ends (.probe d a) s u u.me d 1
        fun _ l => s.begun.probeWord g (match ts.find? fun t => t.1 = l with
          | some t => t.2
          | none => 0))

/-- WBL drains the group's buffer and is outstanding from then on; a count of 0 does nothing. At the home slices, after the
group's own earlier writes to its range, it writes every cached stripe block of the range back and, with invalidation,
removes the lines that are then clean from the L2 and the core's own from its L1. Stated where no repair of a channel and no
bucket that moves holds a block (R205, R228). That its write-backs are one step is the model's choice (log 137). -/
def Sys2Proof.Claims.WblEnds : Prop :=
  (∀ (s s1 : State) (inv : Bool) (a b : Operand) (n : Word), s.issues →
    let g := s.begun.me
    { controlPre g [srcN a 2, src b] with imx := 2, operandOk := !isV a && !isVec g b, inRegion := false }.Passes s.begun →
    scalarRead s.begun b = .ok (s1, n) → gateAccess g = .ok () → s.me.outstanding .mem < 4095 →
    let base := addAddr (g.scalar64 a) g.offset
    let u := s1.countInstant s.me.pc
    (n = 0#32 → Ends (.wbl inv a b) s u u.me .zero 0 noResult) ∧
    (n ≠ 0#32 → isScratch base = false → base < 2 ^ 52 → base + n.toNat ≤ 2 ^ 52 →
      Ends (.wbl inv a b) s s1 { s.me.drain with
        ops := s.me.drain.ops ++ [Op.base s.me.seq .mem (.wbl base (base + n.toNat) inv) s.me.pc], seq := s.me.seq + 1 }
        .zero 0 noResult)) ∧
  ∀ (s : State) (k seq base stop : Nat) (inv : Bool) (o : Op), (s.group k).op seq = some o → o.kind = .wbl base stop inv →
    o.done = false →
    let g := s.group k
    (∀ p ∈ g.parts, p.cls = 0 → p.first < seq → p.st = .wait ∨ p.st = .walk ∨ p.st = .held → inBlocks base stop p.line = false) →
    let hit := fun (q : Nat) => decide (q / 2 ^ 45 = g.asid) && inBlocks base stop (q % 2 ^ 45)
    let keys := s.l2.keys.filter hit
    (∀ q ∈ keys, s.repairHolds q = false ∧ s.rehashHolds g.core (128 * (q % 2 ^ 45)) none = false) →
    let u := keys.foldl (fun u q => if (u.l2Line q).dirty then (u.noteBlock q).writeBack q else u) s
    let v := if inv then (keys.foldl (fun u q => if (u.l2Line q).dirty then u else u.dropL2 q) u).dropL1 g.core hit else u
    execWblPerform k seq s = .next ((v.setGroup k ((v.group k).setOp seq fun o => { o with done := true })).settle k)

/-- The members of MEMC (R203 to R206, R208). -/
def Obligations.MemcInstructions : Prop :=
  Claims.MemcEnds ∧ Claims.WblEnds

-- Order and synchronisation -----------------------------------------------------------------------------------------------

/-- What an acquire does: beyond team scope the lines of its address space that overlap its reach leave the core's L1, and
no other line, core or state changes; at team scope nothing changes (R220). -/
def Sys2Proof.Claims.AcquireSweeps : Prop :=
  ∀ (s : State) (g : Group) (scope : Nat) (reach : List (Nat × Nat)),
    (scope = 0 → s.acquire g scope reach = s) ∧
    (scope ≠ 0 → (s.acquire g scope reach).mem = s.mem ∧ (s.acquire g scope reach).l2 = s.l2 ∧
      (s.acquire g scope reach).groups = s.groups ∧
      (∀ c, c ≠ g.core → (s.acquire g scope reach).core c = s.core c) ∧
      ∀ k, ((s.acquire g scope reach).core g.core).l1.read Line.absent k =
        if k / 2 ^ 45 = g.asid ∧ ∃ r ∈ reach, r.1 < 128 * (k % 2 ^ 45 + 1) ∧ 128 * (k % 2 ^ 45) < r.1 + r.2
        then Line.absent else (s.core g.core).l1.read Line.absent k)

/-- ACQ and ACQA acquire the regions of their objects, or all memory, once every earlier load has returned; REL opens a
release for the lines of its objects; RELA ends when the accesses before it have finished (R219 to R221, R225). -/
def Sys2Proof.Claims.AcquiresReleases : Prop :=
  ∀ (s : State) (a : Operand) (sc : BitVec 2), s.issues →
    let g := s.begun.me
    (∀ ps, (orderPre g [srcN a 2]).Passes s.begun → s.begun.checkAddrs g false false 0 8 (g.pairTargets a) = .ok ps →
      (gateAccess g = .ok () → loadsReturned g = .ok () →
        Ends (.acq a sc) s (s.acquire s.me sc.toNat (ps.filterMap fun e => match e.2 with
          | .va x => some (s.regionOf s.me.asid x)
          | _ => none)) s.me .zero 0 noResult) ∧
      (faultedOps g = .ok () → exec (.rel a sc) s = .next ((((s.begun.openRelease sc.toNat (ps.map fun e => match e.2 with
        | .va x => (0, 0, x / 128)
        | .scratch t o => (1, t, o / 128)
        | .linear x => (2, 0, x / 128)).eraseDups).finish g [srcN a 2])).settle s.cur))) ∧
    ((orderPre g []).Passes s.begun →
      (gateAccess g = .ok () → loadsReturned g = .ok () →
        Ends (.acqa sc) s (s.acquire s.me sc.toNat allMemory) s.me .zero 0 noResult) ∧
      ∀ u, s.begun.releaseWait sc.toNat = .ok u → exec (.rela sc) s = .next (u.finish g []))

/-- ACQ, ACQA, REL and RELA, and what an acquire does (R219 to R221, R225). -/
def Obligations.AcquireRelease : Prop :=
  Claims.AcquireSweeps ∧ Claims.AcquiresReleases

/-- BIND and UNBIND at the home slice of an object word: BIND adds the binding of a region of 2^L bytes and answers 0, or
2 where one stands already, or 1 where the slice holds 16; UNBIND removes it and answers 0, or 2 where there is none. Both
count on the mem counter as they complete (R213, R214, R228). -/
def Obligations.ObjectBindings : Prop :=
  ∀ (s : State) (d a b : Operand) (x : Nat), s.issues → s.begun.bindObject a = .ok x →
    let g := s.begun.me
    let v := g.scalar64 b
    let l := v % 64
    let mine := fun (e : ObjBinding) => decide (e.asid = g.asid ∧ e.obj = x)
    let full := decide (16 ≤ (s.binds.filter fun e => s.homeSlice e.obj = s.homeSlice x).length)
    let u := s.countInstant s.me.pc
    let added := ({ s with binds := s.binds ++ [⟨g.asid, x, v - l, l⟩] } : State).countInstant s.me.pc
    let gone := ({ s with binds := s.binds.filter fun e => !mine e } : State).countInstant s.me.pc
    s.me.outstanding .mem < 4095 →
    ({ orderPre g [dst d, srcN a 2, srcN b 2] with
        operandOk := isS d && (isS a || isZero a) && (isS b || isZero b) }.Passes s.begun →
      7 ≤ l → l ≤ 40 → (v - l) % 2 ^ l = 0 → v - l < 2 ^ 52 →
      (s.binds.any mine = true → Ends (.bind d a b) s u u.me d 1 (sameResult 2#32)) ∧
      (s.binds.any mine = false → full = true → Ends (.bind d a b) s u u.me d 1 (sameResult 1#32)) ∧
      (s.binds.any mine = false → full = false →
        Ends (.bind d a b) s added added.me d 1 (sameResult 0#32))) ∧
    ({ orderPre g [dst d, srcN a 2] with operandOk := isS d && (isS a || isZero a) }.Passes s.begun →
      Ends (.unbind d a) s gone gone.me d 1
        (sameResult (if s.binds.any mine then 0#32 else 2#32)))

/-- WAITCNT ends when no more than n operations of its class are outstanding; FENCE when every operation that its scope
waits for has finished, and it moves the fence status to d and clears it; a recorded wait on a barrier ends as an acquire
when the barrier has moved on and the bundle still stands at it, and any other blocked bundle issues its wait again
(R229, R230, R234). -/
def Obligations.WaitsEnd : Prop :=
  (∀ (s : State) (c : BitVec 3) (n : BitVec 7), s.issues → (orderPre s.begun.me []).Passes s.begun →
    noImprecise s.begun.me (clsOf c.toNat) = .ok () → s.me.outstanding (clsOf c.toNat) ≤ n.toNat →
    Ends (.waitcnt c n) s s s.me .zero 0 noResult) ∧
  (∀ (s : State) (d : Operand) (sc : BitVec 2), s.issues →
    { orderPre s.begun.me [dst d] with operandOk := isReg d || isZero d }.Passes s.begun →
    let g := s.begun.me.drain
    faultedOps g = .ok () → noImprecise g .mat = .ok () → (g.ops.any fun o => g.fenceWaits sc.toNat o) = false →
    (sc = 3#2 → ∀ p ∈ g.parts, ∀ b, p.st ≠ .ext b) →
    Ends (.fence d sc) s s { g with fence := 0 } d 1 (sameResult (BitVec.ofNat 32 s.me.fence))) ∧
  ∀ (s : State) (k : Nat),
    ((s.group k).wait = none → exec (.waitEnd k) s = .next (s.setGroup k { s.group k with blocked := false })) ∧
    ∀ w, (s.group k).wait = some w →
      ((s.group k).waitHere w.kind w.idx = none →
        exec (.waitEnd k) s = .next (s.setGroup k { s.group k with blocked := false })) ∧
      ((s.group k).waitHere w.kind w.idx = some w → (s.group k).sched = .active → (s.group k).blocked = true →
      s.waitPhase (s.group k) w ≠ w.token → (∀ o ∈ (s.group k).ops, o.done = true ∨ o.returns = false) →
      let u := s.acquire (s.group k) w.scope allMemory
      exec (.waitEnd k) s = .next (u.setGroup k
        { ((u.group k).advance (s.group k).bundle).countRun (s.group k) false w.reads with
          wait := none, blocked := false, entered := false }))

/-- An arrival at a barrier: a count of 0 keeps the barrier's count, which must then be known, and another count must agree
with it; the last arrival opens the next phase; the token is the phase before (R233). -/
def Sys2Proof.Claims.BarrierArrival : Prop :=
  ∀ (b : Bar) (c : Nat),
    ((4095 < c ∨ (b.count = 0 ∧ c = 0) ∨ (c ≠ 0 ∧ b.count ≠ 0 ∧ c ≠ b.count)) →
      b.arrive c = .error (.trap (Trap.precise 0x0B (some (b.count % 4096 + 2 ^ 16 * (c % 4096)))))) ∧
    (¬(4095 < c ∨ (b.count = 0 ∧ c = 0) ∨ (c ≠ 0 ∧ b.count ≠ 0 ∧ c ≠ b.count)) →
      let n := if b.count = 0 then c else b.count
      (b.arrived + 1 = n → b.arrive c = .ok (⟨n, 0, (b.phase + 1) % 65536⟩, b.phase)) ∧
      (b.arrived + 1 ≠ n → b.arrive c = .ok (⟨n, b.arrived + 1, b.phase⟩, b.phase)))

/-- The barriers of a team and of a cluster: BINIT sets the count of one that nobody waits at, BARV arrives and gives the
token, BWAIT acquires once the phase has moved on, BSYNC and CBAR arrive and wait in one; the last arrival passes
without waiting, and one that has waited goes on when the phase has moved, without a second arrival. Stated behind a release that has ended (R231 to R235). -/
def Sys2Proof.Claims.Barriers : Prop :=
  ∀ (s s1 s2 : State) (a d : Operand) (n : BitVec 4) (x : Word), s.issues →
    let g := s.begun.me
    let pre := { orderPre g [src a] with operandOk := !isVec g a }
    let bar := fun (u : State) => u.bar s.me.team n.toNat
    (pre.Passes s.begun → scalarRead s.begun a = .ok (s1, x) → x.toNat ≤ 4095 →
      ((bar s1).arrived = 0 →
        Ends (.binit a n) s (s1.setBar s.me.team n.toNat { bar s1 with count := x.toNat }) s.me .zero 0 noResult) ∧
      ((bar s1).arrived ≠ 0 → x.toNat = (bar s1).count → Ends (.binit a n) s s1 s.me .zero 0 noResult)) ∧
    (∀ b t, { orderPre g [dst d, src a] with operandOk := (isReg d || isZero d) && !isVec g a }.Passes s.begun →
      s.begun.releaseWait 0 = .ok s1 → scalarRead s1 a = .ok (s2, x) → (bar s2).arrive x.toNat = .ok (b, t) →
      Ends (.barv d a n) s (s2.setBar s.me.team n.toNat b) s1.me d 1 (sameResult (BitVec.ofNat 32 t))) ∧
    (pre.Passes s.begun → scalarRead s.begun a = .ok (s1, x) → (bar s1).phase ≠ x.toNat % 65536 →
      loadsReturned g = .ok () → Ends (.bwait a n) s s1 s.me .zero 0 noResult) ∧
    (∀ b t, pre.Passes s.begun → g.waitHere 1 n.toNat = none → s.begun.releaseWait 0 = .ok s1 → scalarRead s1 a = .ok (s2, x) →
      (bar s2).arrive x.toNat = .ok (b, t) → b.phase ≠ t → loadsReturned s1.me = .ok () →
      Ends (.bsync a n) s (s2.setBar s.me.team n.toNat b) { s1.me with wait := none } .zero 0 noResult) ∧
    (∀ w, pre.Passes s.begun → g.waitHere 1 n.toNat = some w → s.waitPhase g w ≠ w.token → loadsReturned g = .ok () →
      Ends (.bsync a n) s s { s.me with wait := none } .zero 0 noResult) ∧
    (∀ w, pre.Passes s.begun → g.waitHere 2 0 = some w → s.waitPhase g w ≠ w.token → loadsReturned g = .ok () →
      Ends (.cbar a) s (s.acquire s.me 1 allMemory) { s.me with wait := none } .zero 0 noResult) ∧
    ∀ b t, pre.Passes s.begun → g.waitHere 2 0 = none → s.begun.releaseWait 1 = .ok s1 → scalarRead s1 a = .ok (s2, x) →
      let cl := s2.cluster s.me.clusterOf
      cl.bar.arrive x.toNat = .ok (b, t) → b.phase ≠ t → loadsReturned s1.me = .ok () →
      Ends (.cbar a) s ((s2.setCluster s.me.clusterOf { cl with bar := b }).acquire s.me 1 allMemory)
        { s1.me with wait := none } .zero 0 noResult

/-- Stage rings: SRPUT toggles the full bit of its slot and SRTAKE the empty bit; SRWAIT.full and SRWAIT.free end when the
slot's bit has the value that its lap asks for; no other slot changes (R236, R237). -/
def Sys2Proof.Claims.StageRings : Prop :=
  ∀ (s s1 s2 : State) (a : Operand) (r : BitVec 3) (n : Nat) (j : Word), s.issues →
    let g := s.begun.me
    { orderPre g [src a] with operandOk := !isVec g a }.Passes s.begun → s.begun.ringSlots g r.toNat = .ok n →
    let key := 32 * r.toNat + j.toNat % n
    (s.begun.releaseWait 0 = .ok s1 → scalarRead s1 a = .ok (s2, j) →
      let t := s2.team s.me.team
      Ends (.srput a r) s (s2.setTeam s.me.team { t with ringF := t.ringF.write false key (!t.ringF.read false key) }) s1.me
        .zero 0 noResult ∧
      Ends (.srtake a r) s (s2.setTeam s.me.team { t with ringE := t.ringE.write false key (!t.ringE.read false key) }) s1.me
        .zero 0 noResult) ∧
    (scalarRead s.begun a = .ok (s2, j) → loadsReturned g = .ok () →
      let t := s2.team s.me.team
      let lap := j.toNat / n % 2
      (b2n (t.ringF.read false key) = (lap + 1) % 2 → Ends (.srwaitFull a r) s s2 s.me .zero 0 noResult) ∧
      (b2n (t.ringE.read false key) = lap → Ends (.srwaitFree a r) s s2 s.me .zero 0 noResult))

/-- Barriers and stage rings (R231 to R237). -/
def Obligations.BarriersAndRings : Prop :=
  Claims.BarrierArrival ∧ Claims.Barriers ∧ Claims.StageRings

-- Atomics and trees -------------------------------------------------------------------------------------------------------

/-- An atomic or a reduction issues: a release order ends its wait first, the buffer lines that it overlaps drain, each
lane has its access with its operands, a scratch atomic is performed at once in lane order, and the operation is
outstanding; one with a result in fewer than 32 lanes reads the old lines of its destination first (R97). Stated for addresses
that pass their checks and with room for the request (R198, R219, R242, R243, R245). That a scratch atomic waits at issue behind
an open release is the model's choice (log 20). -/
def Sys2Proof.Claims.AtomicsIssue : Prop :=
  ∀ (i : Instr) (r : AtomSpec) (s s1 v s2 : State) (g1 : Group) (ps : List (Nat × Place)) (xs : List (List Nat)),
    atomSpec i = some r → s.issues → (r.pre s.begun.me).Passes s.begun → gateAccess s.begun.me = .ok () →
    (r.order % 2 = 1 → faultedOps s.begun.me = .ok ()) →
    (if 2 ≤ r.order then s.begun.releaseWait r.scope else .ok s.begun) = .ok s1 →
    let g := s.begun.me
    let ts := r.lanesAt g
    let now := ts.isEmpty && decide (r.order % 2 = 1)
    (now = true → loadsReturned g = .ok ()) →
    let u := if now then s1.acquire g r.scope allMemory else s1
    u.checkAddrs g false true (if r.inScratch then 2 else 1) r.k.width ts = .ok ps →
    (if r.isRed then .ok u else u.mergeDst (dstN r.d r.res) ts.length) = .ok v →
    (r.inScratch = true → v.me.relHolds (ps.map (·.2)) = false ∧ v.me.scratchOpen (ps.map (·.2)) = false) →
    (if r.isRed then v.tableRoom v.me false = true ∧ v.me.outstanding .red < 4095 else v.requestRoom v.me true = true) →
    drainOver v.me (if r.inScratch then [] else (ts.map fun t => t.2 / 128).eraseDups) = some g1 →
    let lanes := if isV r.a then s.me.bundle else s.me.bundle.take 1
    readWides (v.setMe g1) lanes (v.setMe g1) [(r.d, r.words)] = .ok (s2, xs) →
    let accs := r.accs ts lanes xs
    let done := if r.inScratch then s2.scratchAtomic r.k ((accs.zip ps).filterMap fun e => match e.2.2 with
        | .scratch t o => some (e.1, t, o)
        | _ => none) else (s2, accs)
    let op : Op := { Op.base done.1.me.seq (if r.isRed then .red else .mem) r.k s.me.pc with
      accs := done.2, dst := if r.isRed then .none else done.1.me.dstOf r.d r.res, code := (encodeOperand r.d).toNat
      scope := r.scope, order := r.order, done := r.isRed && ts.isEmpty }
    exec i s = .next (((done.1.setMe { done.1.me with ops := done.1.me.ops ++ [op], seq := done.1.me.seq + 1 }).finish g
      r.uses).settle done.1.cur)

/-- What an atomic writes, from the old value o and the operand v: sum, signed and unsigned minimum and maximum, and, or,
exclusive or, exchange, increment with wrap, decrement with wrap, and the sum of RED.add64; the floating-point sum of two f32
values, their minimum and maximum number, and the sums of two packed bf16 values, rounded to the nearest even (R244); a CAS writes
its new value where the old bytes equal its compare value, and nothing elsewhere (R246). -/
def Obligations.AtomicValues : Prop :=
  (∀ (w : Nat) (o v : BitVec (8 * w)), 0 < w →
    atomicOp 0 w o.toNat v.toNat = (o + v).toNat ∧
    atomicOp 1 w o.toNat v.toNat = (if o.toInt ≤ v.toInt then o else v).toNat ∧
    atomicOp 2 w o.toNat v.toNat = (if o.toInt ≤ v.toInt then v else o).toNat ∧
    atomicOp 3 w o.toNat v.toNat = (if o ≤ v then o else v).toNat ∧
    atomicOp 4 w o.toNat v.toNat = (if o ≤ v then v else o).toNat ∧
    atomicOp 5 w o.toNat v.toNat = (o &&& v).toNat ∧ atomicOp 6 w o.toNat v.toNat = (o ||| v).toNat ∧
    atomicOp 7 w o.toNat v.toNat = (o ^^^ v).toNat ∧ atomicOp 8 w o.toNat v.toNat = v.toNat ∧
    atomicOp 9 w o.toNat v.toNat = (if v ≤ o then 0 else o + 1).toNat ∧
    atomicOp 10 w o.toNat v.toNat = (if o = 0 ∨ v < o then v else o - 1).toNat ∧
    atomicOp 15 w o.toNat v.toNat = (o + v).toNat) ∧
  (∀ x y : Word,
    let f := fpFormat 0
    let h := fpFormat 2
    let sum := fun (e : Nat) => h.round 0 0 (Val.add false (h.decode (x.toNat / e % 65536)) (h.decode (y.toNat / e % 65536)))
    let nan := fun (z : Word) => (f32Val z).isNan = true
    atomicOp 11 4 x.toNat y.toNat = (BitVec.ofNat 32 (f.round 0 0 (Val.add false (f32Val x) (f32Val y))) : Word).toNat ∧
    (nan x ∨ nan y → atomicOp 11 4 x.toNat y.toNat = 0x7FC00000) ∧
    atomicOp 14 4 x.toNat y.toNat = (BitVec.ofNat 32 (sum 1 + 65536 * sum 65536) : Word).toNat ∧
    (nan x → nan y → atomicOp 12 4 x.toNat y.toNat = 0x7FC00000 ∧ atomicOp 13 4 x.toNat y.toNat = 0x7FC00000) ∧
    (nan x → ¬nan y → atomicOp 12 4 x.toNat y.toNat = y.toNat ∧ atomicOp 13 4 x.toNat y.toNat = y.toNat) ∧
    (¬nan x → nan y → atomicOp 12 4 x.toNat y.toNat = x.toNat ∧ atomicOp 13 4 x.toNat y.toNat = x.toNat) ∧
    ∀ c, (f32Val x).cmp (f32Val y) = some c →
      (c < 0 → atomicOp 12 4 x.toNat y.toNat = x.toNat ∧ atomicOp 13 4 x.toNat y.toNat = y.toNat) ∧
      (0 < c → atomicOp 12 4 x.toNat y.toNat = y.toNat ∧ atomicOp 13 4 x.toNat y.toNat = x.toNat) ∧
      (c = 0 → x.msb = true → y.msb = false →
        atomicOp 12 4 x.toNat y.toNat = x.toNat ∧ atomicOp 13 4 x.toNat y.toNat = y.toNat) ∧
      (c = 0 → x.msb = false → y.msb = true →
        atomicOp 12 4 x.toNat y.toNat = y.toNat ∧ atomicOp 13 4 x.toNat y.toNat = x.toNat)) ∧
  (∀ (op w : Nat) (a : Acc) (old : Bytes),
    let new := leBytes w (atomicOp op w (leNat old) (leNat a.op1))
    (OpKind.atom op w).apply a old = some new ∧ (a.origins = [] → (OpKind.red op w).apply a old = some new)) ∧
  ∀ (w : Nat) (a : Acc) (old : Bytes),
    (leNat old = leNat a.op1 → (OpKind.cas w).apply a old = some (leBytes w (leNat a.op2))) ∧
    (leNat old ≠ leNat a.op1 → (OpKind.cas w).apply a old = none)

/-- At the home slice the lanes of an atomic at one line are performed together: the L2 line takes what they write, and
each lane of an operation with a result has the old value (R239, R245); the access is one without a retention, so it ends the
preference of the line's block (R183). A RED that its router holds goes on when the hold ends; two of one word and operation whose
paths meet at a router that combines become one request, which carries both (R250, R253). The path of a request, and the routers
at which two merge, are the model's choice (log 138). -/
def Sys2Proof.Claims.AtomicsPerform : Prop :=
  (∀ (s s' : State) (k seq line : Nat) (o : Op) (l : Line), (s.group k).op seq = some o → o.isAtomic = true → o.done = false →
    let g := s.group k
    let here := fun (a : Acc) => decide (a.addr / 128 = line) && a.unperformed
    let mine := o.accs.filter here
    mine ≠ [] → (∀ a ∈ mine, a.st ≠ .held ∧ a.origins = []) → g.mayPerform o line = true → g.mayRedo seq = true →
    s.tstBefore k seq line = false → s.rehashHolds g.core (128 * line) (some (k, seq)) = false →
    s.locked (lineKey g.asid line) = false → g.redBehind o line mine = none →
    s.homePath g.core (128 * line) = true → s.fetch g.asid line true false g.priv 0 = .line s' l → l.poison = false →
    s'.regionHolds g.asid line = false →
    ∃ t, exec (.atomicPerform k seq line) s = .next t ∧
      ((s.l2Line (lineKey g.asid line)).present = true ∨ s.setFull (lineKey g.asid line) = false →
        t.l2Line (lineKey g.asid line) = (performLanes o.kind l mine).1) ∧
      ((s.l2Line (lineKey g.asid line)).present = true → t.mem = s.mem ∧
        ∀ j, j ≠ lineKey g.asid line → { t.l2Line j with ret := 0 } = { s.l2Line j with ret := 0 }) ∧
      (∀ j, j ≠ k → t.group j = s.group j) ∧
      ((∀ op w, o.kind ≠ .red op w) → ∀ o', (t.group k).op seq = some o' →
        ∀ (n : Nat) (a : Acc), o.accs[n]? = some a → here a = true →
        ∃ b : Acc, o'.accs[n]? = some b ∧ b.lane = a.lane ∧ b.st = .got ∧
          some b.data = ((performLanes o.kind l mine).2.find? fun e => e.1 = a.lane).map (·.2))) ∧
  (∀ (s : State) (k seq : Nat) (o : Op), (s.group k).op seq = some o → o.mergeable = true →
    exec (.redHoldExpiry k seq) s = .next (s.setGroup k ((s.group k).setOp seq fun o =>
      { o with accs := o.accs.map fun a => if a.st = .wait then { a with st := .walk } else a }))) ∧
  ∀ (s : State) (k k2 seq seq2 op w : Nat) (o o2 : Op) (a b : Acc), (k, seq) ≠ (k2, seq2) → (s.group k).op seq = some o →
    (s.group k2).op seq2 = some o2 → o.kind = .red op w → o2.kind = o.kind → o.accs = [a] → o2.accs = [b] →
    a.addr = b.addr → a.st = .wait → b.st = .wait → a.origins = [] → b.origins = [] →
    o.mergeable = true → o2.mergeable = true → (s.group k).asid = (s.group k2).asid → o.scope = o2.scope →
    s.combines (s.group k).core (s.group k2).core a.addr = true →
    (let both := [(k, seq, a.lane), (k2, seq2, b.lane)]
     ((s.group k).without k both).mayPerform o (a.addr / 128) = true ∧
      ((s.group k2).without k2 both).mayPerform o2 (a.addr / 128) = true) →
    ∃ t, exec (.redCombine k seq k2 seq2) s = .next t ∧ t.mem = s.mem ∧ t.l2 = s.l2 ∧
      (t.group k).op seq = some { o with accs := [{ a with
        op2 := leBytes w (atomicOp op w (leNat a.op1) (leNat b.op1))
        origins := [(k, seq, a.lane), (k2, seq2, b.lane)] }] } ∧
      (t.group k2).op seq2 = some { o2 with accs := [{ b with st := .merged, origins := [] }] }

/-- Atomics and reductions, at issue and at the home slice (R198, R219, R239, R243, R245, R250). -/
def Obligations.Atomics : Prop :=
  Claims.AtomicsIssue ∧ Claims.AtomicsPerform

/-- Reduction trees. TRED sends a node its lanes 0 to E − 1, answers the round and counts until they arrive; TRWAIT gives every lane of d its element
of the round's result, 0 beyond E; TRDEF defines a tree from its descriptor, unless a round is open; TRSTAT reports; a
node that holds its inputs folds them, its own first, then its children's in ascending order, and the root's value ends
the round; a time-out halts the round (R256 to R263). -/
def Obligations.TreeInstructions : Prop :=
  (∀ (s s1 : State) (d a b : Operand) (x : Word) (t : Tree), s.issues →
    { orderPre s.begun.me [dst d, src a, src b] with
      operandOk := (isReg d || isZero d) && (isReg a || isZero a) && !isVec s.begun.me b }.Passes s.begun →
    scalarRead s.begun b = .ok (s1, x) → s1.treeCheck x true = .ok t → t.st ≠ 3 →
    t.given (nodeNo x) = false → s.me.outstanding .red < 4095 →
    let vals := (List.range (t.e1 + 1)).map fun l => s.begun.me.wordAt a 0 l
    Ends (.tred d a b) s
      (s1.setTree (treeNo x) { t with st := 2, sent := t.sent ++ [(nodeNo x, s.cur, s.me.seq)] })
      { s.me with
        ops := s.me.ops ++ [Op.base s.me.seq .red (.tred (treeNo x) (nodeNo x) vals) s.me.pc], seq := s.me.seq + 1 }
      d 1 (sameResult (BitVec.ofNat 32 t.round))) ∧
  (∀ (s : State) (k seq n i : Nat) (vals : List Word) (o : Op), (s.group k).op seq = some o → o.kind = .tred n i vals →
    o.done = false → (s.tree n).st = 2 → (i, k, seq) ∈ (s.tree n).sent →
    let t := s.tree n
    let u := s.setTree n { t with contrib := t.contrib.put i vals, sent := t.sent.filter (· ≠ (i, k, seq)) }
    execTredArrival k seq s = .next ((u.setGroup k ((s.group k).setOp seq fun o =>
      { o with done := true, failed := false })).settle k)) ∧
  (∀ (s s1 s2 : State) (m : BitVec 6) (a b : Operand) (tok x : Word) (t : Tree) (v : Nat × List Word), s.issues →
    { orderPre s.begun.me [dst (.v m), src a, src b] with
      operandOk := !isVec s.begun.me a && !isVec s.begun.me b, whole := true }.Passes s.begun →
    scalarRead s.begun a = .ok (s1, tok) → scalarRead s1 b = .ok (s2, x) → s2.treeCheck x true = .ok t →
    (t.results.find? fun r => r.1 = tok.toNat) = some v →
    ∃ u, exec (.trwait (.v m) a b) s = .next u ∧ OnlyMe s2 u ∧ OnlyRegs s.me u.me ∧ Advanced s.me u.me ∧
      SameMasks s.me u.me ∧ (∀ r, u.me.sreg r = s.me.sreg r) ∧
      ∀ r l, l < 32 → u.me.vreg r l = if r = s.me.wb + m.toNat then (if l ≤ t.e1 then v.2.getD l 0#32 else 0#32)
        else s.me.vreg r l) ∧
  (∀ (s s1 s2 s3 u : State) (d a b : Operand) (x : Word) (hb nb : Bytes) (ps : List (Nat × Place)), s.issues →
    let g := s.begun.me
    { orderPre g [dst d, srcN a 2, src b] with operandOk := isS d && !isV a && !isVec g b, privOk := g.priv }.Passes s.begun →
    scalarRead s.begun b = .ok (s1, x) → gateAccess g = .ok () →
    let va := g.scalar64 a
    s1.checkAddrs g false false 1 8 [(g.first, va)] = .ok ps → s1.readOwn va 8 = .ok (s2, hb) →
    let h := leNat hb
    let m := bitsOf h 0 7
    1 ≤ m → m ≤ 64 → s2.readOwn (va + 8) (4 * m) = .ok (s3, nb) →
    let ns := nodesOf nb m
    let t := s3.tree (treeNo x)
    let st : Nat := if !s3.treeOk h ns then 2 else if t.st = 2 then 1 else 0
    let v := if st = 0 then s3.setTree (treeNo x) { Tree.init with
        st := 1, op := bitsOf h 8 3, e1 := bitsOf h 12 5, asid := bitsOf h 32 16, tmo := bitsOf h 48 16
        nodes := ns.map fun n => ⟨bitsOf n 0 9, bitsOf n 9 6, bitOf n 15⟩, err := t.err } else s3
    v.writeResult d [g.first] [BitVec.ofNat 32 st] = .ok u →
    exec (.trdef d a b) s = .next (u.finish g [dst d, srcN a 2, src b])) ∧
  (∀ (s s1 : State) (d a : Operand) (n : BitVec 2) (x : Word) (t : Tree), s.issues →
    { orderPre s.begun.me [dstN d 2, src a] with
      legal := n.toNat ≠ 3, operandOk := !isV d && !isVec s.begun.me a }.Passes s.begun →
    scalarRead s.begun a = .ok (s1, x) → s1.treeCheck x false = .ok t →
    let v := if n = 0#2 then t.st + 2 ^ 16 * t.round + 2 ^ 32 * t.op + 2 ^ 40 * t.e1 + 2 ^ 48 * t.nodes.length
      else if n = 1#2 then (if t.st = 3 then t.missing else 0)
      else if t.st = 2 then bitmap t.nodes.length fun i => (t.contrib.find? fun e => e.1 = i).isSome else 0
    Ends (.trstat d a n) s s1 s.me d 2 fun k _ => wordOf v k) ∧
  (∀ (s : State) (n i : Nat) (xs : List (List Word)), (s.tree n).st = 2 → i < (s.tree n).nodes.length →
    ((s.tree n).folded.find? fun e => e.1 = i) = none → (s.tree n).inputs i = some xs → (s.tree n).err.read 0 i < 2 →
    let t := s.tree n
    let v := match xs.filter fun x => !x.isEmpty with
      | [] => []
      | x :: r => r.foldl (fun acc y => (acc.zip y).map fun e => treeOp t.op e.1 e.2) x
    exec (.treeNodeFold n i) s = .next (s.setTree n (if i = 0 then { t with
        st := 1, results := (t.round, v) :: t.results.take 1, round := (t.round + 1) % 65536
        contrib := [], folded := [], sent := [], err := t.err.erase i }
      else { t with folded := t.folded.put i v, err := t.err.erase i }))) ∧
  ∀ (s : State) (n : Nat), (s.tree n).st = 2 → exec (.treeTimeout n) s = .next (s.setTree n { s.tree n with
    st := 3, failed := (s.tree n).round
    missing := bitmap (s.tree n).nodes.length fun i =>
      ((s.tree n).node i).c && ((s.tree n).contrib.find? fun e => e.1 = i).isNone })

-- Regions ---------------------------------------------------------------------------------------------------------------

/-- The instructions of atomic regions. XOPEN counts a nested region, or opens one: a free slot is taken, the group holds its
checkpoint, which goes to its frame, and the status is 0; where regions are off, or the serial token of the address space is held,
it takes the token, as XSERIAL does, and then a slot, and it waits while another group holds the token. XCLOSE counts down, gives
token and slot back, or ends behind the commit of its region; XQUIT aborts with its reason; XSTAT and XDEPS give their words
(R265, R282 to R286, R288). The model's choice: which slot (log 25), when a checkpoint's lines reach the frame (log 126), and
when a serial region takes its slot (log 129). -/
def Obligations.RegionInstructions : Prop :=
  ∀ s : State, s.issues →
    let g := s.begun.me
    let serial := if s.batten.serial.any fun e => e.2 = s.cur then s.batten.serial
      else s.batten.serial ++ [(s.me.asid, s.cur)]
    let tokenFree := (s.batten.serial.all fun e => e.1 ≠ s.me.asid ∨ e.2 = s.cur) = true ∧
      (s.batten.list.any fun e => decide (e.2.asid = s.me.asid ∧ e.2.st ≠ .aborting)) = false
    let taken := fun (serial : List (Nat × Nat)) (x : Nat) => { s with free := s.free + 1, batten := { s.batten with
      serial := serial, slots := s.batten.slots.put x (some ⟨s.cur, s.me.asid, .opened, s.batten.nextBegin, [], 1, [], []⟩)
      nextBegin := s.batten.nextBegin + 1 } }
    let serialEnds := fun (i : Instr) (d : Operand) (h : Group) => tokenFree → s.batten.freeSlots ≠ [] →
      ∃ x, x ∈ s.batten.freeSlots ∧
        Ends i s (taken serial x) { h with reg := { h.reg with serial := true, nest := 1, slot := x } } d 1 (sameResult 0#32)
    (∀ n, { controlPre g [dst (.s n)] with operandOk := isS (.s n), bundleOk := g.whole }.Passes s.begun → g.rgn = true →
      (0 < s.me.reg.nest → s.me.reg.nest < 15 →
        Ends (.xopen (.s n)) s s { s.me with reg := { s.me.reg with nest := s.me.reg.nest + 1 } } (.s n) 1
          (sameResult 0#32)) ∧
      (s.me.reg.nest = 0 → s.me.reg.serial = true → serialEnds (.xopen (.s n)) (.s n) s.me) ∧
      ∀ s1, s.me.reg.nest = 0 → s.me.reg.serial = false → s.begun.waitAsSdrain = .ok s1 → loadsReturned s1.me = .ok () →
        (bitOf (s.sysv 0x560) 0 = true → (s.batten.serial.any fun e => e.1 = s.me.asid) = false →
          s.batten.freeSlots ≠ [] →
          ∃ x t, x ∈ s.batten.freeSlots ∧ exec (.xopen (.s n)) s = .next (t.writeCkpt s.cur) ∧
            OnlyMe (taken s.batten.serial x) t ∧ OnlyRegs { s1.me with
              ops := s1.me.ops ++ [Op.base s1.me.seq .region .region g.pc], seq := s1.me.seq + 1
              reg := { s1.me.reg with
                nest := 1, serial := false, slot := x, xpc := g.pc, xd := n.toNat, ckpt := some g.checkpoint } } t.me ∧
            Delivered s.me t.me (.s n) 1 (sameResult 0#32) ∧ Advanced s.me t.me ∧ SameMasks s.me t.me) ∧
        (bitOf (s.sysv 0x560) 0 = false ∨ (s.batten.serial.any fun e => e.1 = s.me.asid) = true →
          serialEnds (.xopen (.s n)) (.s n) s1.me ∧
          ((s.batten.serial.any fun e => decide (e.1 = s.me.asid ∧ e.2 ≠ s.cur)) = true →
            ∃ t, exec (.xopen (.s n)) s = .next t ∧ OnlyMe s t ∧ t.me.blocked = true ∧
              t.me.reg = { s.me.reg with serial := true } ∧ (∀ l, t.me.lane l = s.me.lane l) ∧
              ∀ r, t.me.sreg r = s.me.sreg r))) ∧
    ({ controlPre g [] with bundleOk := g.whole }.Passes s.begun → g.rgn = true → s.me.reg.nest = 0 →
      (s.me.reg.serial = true → serialEnds .xserial .zero s.me) ∧
      ∀ s1, s.me.reg.serial = false → s.begun.waitAsSdrain = .ok s1 → loadsReturned s1.me = .ok () →
        serialEnds .xserial .zero s1.me) ∧
    ({ controlPre g [] with bundleOk := g.whole }.Passes s.begun →
      (1 < s.me.reg.nest →
        Ends .xclose s s { s.me with reg := { s.me.reg with nest := s.me.reg.nest - 1 } } .zero 0 noResult) ∧
      (∀ s1, s.me.reg.nest = 1 → s.me.reg.serial = true → s.begun.waitAsSdrain = .ok s1 →
        Ends .xclose s ((s.dropSerial s.cur).releaseSerial s.cur)
          { s1.me with reg := { s1.me.reg with nest := 0, serial := false, slot := 0, code := 2, qcode := 0 } } .zero 0
          noResult) ∧
      (s.me.reg.nest = 1 → s.me.reg.serial = false → s.me.reg.slot = 256 →
        Ends .xclose s s { s.me with reg := { s.me.reg with nest := 0, slot := 0 } } .zero 0 noResult)) ∧
    (∀ a s1 q, { controlPre g [src a] with operandOk := !isVec g a }.Passes s.begun → 0 < s.me.reg.nest →
      s.me.reg.serial = false → scalarRead s.begun a = .ok (s1, q) →
      exec (.xquit a) s = .next ((s1.finish g [src a]).abortRegion s.me.reg.slot 0x14 (q.toNat % 256) true)) ∧
    ∀ d, { controlPre g [dstN d 2] with operandOk := !isV d }.Passes s.begun →
      Ends (.xstat d) s s s.me d 2 (fun i _ => wordOf (s.regionStat s.me) i) ∧
      ∀ n, Ends (.xdeps d n) s s s.me d 2 fun i _ => wordOf (s.regionDeps s.me n.toNat) i

/-- The steps of the batten. A store access enters its edges and goes to merge; a load access enters its edges, sources and
signature and takes the committed bytes overlaid with every version, or waits beyond depth 8; an access that would close a
cycle aborts the region that began last, and where that is another one goes on once no cycle is left, unless it has fallen with
it; a merge adds to its region's version of the line, in a way of its set, or aborts where no place is left (R267, R270 to R275).
The model's choice: the status where both limits are met, and that a version waits for a way (log 150); how a region store and
other accesses meet on a line (log 124), and that a load waits for the depth of another (log 125). -/
def Sys2Proof.Claims.RegionAccesses : Prop :=
  ∀ (s : State) (k seq line : Nat) (o : Op) (x : Nat) (r : RSlot), s.regionAccess k seq = some (o, x, r) →
    let g := s.group k
    let key := lineKey g.asid line
    let ys := s.batten.writers x key
    let deep := s.batten.depthOf (r.flow ++ ys).eraseDups
    (o.accessAt line .batten = true → g.regionBefore seq line = false → s.lineTaken k g.asid line o.isStore = false →
      (∀ v ys, ys = s.batten.writers x key ++ (if o.isStore then s.batten.readers x g.asid line else []) →
        s.batten.cycle x ys ≠ [] → s.batten.latest (s.batten.cycle x ys) = some v → v = x →
        exec (.regionAccessAtBatten k seq line) s = .next (s.abortRegion x 0x10 0 true)) ∧
      (let meets := fun (u : State) => u.batten.writers x key ++ (if o.isStore then u.batten.readers x g.asid line else [])
        ∀ v r', s.batten.cycle x (meets s) ≠ [] → s.batten.latest (s.batten.cycle x (meets s)) = some v → v ≠ x →
          let u := s.abortRegion v 0x10 0 true
          u.rslot x = some r' →
          (r'.st = .aborting → exec (.regionAccessAtBatten k seq line) s = .next u) ∧
          (r'.st ≠ .aborting → u.batten.cycle x (meets u) = [] →
            exec (.regionAccessAtBatten k seq line) s = exec (.regionAccessAtBatten k seq line) u)) ∧
      (o.isStore = true → s.batten.cycle x (ys ++ s.batten.readers x g.asid line) = [] →
        exec (.regionAccessAtBatten k seq line) s = .next ({ s with batten := { s.batten with
          edges := (s.batten.edges ++ (ys ++ s.batten.readers x g.asid line).map fun y => (y, x)).eraseDups } }.moveLine k seq
            line .batten .merge)) ∧
      (o.isStore = false → s.batten.cycle x ys = [] →
        (8 < deep → exec (.regionAccessAtBatten k seq line) s = .next (s.moveLine k seq line .batten .depth)) ∧
        ∀ w sg, deep ≤ 8 → (s.l2Line key).present = true → (s.l2Line key).poison = false → o.kind = .load w sg →
          let u : State := { s with batten := { s.batten with
            edges := (s.batten.edges ++ ys.map fun y => (y, x)).eraseDups } }
          let u := u.setRslot x (some { r with
            depth := deep, flow := (r.flow ++ ys).eraseDups, sig := (r.sig ++ signature g.asid line).eraseDups })
          exec (.regionAccessAtBatten k seq line) s = .next ((u.setGroup k (g.setOp seq fun o => o.mapAccs
            (fun a => decide (a.addr / 128 = line) && decide (a.st = .batten)) fun a => { a with
              st := .got, data := a.merge w fun i => s.overlaid key (s.l2Line key) (a.addr % 128 + i) })).settle k))) ∧
    (o.accessAt line .depth = true → deep ≤ 8 →
      exec (.depthWaitEnd k seq line) s = .next (s.moveLine k seq line .depth .batten)) ∧
    (o.accessAt line .merge = true →
      let mine := fun (v : Version) => decide (v.key = key) && decide (v.slot = x)
      let old := (s.batten.versions.find? mine).map (·.bytes)
      (old = none → r.wset.contains key = false → 512 ≤ r.wset.length →
        exec (.regionStoreMerge k seq line) s = .next (s.abortRegion x 0x12 0 true)) ∧
      (old = none → (r.wset.contains key = true ∨ r.wset.length < 512) → s.vways ≤ s.versionWays key →
        exec (.regionStoreMerge k seq line) s = .next (s.abortRegion x 0x13 0 true)) ∧
      ((old ≠ none ∨ ((r.wset.contains key = true ∨ r.wset.length < 512) ∧ s.versionWays key < s.vways)) →
        let here := fun (a : Acc) => decide (a.addr / 128 = line) && decide (a.st = .merge)
        let bytes := (o.accs.filter here).foldl (fun t a => putBytes t (a.addr % 128) a.op1) (old.getD [])
        let u := if old = none then s.makeRoom key none else s
        (old = none → u.setFull key = true → exec (.regionStoreMerge k seq line) s = .next u) ∧
        ((old = none → u.setFull key = false) →
        let u : State := { u with batten := { s.batten with
          versions := (s.batten.versions.filter fun v => !mine v) ++ [⟨x, key, bytes⟩] } }
        exec (.regionStoreMerge k seq line) s =
          .next ((((u.setRslot x (some { r with wset := (r.wset ++ [key]).eraseDups })).setGroup k ((u.group k).setOp seq fun o =>
            let o := o.mapAccs here fun a => { a with st := AccSt.got }
            { o with done := o.accs.all fun a => decide (a.st = AccSt.got) }))).settle k))))

/-- How a region ends. A commit locks the region's lines, then merges every version into its committed line, takes the
region out of the batten and tells its group 1. An abort takes the region's versions, edges and signature at once, and every
dependant aborts with it; the slot is free when no request of the region is in flight. The group of an aborted region, when
it next issues, is back at its checkpoint behind the XOPEN, with the status in d (R265, R276, R278, R279, R284). -/
def Sys2Proof.Claims.RegionEnds : Prop :=
  (∀ (s : State) (x : Nat) (r : RSlot), s.rslot x = some r → s.commits x r = true →
    (r.st = .requesting → exec (.regionCommit x) s = .next (s.setRslot x (some { r with st := .committing }))) ∧
    (r.st = .committing →
      let core := (s.group r.g).core
      let u := ((s.batten.versions.filter fun v => v.slot = x).foldl (fun u v =>
        (u.commitLine v.key v.bytes (u.l2Line v.key).ret).updateL1 core v.key v.bytes) s).dropRegion x
      let g := u.group r.g
      exec (.regionCommit x) s = .next ((u.setGroup r.g { g with
        reg := { g.reg with code := 1, qcode := 0, slot := 256, ckpt := none }, blocked := false
        ops := g.ops.map fun o => if o.kind = .region then { o with done := true } else o }).settle r.g))) ∧
  (∀ (s : State) (x : Nat) (r : RSlot), s.rslot x = some r → r.st = .aborting → s.regionFlies x r = false →
    exec (.regionAbort x 0x11) s = .next (s.dropRegion x)) ∧
  (∀ (s : State) (x code q : Nat) (r : RSlot), s.rslot x = some r → s.batten.slots.length ≤ 256 →
    let t := s.abortRegion x code q true
    (∃ r', t.rslot x = some r' ∧ r'.st = .aborting ∧ r'.sig = [] ∧ r'.wset = []) ∧
    (∀ v ∈ t.batten.versions, v.slot ≠ x) ∧ (∀ e ∈ t.batten.edges, e.1 ≠ x ∧ e.2 ≠ x) ∧ t.mem = s.mem ∧ t.l2 = s.l2 ∧
    (s.batten.dependants x = [] → (t.group r.g).reg.abortPending = some (code, q)) ∧
    ∀ y d, y ≠ x → s.rslot y = some d → d.flow.contains x = true →
      (∃ d', t.rslot y = some d' ∧ d'.st = .aborting) ∧ (d.st ≠ .aborting → ∀ v ∈ t.batten.versions, v.slot ≠ y)) ∧
  ∀ (s : State) (k code q : Nat) (c : Ckpt), (s.group k).reg.abortPending = some (code, q) → (s.group k).reg.ckpt = some c →
    (s.group k).sched = .active →
    let h := (s.group k).leaveRegion c code q
    exec (.regionAbortDelivery k) s = .next ((s.setGroup k h).settle k) ∧
    h.sreg (s.group k).reg.xd = BitVec.ofNat 32 (code + 256 * q) ∧ h.p = c.p ∧ h.h = c.h ∧ h.reg.nest = 0 ∧ h.reg.code = code ∧
    h.reg.qcode = q ∧ h.reg.ckpt = none ∧ h.reg.abortPending = none ∧
    (∀ n, n < 2000 → c.absent.contains n = false → (n ∈ h.poison ↔ n ∈ c.poison)) ∧
    ∀ x ∈ c.lanes, x.st = .live → { x with pc := (s.group k).reg.xpc + 4#64 } ∈ h.lanes

/-- Atomic regions at the batten: accesses, capacity, commit and abort (R270 to R276, R278, R279, R284). -/
def Obligations.Regions : Prop :=
  Claims.RegionAccesses ∧ Claims.RegionEnds

-- The array -------------------------------------------------------------------------------------------------------------

/-- A matrix instruction enters its core's array queue: the entry stands last, its operation is outstanding, and the lanes
have gone on. -/
def Enqueued (i : Instr) (s s1 : State) (us : List Use) (kind : ArrKind) (d : Dst) (code : Nat) : Prop :=
  let g := s1.me
  let c := s1.core g.core
  exec i s = .next (((s1.setCore g.core { c with arr := c.arr ++ [⟨s1.cur, g.seq, g.team, kind, s.begun.me.pc⟩] }).setMe
    { g with
      ops := g.ops ++ [{ Op.base g.seq .mat (.matrix kind.isFill) s.begun.me.pc with dst := d, code := code }]
      seq := g.seq + 1 }).finish s.begun.me us)

/-- The array queue has room for one more entry of the group in hand. -/
def ArrayRoom (s : State) (fill : Bool) : Prop :=
  (s.core s.me.core).queued < 16 ∧ s.me.outstanding .mat < 4095 ∧ (fill = true → s.requestRoom s.me true = true)

/-- A fill or a TST has let the buffer lines drain that it reads or writes (R151, R198). -/
def DrainedFor (s : State) (kind : ArrKind) (u : State) : Prop :=
  ∃ g, drainOver s.me ((s.me.wcb.map (·.line)).filter fun l => kind.readsLine l || kind.tstLine l) = some g ∧ u = s.setMe g

/-- Matrix instructions at issue. TCLAIM gives a team the units of its names, or 0 and nothing; TREL takes the names and
enqueues their release; TSTAT gives its word once the team's entries before it have completed; every other one enters the
array queue with the units that its names stand for (R142, R143, R147 to R160, R162, R165). The model's choice: the ignored bits of
TCLAIM's d (log 102), and which entries TSTAT waits for (log 132). -/
def Obligations.MatrixInstructions : Prop :=
  ∀ s s1 : State, s.issues →
    let g := s.begun.me
    noImprecise g .mat = .ok () →
    let tm := s1.team s1.me.team
    let c := s1.core s1.me.core
    (∀ d a k m u, (matrixPre g [dst d, src a] (roleMatrix g) (isS d && !isVec g a) 0).Passes s.begun →
      scalarRead s.begun a = .ok (s1, m) →
      let ns := namesOf (if k then 8 else 32) m
      let ok := !ns.isEmpty && (ns.all fun n => if k then (tm.tile n).isNone else (tm.slot n).isNone) &&
        decide (ns.length ≤ (if k then c.freeTiles.length else c.freeSlots.length))
      (if !ok then s1 else if k then s1.claimTiles s1.me ns else s1.claimSlots s1.me ns).writeResult d [g.first]
        [if ok then maskOfLanes ns else 0#32] = .ok u →
      exec (.tclaim d a k) s = .next (u.finish g [dst d, src a])) ∧
    (∀ a k m, (matrixPre g [src a] (roleMatrix g) (!isVec g a) 0).Passes s.begun → scalarRead s.begun a = .ok (s1, m) →
      ArrayRoom s1 false →
      (let ns := namesOf (if k then 8 else 32) m;
        let ps := ns.filterMap fun n => if k then tm.tile n else tm.slot n
        ∀ u, s1.enqueueArr g (if k then .trel [] ps else .trel ps []) .none 0x70 [src a] = .ok u →
        let tu := u.team u.me.team
        exec (.trel a k) s = .next (u.setTeam u.me.team
          (if k then { tu with tileOf := ns.foldl Tab.erase tu.tileOf } else { tu with slotOf := ns.foldl Tab.erase tu.slotOf }))) ∧
      ((namesOf 8 m).all (fun n => (tm.tile n).isSome) = true →
        Enqueued (.tzero a k) s s1 [src a] (.tzero k ((namesOf 8 m).filterMap tm.tile)) .none 0x70)) ∧
    (∀ d n, (matrixPre g [dst d] (roleMatrix g) (isS d) 0).Passes s.begun → s1 = s.begun →
      (match g.tstat with
        | some old => old.filter fun e => (s1.matOpen g.team).contains e
        | none => s1.matOpen g.team) = [] →
      Ends (.tstat d n) s s { s.me with tstat := none } d 1 (sameResult (s1.tstatWord g n.toNat))) ∧
    (s1 = s.begun → ArrayRoom s1 false → (matrixPre g [] (roleMatrix g) true 0).Passes s.begun →
      (∀ d a n p q, tm.slot d.toNat = some p → tm.slot a.toNat = some q →
        Enqueued (.tscale d a n) s s1 [] (.tscale p (some (q, n.toNat))) .none 0x70) ∧
      (∀ d p, tm.slot d.toNat = some p → Enqueued (.tscaleRemove d) s s1 [] (.tscale p none) .none 0x70) ∧
      ∀ (t : BitVec 3) (a b : BitVec 5) (f : BitVec 4) (z : Bool) (pt pa pb : Nat), tm.tile t.toNat = some pt →
        tm.slot a.toNat = some pa → tm.slot b.toNat = some pb → (z = true ∨ c.kindNow pt = famInt f.toNat) →
        (famScaled f.toNat = true → (c.scaleNow pa).isSome = true ∧ (c.scaleNow pb).isSome = true) →
        (∀ sat va vb, Enqueued (.mma sat z t va a vb b f) s s1 [] (.mma f.toNat va vb sat z pt pa pb) .none 0x70) ∧
        ∀ e va vb, Enqueued (.mms e z t va a vb b f) s s1 [] (.mms e.toNat f.toNat va vb z pt pa pb) .none 0x70) ∧
    (let entersDrained := fun (i : Instr) (us : List Use) (kind : ArrKind) (fill : Bool) =>
        ∀ u, DrainedFor s1 kind u → ArrayRoom u fill → Enqueued i s u us kind .none 0x70;
      (∀ (d : BitVec 5) (a b : Operand) (st : Word) (p base : Nat),
        (matrixPre g [srcN a 2, src b] (roleFill g) (!isV a && !isVec g b) 2).Passes s.begun →
        scalarRead s.begun b = .ok (s1, st) → tm.slot d.toNat = some p →
        (s1.matrixBase a false 128 st.toNat = .ok base →
          entersDrained (.tld d a b) [srcN a 2, src b] (.tld p base st.toNat) true) ∧
        ∀ w, s1.matrixBase a false (if w = 0#2 then 64 else 128) st.toNat = .ok base →
          entersDrained (.tldx w d a b) [srcN a 2, src b] (.tldx w.toNat p base st.toNat) true) ∧
      (∀ (d : BitVec 5) (a : Operand) (n : BitVec 4) (p base : Nat),
        (matrixPre g [srcN a 2] (roleFill g) (!isV a) 2).Passes s.begun → s1 = s.begun →
        tm.slot d.toNat = some p → s1.matrixBase a false 128 0 = .ok base →
        entersDrained (.tlds d a n) [srcN a 2] (.tlds p n.toNat base) true) ∧
      ∀ (y : BitVec 4) (t : BitVec 3) (a : Operand) (m : BitVec 3) (r : BitVec 4) (p base : Nat),
        (matrixPre g [srcN a 2, src (.s r)] (roleFill g) (!isV a) 2).Passes s.begun → s1 = s.begun →
        let st := (s.me.sreg r.toNat).toNat
        tm.tile t.toNat = some p → s1.matrixBase a true 128 st = .ok base →
        entersDrained (.tst y t a m r) [srcN a 2, src (.s r)] (.tst y.toNat p base st m.toNat) false) ∧
    (∀ (n : BitVec 6) (a : Operand) (t : BitVec 3) (row : Word) (p : Nat), (matrixPre g [dstN (.v n) 4, src a] (roleTmv g) (isV (.v n) && !isVec g a) 0).Passes s.begun →
      scalarRead s.begun a = .ok (s1, row) → tm.tile t.toNat = some p → ArrayRoom s1 false →
      Enqueued (.tmv (.v n) a t) s s1 [dstN (.v n) 4, src a] (.tmv (g.wb + n.toNat) p (row.toNat % 128))
        (.v (g.wb + n.toNat) 4) (encodeOperand (.v n)).toNat) ∧
    ∀ (t : BitVec 3) (a b : Operand) (row : Word) (p : Nat), (matrixPre g [src a, srcN b 4] (roleTmv g) (isV b && !isVec g a) 0).Passes s.begun →
      scalarRead s.begun a = .ok (s1, row) → tm.tile t.toNat = some p → ArrayRoom s1 false →
      Enqueued (.tmvi t a b) s s1 [src a, srcN b 4]
        (.tmvi p (row.toNat % 128) ((List.range 128).map fun i => s1.me.wordAt b (i / 32) (i % 32))) .none 0x70

/-- An entry of the array queue takes effect once no earlier entry of its team shares a unit with it: a fill puts its rows
into its slot, or meets its fault; any other has its own effect. The units of a team that has ended are free behind its last entry
(R143, R149, R152, R157). That the rows of a fill are read in one step is the model's choice (log 150). -/
def Sys2Proof.Claims.EntriesComplete : Prop :=
  ∀ (s : State) (c i : Nat) (e : ArrEntry), ((s.core c).arr)[i]? = some e → s.entryReady c i = true →
    let g := s.group e.g
    let drop := fun (u : State) =>
      u.setCore c { u.core c with arr := (u.core c).arr.take i ++ (u.core c).arr.drop (i + 1) }
    (∀ p, e.kind.isFill = true → ((s.core c).units e.kind).1 = [p] → g.mayRedo e.seq = true →
      (∀ a ∈ e.kind.rows.1, s.lineBusy g.core g.asid a e.kind.rows.2 = false) →
      (∀ cause w va, s.readRows g e.kind.rows.2 e.kind.rows.1 = .error (cause, w, va) →
        exec (.arrayQueueEntryComplete c i) s = .next ((s.setGroup e.g (g.setOp e.seq fun o =>
          { o with fault := some (cause, w, 0xFF, va) })).appendFrame e.g)) ∧
      ∀ u rows, s.readRows g e.kind.rows.2 e.kind.rows.1 = .ok (u, rows) →
        exec (.arrayQueueEntryComplete c i) s = .next (((drop (u.setCore c ((u.core c).setSlot p
          { (u.core c).slot p with data := fillData e.kind ((u.core c).slot p).data rows }))).matDone e false).reap c e.team)) ∧
    (e.kind.isFill = false → exec (.arrayQueueEntryComplete c i) s = .next (((drop s).entryEffect c e).reap c e.team))

/-- What the entries do to tiles, slots and registers. TMVI writes its row and TSCALE its binding; TZERO makes every element of its
tiles 0 and sets their kind; TMV gives the lanes of its quad the elements of its row; TST sends each element, converted, to its
address. A product accumulates, block by block of 32: an integer family adds the exact sum of the products, modulo 2^32 or, with
SAT, clamped; a floating family adds the exact scaled sum, rounded to f32, with a second rounding; MMS takes the least or the
greatest sum, the greatest product, or whether any product is not 0. Stated for cell rows that compute right (R154, R155, R158,
R159, R161, R163 to R165). -/
def Sys2Proof.Claims.ArrayResults : Prop :=
  ∀ (s : State) (c : Nat) (e : ArrEntry),
    let c0 := s.core c
    let t' := fun (t : Nat) => ((s.entryEffect c e).core c).tile t
    (∀ t row vs, e.kind = .tmvi t row vs → s.entryEffect c e = (s.setCore c (c0.setTile t { c0.tile t with
      data := Tab.writeFrom 0#32 (c0.tile t).data (128 * row) vs })).matDone e false) ∧
    (∀ p b, e.kind = .tscale p b →
      s.entryEffect c e = (s.setCore c (c0.setSlot p { c0.slot p with scale := b })).matDone e false) ∧
    (∀ n ts, e.kind = .tzero n ts → ∀ t,
      (t ∈ ts → (t' t).int = n ∧ (t' t).poison = false ∧ (t' t).suspect = false ∧ ∀ i, (t' t).data.read 0#32 i = 0#32) ∧
      (t ∉ ts → t' t = c0.tile t)) ∧
    (∀ r t row, e.kind = .tmv r t row → (c0.tile t).poison = false → ∀ n l, l < 32 →
      ((s.entryEffect c e).group e.g).vreg n l = if r ≤ n ∧ n < r + 4 then (c0.tile t).data.read 0#32 (128 * row + 32 * (n - r) + l)
        else (s.group e.g).vreg n l) ∧
    (∀ y t base st mode, e.kind = .tst y t base st mode → (c0.tile t).poison = false → base % 128 = 0 → st % 128 = 0 →
      let w := (Ty.ofCode y).width / 8
      ∀ i j n, i < 128 → j < 128 → n < w →
        let a := base + i * st + j * w + n
        let x := convert (Ty.ofCode y) (if (c0.tile t).int then .i32 else .f32) mode 0 ((c0.tile t).data.read 0#32 (128 * i + j)).toNat
        ∃ p ∈ ((s.entryEffect c e).group e.g).parts, p.kind = .tst ∧ p.cls = 0 ∧ p.ops = [e.seq] ∧ p.line = a / 128 ∧
          p.bytes.read none (a % 128) = some ((leBytes w x).getD n 0#8)) ∧
    (∀ f va vb sat z t a b, e.kind = .mma f va vb sat z t a b → ((c0.tile t).poison = false ∨ z = true) → c0.arrErr = [] →
      ∀ r q, r < 128 → q < 128 →
      let old := if z then 0#32 else (c0.tile t).data.read 0#32 (128 * r + q)
      let new := (t' t).data.read 0#32 (128 * r + q)
      let blocks := List.range (famK f / 32)
      let cols := fun (j : Nat) => (List.range 32).map (32 * j + ·)
      let x := fun (k : Nat) => (c0.slot a).elem (famWidth f) r k
      let y := fun (k : Nat) => (c0.slot b).elem (famWidth f) q k
      let int := fun (k : Nat) => famIntVal f va (x k) * famIntVal f vb (y k)
      let sa := fun (j : Nat) => c0.scaleOf f (c0.slot a) r j
      let sb := fun (j : Nat) => c0.scaleOf f (c0.slot b) q j
      let sum := fun (j : Nat) => if sa j = 255 ∨ sb j = 255 then Val.nan
        else (exactSum ((cols j).map fun k => Val.mul (famVal f va (x k)) (famVal f vb (y k)))).scale ((sa j : Int) + sb j - 254)
      (famInt f = true → sat = false → new = old + BitVec.ofInt 32 ((List.range (famK f)).map int).sum) ∧
      (famInt f = true → sat = true → new.toInt =
        blocks.foldl (fun acc j => clamp (-(2 : Int) ^ 31) ((2 : Int) ^ 31 - 1) (acc + ((cols j).map int).sum)) old.toInt) ∧
      (famInt f = false → new =
        blocks.foldl (fun acc j => f32Word 0 (Val.add false (f32Val acc) (f32Val (f32Word 0 (sum j))))) old)) ∧
    ∀ ring f va vb z t a b, e.kind = .mms ring f va vb z t a b → ((c0.tile t).poison = false ∨ z = true) → c0.arrErr = [] →
      ∀ r q, r < 128 → q < 128 →
      let old := if z then ringZero (some ring) (famInt f) else (c0.tile t).data.read 0#32 (128 * r + q)
      let new := (t' t).data.read 0#32 (128 * r + q)
      let x := fun (k : Nat) => (c0.slot a).elem (famWidth f) r k
      let y := fun (k : Nat) => (c0.slot b).elem (famWidth f) q k
      let ix := fun (k : Nat) => famIntVal f va (x k)
      let iy := fun (k : Nat) => famIntVal f vb (y k)
      let ks := List.range (famK f)
      (famInt f = true → ring = 0 → new.toInt = ks.foldl (fun m k => min m (ix k + iy k)) old.toInt) ∧
      (famInt f = true → ring = 1 → new.toInt = ks.foldl (fun m k => max m (ix k + iy k)) old.toInt) ∧
      (famInt f = true → ring = 2 → new.toInt = ks.foldl (fun m k => max m (ix k * iy k)) old.toInt) ∧
      (famInt f = true → ring = 3 →
        new = if old ≠ 0#32 ∨ (∃ k, k < famK f ∧ ix k ≠ 0 ∧ iy k ≠ 0) then 1#32 else 0#32) ∧
      (famInt f = false → new = (List.range (famK f / 32)).foldl (fun acc j => f32Word 0 (valPick (decide (ring ≠ 0)) (f32Val acc)
        (f32Val (f32Word 0 (ringSum ring ((List.range 32).map fun i =>
          ringMul ring (famVal f va (x (32 * j + i))) (famVal f vb (y (32 * j + i))))))))) old)

/-- The entries of the array queue: when they complete, and what they do (R143, R149, R152, R154, R155, R157 to R165).
-/
def Obligations.ArrayEntries : Prop :=
  Claims.EntriesComplete ∧ Claims.ArrayResults

-- Copies ----------------------------------------------------------------------------------------------------------------

/-- The transfer members: CPY, CPYG, CPYS, CPYC, CPYM, CPYE, CPYF, by fn (R299). -/
def copyInstr (d a b : Operand) : Nat → Instr
  | 2 => .cpy d a b
  | 3 => .cpyg d a b
  | 4 => .cpys d a b
  | 5 => .cpyc d a b
  | 6 => .cpym d a b
  | 7 => .cpye d a b
  | _ => .cpyf d a b

/-- The operand of a transfer member names the entry `e` where the member uses it, and nothing where it does not (R297,
R301). -/
def Names (s : State) (g : Group) (h : Word) (use : Bool) (xs : List Nat) : Prop :=
  if use then ∃ e, s.checkHandle g h = .ok e ∧ xs = [e] else xs = []

/-- Layout records and transfers at issue. LREC, whose place on the mem counter is its own from the first time that it
blocks, reads a body and gives a free entry of its team the body and the base, or answers 0; LFREE makes its entry invalid; a transfer that passes its checks stands last in its core's shuttle, not started,
with copies of its records, and with a place in the array queue where it fills an operand slot (R297 to R302). The model's choice:
which free entry LREC takes (log 25), and when its operation counts (log 141). -/
def Sys2Proof.Claims.CopyInstructions : Prop :=
  (∀ (s s1 s2 : State) (d a b : Operand) (ps : List (Nat × Place)) (b0 b1 : Bytes), s.issues →
    let r := s.leavePlace.begun
    let g := r.me
    let va := g.wide a 2 g.first
    let base := g.wide b 2 g.first
    let u := r.setMe g.drain
    let ends := fun (v : State) (w : Word) =>
      let x := v.endPlace s s.me.pc
      Ends (.lrec d a b) s x x.me d 1 (sameResult w)
    copyFaults g = .ok () → (copyPre g [dst d, srcN a 2, srcN b 2] true (isS d)).Passes r → gateAccess g = .ok () →
    r.checkAddrs g false false 1 8 [(g.first, va)] = .ok ps → g.outstanding .mem < 4095 → u.me.ownWrites va 144 = false → u.ownPending va 144 = false → u.lineBusy g.core g.asid va 144 = false →
    u.bodyRead va 16 = .ok (s1, b0) → s1.bodyRead (va + 16) (bodyLength (leNat (b0.take 4)) - 16) = .ok (s2, b1) →
    bodyFault (b0 ++ b1) = none → s2.checkRecord g (layoutOf (b0 ++ b1) base) = .ok () →
    (s2.freeRecs g.team = [] → ends s2 0#32) ∧
    (s2.freeRecs g.team ≠ [] → ∃ e, e ∈ s2.freeRecs g.team ∧
      let gen := ((s2.recEntry g.team e).gen + 1) % 256
      ends { s2.setRec g.team e ⟨true, gen, b0 ++ b1, base⟩ with free := s2.free + 1 }
        (BitVec.ofNat 32 (s2.handleOf g.team e gen)))) ∧
  (∀ (s s1 : State) (a : Operand) (h : List Word) (e : Nat), s.issues →
    let g := s.begun.me
    copyFaults g = .ok () → (copyPre g [src a] true true).Passes s.begun →
    readSource s.begun s.begun [g.first] a = .ok (s1, h) → s1.checkHandle g (h.headD 0#32) = .ok e →
    exec (.lfree a) s = .next ((s1.setRec g.team e { s1.recEntry g.team e with valid := false }).finish g [src a])) ∧
  ∀ (s : State) (fn : Nat) (d a b : Operand) (hd hs hi : List Nat), 2 ≤ fn → fn ≤ 8 → s.issues →
    let g := s.begun.me
    let words := if fn = 5 then 2 else 1
    let us := [dstN d words, srcN a 4, srcN b 2]
    let w := fun i => (g.wordAt a i g.first).toNat
    let c0 := (g.wordAt b 0 g.first).toNat
    let toSlot := bitOf (w 3) 10 && decide (fn = 2 ∨ fn = 7)
    let ofSlot := toSlot && decide (fn = 2)
    let first := bitOf (w 3) 3 && decide (fn = 5)
    let last := bitOf (w 3) 4 && decide (fn = 5)
    let rec' := fun (h : List Nat) => match h with
      | e :: _ => s.recEntry g.team e
      | [] => RecEntry.init
    let lay := fun (h : List Nat) => layoutOf (rec' h).body (rec' h).base
    let ld := if ofSlot then lay hs else lay hd
    let ls := if fn = 8 then lay hd else lay hs
    let teams := if fn = 6 then (List.range 12).filter fun t => bitOf (w 2) t else []
    let slot := if toSlot then (s.team g.team).slot (bitsOf (w 3) 5 5) else none
    let core := s.core g.core
    copyFaults g = .ok () → (copyPre g us (decide (g.role = 0 ∨ g.role = 1)) (isReg d || isZero d)).Passes s.begun →
    gateAccess g = .ok () → wordsOk fn (w 2) (w 3) c0 last = true → (bitOf c0 3 = true → c0 % 8 < (s.team g.team).nring) →
    Names s.begun g (BitVec.ofNat 32 (w 0)) (!ofSlot) hd → Names s.begun g (BitVec.ofNat 32 (w 1)) (decide (fn ≠ 8)) hs →
    Names s.begun g (BitVec.ofNat 32 (w 2)) (decide (fn = 3 ∨ fn = 4)) hi →
    (toSlot = false → s.begun.checkRecord g ld = .ok ()) → (fn ≠ 8 → s.begun.checkRecord g ls = .ok ()) →
    (hi ≠ [] → s.begun.checkRecord g (lay hi) = .ok ()) → shapeChecks fn toSlot ld ls (lay hi) = .ok () →
    (fn = 6 → isScratch ld.base = true ∧ bitsOf ld.base 56 4 = 0) → (∀ t ∈ teams, t < s.begun.clusterTeams g) →
    (fn = 5 → first ≠ g.chain) → (toSlot = true → slot ≠ none) → core.shuttle.length < 32 → g.outstanding .copy < 4095 →
    ∃ t x, exec (copyInstr d a b fn) s = .next t ∧ OnlyMe (s.setCore g.core { core with
        shuttle := core.shuttle ++ [x]
        arr := core.arr ++ match slot with
          | some p => [⟨s.cur, g.seq, g.team, .copy p, g.pc⟩]
          | none => [] }) t ∧
      OnlyRegs { g.drain with
        ops := g.drain.ops ++ [{ Op.base g.drain.seq .copy .copy g.pc with dst := x.dst, code := (encodeOperand d).toNat }]
        seq := g.drain.seq + 1, chain := if fn = 5 then !last else g.drain.chain } t.me ∧
      SameRegs s.me t.me ∧ SameMasks s.me t.me ∧ Advanced s.me t.me ∧
      x.g = s.cur ∧ x.seq = g.drain.seq ∧ x.team = g.team ∧ x.fn = fn ∧ x.dstRec = (if ofSlot then rec' hs else rec' hd) ∧
      x.srcRec = (if fn = 8 then rec' hd else rec' hs) ∧ x.idxRec = rec' hi ∧ x.handles = hd ++ hs ++ hi ∧
      x.started = false ∧ x.paused = false ∧ x.moved = (decide (fn = 6) && teams.isEmpty) ∧ x.pos = 0 ∧ x.fault = none ∧ x.word = 0 ∧ x.teams = teams ∧ x.slot = slot ∧
      x.setFull = bitOf c0 4 ∧ x.ring = (if bitOf c0 3 then some (c0 % 8, g.wordAt b 1 g.first) else none).map
        (fun e => (e.1, e.2.toNat)) ∧ x.first = first ∧ x.last = last

/-- The steps of a transfer. It moves when nothing before it stands in its way, and with SETFULL each line becomes full
with its last write; a fault of it becomes its operation's, and one of a group that has ended is abandoned; a multicast
lands at a team, part by part, is refused there, or finds no path to it; the peer's port returns a chain's final value; and when all
is done the operand slot takes the elements, the completion word, and a chain's final value, go to their destination, the ring's
full bit toggles, a failure leaves its imprecise record, and the operation ends (R291, R302, R303, R305 to R309, R459). The model's
choice: the elements that form a scale (log 110), which transfers count (log 118), what the CRC covers (log 119), when the bits of
SETFULL are set (log 120), and the portions of a multicast (log 121). -/
def Sys2Proof.Claims.TransferSteps : Prop :=
  ∀ (s : State) (c i : Nat) (t : Transfer), ((s.core c).shuttle)[i]? = some t →
    let g := s.group t.g
    (∀ n, s.mayMove c i = true →
      let u := if t.first && !t.started then s.setGroup t.g { g with crc := 0xFFFFFFFF#32, crcAt := 0, chainSeq := t.seq, chainBad := 0 }
        else s
      let m := u.moveMany { t with started := true, paused := false } n
      let e := m.1.fillLines m.2
      exec (.transferStart c i n) s = .next (e.1.setTransfer c i e.2)) ∧
    (∀ cause w va, t.fault = some (cause, w, va) → exec (.transferFaultHold c i) s =
      .next (if g.sched = .done ∨ g.sched = .killed then s.endTransfers t.g
        else s.setGroup t.g (g.setOp t.seq fun o => { o with fault := some (cause, w, 0xFF, va) }))) ∧
    (∀ n, t.moved = true → t.teams.contains n = true →
      let tm := s.clusterTeam g n
      let at' := t.given.read 0 n
      let left := t.buf.drop at'
      let others := t.teams.filter (· ≠ n)
      let full := fun (u : State) (ls : List Nat) =>
        if t.setFull then ls.foldl (fun u l => u.setFullBit tm l true) u else u
      let away := (s.team tm).done = true ∨ ∃ l ∈ t.linesOf left, s.lineChanging tm l = true
      (away →
        let u := full s (if (s.team tm).done then [] else t.linesOf (t.buf.take at'))
        exec (.multicastDelivery c i n) s = .next (((u.setGroup t.g { g with fence := fenceAdd g.fence 2 }).fenceToFrame t.g 4
          1).setTransfer c i { t with teams := others, refused := t.refused + 2 ^ n, status := Nat.max t.status 2 })) ∧
      (¬away → s.scratchDead g.core tm 0 = true →
        let u := full s (t.linesOf (t.buf.take at'))
        exec (.multicastDelivery c i n) s = .next ((u.failOps t.g [t.seq] 1).setTransfer c i
          { t with teams := others, status := Nat.max t.status 3 })) ∧
      (¬away → s.scratchDead g.core tm 0 = false →
        let now := left.take deliverStep
        let rest := left.drop deliverStep
        let u := full (s.deliverTo t tm now) ((t.linesOf now).filter fun l => !(t.linesOf rest).contains l)
        exec (.multicastDelivery c i n) s = .next (u.setTransfer c i (if rest = [] then { t with teams := others }
          else { t with given := t.given.write 0 n (at' + deliverStep) })))) ∧
    (∀ v, t.last = true → t.moved = true → t.reply = none → g.crcAt = 2 →
      exec (.crcReply c i v) s = .next (s.setTransfer c i { t with reply := some v })) ∧
    ((t.fn ≠ 5 → s.transferWords t = (t, [BitVec.ofNat 32 t.word])) ∧
      (t.fn = 5 → t.last = false → s.transferWords t = (t, [BitVec.ofNat 32 t.word, 0#32])) ∧
      (t.fn = 5 → t.last = true → s.chainOpen t = false →
        let fin := match t.reply with
          | some v => v
          | none => g.crc ^^^ 0xFFFFFFFF#32
        let st := Nat.max t.status g.chainBad
        let x := { t with status := if fin ≠ t.word2 then Nat.max st 1 else st }
        s.transferWords t = (x, [BitVec.ofNat 32 x.word, fin]))) ∧
    (s.mayComplete c i = true → g.sched = .active →
      let x := s.transferWords t
      let w := if s.chainOpen t then { s with free := s.free + 1 } else s
      let core := s.core c
      let core := match t.slot with
        | some p => core.setSlot p { core.slot p with data := t.slotData (core.slot p).data }
        | none => core
      let u := w.setCore c { core with
        shuttle := core.shuttle.take i ++ core.shuttle.drop (i + 1)
        arr := core.arr.filter fun e => !(decide (e.g = t.g ∧ e.seq = t.seq) && e.kind.isCopy) }
      ∀ v, u.writeDst t.g t.dst t.lanes x.2 = some v →
        let tm := v.team t.team
        let y := match t.ring with
          | some (r, j) =>
            let key := 32 * r + j % Nat.max 1 (tm.ringSize.getD r 1)
            v.setTeam t.team { tm with ringF := tm.ringF.write false key (!tm.ringF.read false key) }
          | none => v
        let h := y.group t.g
        let ext := (y.task h.task).ext
        let h := match x.1.failure with
          | some (cause, word, va) => { h with imprec := h.imprec ++
              [(Cls.copy, (⟨cause, gradeExt ext 3, 2, 0xFF, false, ext, word, h.gidx, h.taskId, t.pc.toNat, va⟩ : FaultRec))] }
          | none => h
        exec (.transferComplete c i) s = .next ((y.setGroup t.g (h.setOp t.seq fun o =>
          { o with done := true, failed := x.1.failure.isSome || decide (x.1.status = 3) })).settle t.g))

/-- Layout records and transfers (R291, R297 to R303, R305 to R309). -/
def Obligations.Copies : Prop :=
  Claims.CopyInstructions ∧ Claims.TransferSteps

-- Channels --------------------------------------------------------------------------------------------------------------

/-- CHBIND makes a queue, or joins one, under a free channel number and gives the id, or the reason why not; CHFREE ends
the binding, with q the queue as well; CHSTAT and LSTAT give their words; SEND pushes with its kind (R314, R323 to R327). Which free
queue and which free space CHBIND takes is the model's choice (log 25). -/
def Sys2Proof.Claims.ChannelInstructions : Prop :=
  ∀ s s1 : State, s.issues →
    let g := s.begun.me
    (∀ d a b cw, (chanPre g [dstN d 2, srcN a 2, src b] (!isV d && (isS a || isZero a) && !isVec g b)).Passes s.begun →
      scalarRead s.begun b = .ok (s1, cw) → cw.toNat < 256 →
      let x := cw.toNat
      let join := bitOf x 3
      (join = false → 5 ≤ bitsOf x 4 4 ∧ isZero a = true) → (join = true → isZero a = false) →
      let r := if (s1.me.chans.read none (x % 8)).isSome then (s1, bindFailure 3)
        else if join then s1.bindJoin (x % 8) (s1.me.scalar64 a) else s1.bindNew (x % 8) (bitsOf x 4 4)
      Ends (.chbind d a b) s r.1 r.1.me d 2 fun i _ => wordOf r.2 i) ∧
    (∀ q c, (chanPre g [] true).Passes s.begun →
      (s.me.chans.read none (BitVec.toNat c) = none → Ends (.chfree q c) s s s.me .zero 0 noResult) ∧
      ∀ b, s.me.chans.read none c.toNat = some b → (q = true → b.pop = true) →
        let u := if q && s.qidLive b.qid then s.freeQueue (qidCore b.qid) (qidIndex b.qid) else s
        Ends (.chfree q c) s u { s.me with chans := s.me.chans.erase c.toNat } .zero 0 noResult) ∧
    (∀ d c, (chanPre g [dstN d 2] (!isV d)).Passes s.begun →
      Ends (.chstat d c) s s s.me d 2 fun i _ => wordOf (match s.me.chans.read none (BitVec.toNat c) with
        | none => 0
        | some b => s.chstatWord s.me b) i) ∧
    (∀ a k c xs u, { chanPre g [dst (.chan c), src a] true with
        vec := execVec g (.chan c) [a], privOk := decide (k ≠ 3#2) || g.priv }.Passes s.begun →
      readSource s.begun s.begun (g.execLanes (execVec g (.chan c) [a])) a = .ok (s1, xs) →
      s1.push (BitVec.toNat c) xs (BitVec.toNat k) = .ok u →
      exec (.send a k c) s = .next (u.finish g [dst (.chan c), src a])) ∧
    (∀ d a x, (chanPre g [dstN d 2, src a] (!isV d && !isVec g a)).Passes s.begun → scalarRead s.begun a = .ok (s1, x) →
      (x.toNat < 18 → Ends (.lstat d a) s s1 s1.me d 2 fun i _ => wordOf (s1.mlinkWord x.toNat) i) ∧
      (0x100 ≤ x.toNat → x.toNat < 0x103 →
        Ends (.lstat d a) s s1 s1.me d 2 fun i _ => wordOf (s1.bridgeWord (x.toNat - 0x100)) i)) ∧
    (∀ c l q p, q ∈ (List.range 64).filter (fun q => !s.queueBusy s.me.core q) → p ∈ s.queueSpace s.me.core l →
      ∃ q p, q < 64 ∧ s.queueBusy s.me.core q = false ∧ p ∈ s.queueSpace s.me.core l ∧
        let gen := ((s.queue s.me.core q).gen + 1) % 65536
        let id := s.qidOf s.me.core q gen
        let u := s.setQueue s.me.core q ⟨true, gen, s.me.team, s.me.asid, l, p.1, p.2, [], [], 0⟩
        s.bindNew c l = ({ u.setMe { s.me with chans := s.me.chans.put c (some ⟨id, true, 0, l⟩) } with
          free := s.free + 2 }, id)) ∧
    (∀ c l, (∀ q < 64, s.queueBusy s.me.core q = true) ∨ s.queueSpace s.me.core l = [] →
      s.bindNew c l = (s, bindFailure 1)) ∧
    ∀ c id, s.qidHere id = true → s.diePath (s.me.core / 96) (qidCore id / 96) = true →
      let q := s.queue (qidCore id) (qidIndex id)
      (bitOf id 15 = false → id < 2 ^ 48 → s.qidLive id = true → q.asid = s.me.asid →
        s.bindJoin c id = (s.setMe { s.me with
          chans := s.me.chans.put c (some ⟨id, decide (q.team = s.me.team), 0, q.logcap⟩) }, id)) ∧
      ((s.qidLive id = false ∨ q.asid ≠ s.me.asid) → s.bindJoin c id = (s, bindFailure 2))

/-- The steps of the channels. The bundle that waits longest for a queue issues again when there is an entry; a push that
leaves the core appends its entries in their order, or is answered full, refused, or found dead; a push to a peer leaves
through its port, as a request of TYPE 0x05 with its words, whose tag stands until it is answered; and a push that was answered full
is sent again (R316 to R319, R329, R341). -/
def Sys2Proof.Claims.ChannelSteps : Prop :=
  (∀ (s : State) (k c q : Nat) (x : Queue), (c, s.core c) ∈ s.cores → (q, x) ∈ (s.core c).queues → x.waiters.head? = some k →
    x.entries ≠ [] → exec (.channelPopUnblock k) s = .next (s.setGroup k { s.group k with blocked := false })) ∧
  ∀ (s : State) (k seq qid kind : Nat) (xs : List Word) (o : Op), (s.group k).op seq = some o → o.kind = .push qid xs kind →
    let g := s.group k
    let c := qidCore qid
    let q := s.queue c (qidIndex qid)
    (o.done = false → o.accs = [] → g.pushBefore o.pushPlace qid = false →
      (s.qidHere qid = true →
        (s.diePath (g.core / 96) (c / 96) = false →
          exec (.remotePushArrival k seq) s = .next ((s.pushFailed k o 0).settle k)) ∧
        (s.diePath (g.core / 96) (c / 96) = true →
          (s.qidLive qid = false → exec (.remotePushArrival k seq) s = .next ((s.pushFailed k o 2).settle k)) ∧
          (s.qidLive qid = true →
            (2 ^ q.logcap < q.entries.length + s.reserved qid + xs.length → exec (.remotePushArrival k seq) s =
              .next (s.setGroup k (g.setOp seq fun o => { o with accs := [⟨0, qid, .held, [], [], [], []⟩] }))) ∧
            (q.entries.length + s.reserved qid + xs.length ≤ 2 ^ q.logcap →
              let u := s.setQueue c (qidIndex qid) { q with entries := q.entries ++ xs.map fun x => (x, false) }
              exec (.remotePushArrival k seq) s =
                .next ((u.setGroup k (g.setOp seq fun o => { o with done := true })).settle k))))) ∧
      (s.qidHere qid = false →
        let p := s.peerLive (qidDev qid)
        (p.2 = false → exec (.remotePushArrival k seq) s = .next ((p.1.pushFailed k o 0).settle k)) ∧
        (p.2 = true → ∃ t, exec (.remotePushArrival k seq) s = .next t ∧
          (∃ pkt : OutPkt, t.net.peerOut = p.1.net.peerOut ++ [pkt] ∧ t.net.tags = p.1.net.tags ++ [(pkt, k, seq)] ∧
            pkt.typ = 0x05 ∧ pkt.addr = qid ∧ pkt.ddev = qidDev qid ∧ pkt.asid = g.asid ∧ pkt.cls = kind ∧
            pkt.data = xs.flatMap fun x => leBytes 4 x.toNat) ∧
          t.group k = ((p.1.setExt g.task).group k).setOp seq fun o => { o with accs := [⟨0, qid, .ext false, [], [], [], []⟩] }))) ∧
    ((o.accs.any fun a => a.st = .held) = true → o.cls = .msg →
      exec (.pushResend k seq) s = .next (s.setGroup k (g.setOp seq fun o => { o with accs := [] })))

/-- Channels (R314, R316 to R319, R323 to R327, R341). -/
def Obligations.Channels : Prop :=
  Claims.ChannelInstructions ∧ Claims.ChannelSteps

-- Tasks and groups ------------------------------------------------------------------------------------------------------

/-- LAUNCH, whose place on the mem counter is its own from the first time that it blocks, reads a record and enters its task, or traps with the first rule that the record breaks; a device that is
draining, or that waits for a reset, and a full table, answer their codes (R345 to R347, R351, R365, R447). The model's choice:
which of the two answers of a device that drains or waits for a reset comes first (log 40), the word of a record that gives ITEMS
where ICOUNT is 0 (log 92), and when the operation counts (log 141). -/
def Sys2Proof.Claims.Launch : Prop :=
  (∀ (s s1 : State) (d a : Operand) (ps : List (Nat × Place)) (b : Bytes), s.issues →
    let r := s.leavePlace.begun
    let g := r.me
    let va := g.scalar64 a
    let u := r.setMe g.drain
    (workPre g [dst d, srcN a 2] (isS d && !isV a) g.priv).Passes r → gateAccess g = .ok () →
    r.checkAddrs g false false 1 64 [(g.first, va)] = .ok ps → g.outstanding .mem < 4095 → u.me.ownWrites va 400 = false → u.ownPending va 400 = false → u.lineBusy g.core g.asid va 400 = false →
    u.bodyRead va 400 = .ok (s1, b) →
    (∀ w, recordFault b = some w → exec (.launch d a) s =
      .next (s.leavePlace.unblocked.takeTrap s.cur (Trap.precise 0x18 (some w)))) ∧
    (recordFault b = none →
      let e := s1.enterTask (parseRecord b)
      let x := e.1.endPlace s s.me.pc
      Ends (.launch d a) s x x.me d 1 (sameResult (BitVec.ofNat 32 e.2)))) ∧
  ∀ (s : State) (r : LaunchRec),
    (s.phase = 4 → s.enterTask r = (s, 0x80000003)) ∧
    (s.phase ≠ 4 → bitOf (s.sysv 0x703) 3 = true → s.enterTask r = (s, 0x80000002)) ∧
    (s.phase ≠ 4 → bitOf (s.sysv 0x703) 3 = false →
      ((∀ i < 256, (s.task i).state ≠ .free) → s.enterTask r = (s, 0x80000001)) ∧
      ∀ i < 256, (s.task i).state = .free → (∀ j < i, (s.task j).state ≠ .free) →
        let gen := (s.task i).gen % 0x7FFFFF + 1
        let preds := (s.tasks.filter fun e => decide (e.2.state ≠ .free) && succeeds r e.2.record).map
          fun e => taskIdOf e.1 e.2.gen
        s.enterTask r = ({ s.setTask i { Task.init with
            state := if preds.isEmpty then .active else .waiting, gen := gen, record := r, order := s.order, preds := preds
            prio := r.prio } with order := s.order + 1 }, i + 2 ^ 8 * gen))

/-- LWAIT answers a stale id, a task that is FREE, and a task that ended while it waited; LQUERY gives its word; PRIO
sets a priority and answers the old one; ITEMPUT appends its items but the empty ones; ITEMCLOSE closes the queue; NOPRE
and OKPRE open and close the section (R363, R366 to R368). The model's choice: STATE of an entry that is FREE again (log 91), and
what an ITEMPUT to a team that has ended does (log 143). -/
def Sys2Proof.Claims.TaskInstructions : Prop :=
  ∀ s s1 s2 : State, s.issues →
    let g := s.begun.me
    (∀ d a x, (workPre g [dst d, src a] ((isS d || isZero d) && !isVec g a) g.priv).Passes s.begun →
      scalarRead s.begun a = .ok (s1, x) →
      let g' := { s1.me with twait := none }
      let id := x.toNat
      (∀ w, s.me.twait = some (id, some w) → Ends (.lwait d a) s s1 g' d 1 (sameResult (BitVec.ofNat 32 w))) ∧
      (s.me.twait = none →
        (s1.stale id = true → Ends (.lwait d a) s s1 g' d 1 (sameResult 0x80000000#32)) ∧
        (s1.stale id = false → (s1.task (idSlot id)).state = .free →
          Ends (.lwait d a) s s1 g' d 1 (sameResult (BitVec.ofNat 32 (s1.task (idSlot id)).result))))) ∧
    (∀ d a x, (workPre g [dstN d 2, src a] (!isV d && !isVec g a) g.priv).Passes s.begun →
      scalarRead s.begun a = .ok (s1, x) →
      Ends (.lquery d a) s { s1 with free := s1.free + 1 } s1.me d 2
        fun i _ => wordOf (s1.queryWord x.toNat) i) ∧
    (∀ d a b x y, (workPre g [dst d, src a, src b] ((isS d || isZero d) && !isVec g a && !isVec g b)
        (isZero b || g.priv)).Passes s.begun →
      scalarRead s.begun a = .ok (s1, x) → scalarRead s1 b = .ok (s2, y) → x.toNat ≤ 23 →
      (isZero b = true → x.toNat ≤ (s2.task s.me.task).record.prio) →
      let slot := if isZero b then s.me.task else idSlot y.toNat
      let live := isZero b || !s2.stale y.toNat
      Ends (.prio d a b) s (if live then s2.setTask slot { s2.task slot with prio := x.toNat } else s2) s2.me d 1
        (sameResult (if live then BitVec.ofNat 32 (s2.task slot).prio else 0xFFFFFFFF#32))) ∧
    (∀ a b xs y t, (workPre g [src a, src b] (!isVec g b) true).Passes s.begun →
      readSource s.begun s.begun (g.execLanes (isVec g a)) a = .ok (s1, xs) → scalarRead s1 b = .ok (s2, y) →
      s2.itemTeam g b y = .ok t → (s2.team t).itemClosed = false →
      let items := xs.filter (· ≠ 0xFFFFFFFF#32)
      (s2.team t).items.length + items.length ≤ (s2.team t).itemCap →
      exec (.itemput a b) s =
        .next ((s2.putItems t items).finish g [src a, src b])) ∧
    (∀ b y t, (workPre g [src b] (!isVec g b) true).Passes s.begun → scalarRead s.begun b = .ok (s1, y) →
      s1.itemTeam g b y = .ok t →
      Ends (.itemclose b) s (s1.setTeam t { s1.team t with itemClosed := true }) s1.me .zero 0 noResult) ∧
    ((workPre g [] true true).Passes s.begun →
      Ends .nopre s s { s.me with nopre := true } .zero 0 noResult ∧
      Ends .okpre s s { s.me with nopre := false } .zero 0 noResult)

/-- GKILL ends a group, or a whole task, and answers 0; it answers 1 for what has ended, 2 for a stale id, 3 for a group
that the task does not have. BANKCFG changes the mode of banks, or answers 1 for a bank with live queues and 2 where no
cache bank would be left; stated for banks that hold no line of a live allocation (R207, R369). The model's choice: that it waits
while scratch lines stand in the banks (log 41), and which L1 lines leave with them (log 42). -/
def Sys2Proof.Claims.KillsAndBanks : Prop :=
  ∀ (s s1 s2 : State) (d a b : Operand) (x y : Word), s.issues →
    let g := s.begun.me
    let us := [dst d, src a, src b]
    scalarRead s.begun a = .ok (s1, x) → scalarRead s1 b = .ok (s2, y) →
    ((workPre g us ((isS d || isZero d) && !isVec g a && !isVec g b) g.priv).Passes s.begun →
      let id := x.toNat
      let i := y.toNat
      let slot := idSlot id
      let t := s2.task slot
      let k := groupKey slot i
      let ended := t.state = .free ∨ t.state = .completing
      let answers := fun (w : Word) => Ends (.gkill d a b) s s2 s2.me d 1 (sameResult w)
      (s2.stale id = true → answers 2#32) ∧
      (s2.stale id = false →
        (i = 0xFFFFFFFF →
          (ended → answers 1#32) ∧
          (¬ended → slot = s.me.task → exec (.gkill d a b) s = .next ((s2.finish g us).killTask slot)) ∧
          (¬ended → slot ≠ s.me.task → ∀ v, s2.writeResult d [g.first] [0#32] = .ok v →
            exec (.gkill d a b) s = .next ((v.finish g us).killTask slot))) ∧
        (i ≠ 0xFFFFFFFF →
          (t.record.groups ≤ i → answers 3#32) ∧
          (i < t.record.groups →
            (ended ∨ (s2.group k).ended = true → answers 1#32) ∧
            (¬ended → (s2.group k).ended = false → k = s.cur →
              exec (.gkill d a b) s = .next ((s2.finish g us).killGroup k)) ∧
            (¬ended → (s2.group k).ended = false → k ≠ s.cur → ∀ v, s2.writeResult d [g.first] [0#32] = .ok v →
              exec (.gkill d a b) s = .next ((v.finish g us).killGroup k)))))) ∧
    ({ controlPre g us with
      operandOk := isS d && !isVec g a && !isVec g b, privOk := g.priv, inRegion := false }.Passes s.begun →
      let m := y.toNat
      let core := s2.core s.me.core
      let banks := (List.range 24).filter fun j => bitOf x.toNat j && decide (core.bankMode j ≠ m)
      let queued := (banks.any fun j => core.bankMode j = 2 && core.queues.any fun q => q.2.live && decide (q.2.bank = j)) = true
      let uncached := m ≠ 0 ∧ ((core.banksIn 0).filter fun j => !banks.contains j) = []
      m ≤ 2 → core.change = none →
      (queued → Ends (.bankcfg d a b) s s2 s2.me d 1 (sameResult 1#32)) ∧
      (¬queued → uncached → Ends (.bankcfg d a b) s s2 s2.me d 1 (sameResult 2#32)) ∧
      (¬queued → ¬uncached → (∀ j ∈ banks, core.bankMode j = 1 → s2.bankInUse s.me.core j = false) →
        let u := s2.setCore s.me.core (core.setMode (banks.foldl (fun r j => r + 2 ^ j) 0) m)
        let u := if banks.any fun j => core.bankMode j = 0 then u.shrinkL1 s.me.core else u
        Ends (.bankcfg d a b) s u s2.me d 1 (sameResult 0#32)))

/-- The WORK instructions and BANKCFG (R207, R345 to R347, R351, R363, R365 to R369, R447). -/
def Obligations.WorkInstructions : Prop :=
  Claims.Launch ∧ Claims.TaskInstructions ∧ Claims.KillsAndBanks

/-- The scheduler's steps for groups: an open NOPRE section that lasts too long closes, and the group traps when it issues
again; a group that waits is restored when its turn comes and a slot is free, and a fresh one starts; lower priorities,
quanta and blocked groups are written back for those that wait; a sleep ends; a lane that has waited too long leads; a group
without lanes completes when all it left has ended (R60, R70, R71, R350, R360, R363). A lane leads once no latch run is open
(R82). -/
def Sys2Proof.Claims.GroupSteps : Prop :=
  ∀ (s : State) (k : Nat),
    let g := s.group k
    let c := g.core
    (g.nopre = true → exec (.nopreOverrun k) s = .next (s.setGroup k { g with nopre := false, overrun := true })) ∧
    (g.nopre = false → g.overrun = true → g.sched = .active →
      exec (.nopreOverrun k) s = .next ((s.setGroup k { g with overrun := false }).takeTrap k (Trap.precise 0x16 none))) ∧
    (∀ u, s.nextActivation (s.teamCore k) = some k → s.restoreTeam g.team = some u → (u.group k).frameRetry ≠ 4 →
      exec (.groupActivation k) s = .next (u.restoreGroup k) ∧
      ((u.group k).fresh = true → ((u.restoreGroup k).group k).sched = .active ∧
        ((u.restoreGroup k).group k).core = (u.team (u.group k).team).core ∧
        ((u.restoreGroup k).group k).lanes = (u.group k).lanes ∧ (u.restoreGroup k).mem = u.mem)) ∧
    (minBy (fun k => s.prioOf k * 2 ^ 64 + (2 ^ 64 - 1 - (s.group k).since)) (s.removable c) = some k →
      (∃ w ∈ s.waitersOn c, s.prioOf k < s.prioOf w) →
      exec (.priorityWriteBack k) s = .next (s.writeBackGroup k)) ∧
    (k ∈ s.removable c → (∃ w ∈ s.waitersOn c, s.prioOf k ≤ s.prioOf w) →
      exec (.groupQuantum k) s = .next (s.writeBackGroup k)) ∧
    (k ∈ s.removable c → (g.blocked = true ∨ g.sleep ≠ 0 ∧ 4096 < g.sleepCount) → s.waitersOn c ≠ [] →
      exec (.blockedGroupWriteBack k) s = .next (s.writeBackGroup k)) ∧
    exec (.sleepExpiry k) s = .next { s with
      groups := s.groups.map fun e => (e.1, { e.2 with sleep := e.2.sleep - g.sleep }) } ∧
    (∀ l, (g.run.any fun r => !r.closed) = false → l < 32 → g.isLive l = true → 1024 ≤ g.stall.read 0 l → (∀ j < l, g.isLive j = true → g.stall.read 0 j < 1024) →
      exec (.agingIssue k) s = .next (s.setGroup k { g with aged := some l, stall := g.stall.erase l, blocked := false })) ∧
    (g.sched = .active → (∀ l < 32, g.isLive l = false ∧ g.isParked l = false) → s.frameBusy k = false →
      let u := (s.setGroup k g.drain).settle k
      let h := u.group k
      (∀ e r, h.sfq = e :: r →
        exec (.groupCompletion k) s = .next ((u.setGroup k { h with sfnew := false }).takeTrap k (storeFaultTrap h e))) ∧
      (h.sfq = [] → faultedOps h = .ok () → noImprecise h .mat = .ok () → h.ops = [] → h.wcb = [] → h.parts = [] →
        h.rels = [] → exec (.groupCompletion k) s = .next (u.endGroup k .done)))

/-- The scheduler's steps for tasks and clusters: a task whose predecessors have left is ACTIVE; the first waiting cluster
that a rectangle is allowed for takes it, and NOFIT marks a task that none would ever fit; clusters are written out for
higher priorities and at the end of their quantum, behind which alone they go to the end of their order; a completing task writes its
completion word and frees its entry (R351, R353 to R355, R361). How the completion word travels is the model's choice (log 37). -/
def Sys2Proof.Claims.TaskSteps : Prop :=
  ∀ (s : State) (n : Nat),
    ((s.task n).state = .waiting → (∀ i ∈ (s.task n).preds, s.idLive i = false) →
      exec (.taskActivation n) s = .next (s.setTask n { s.task n with state := .active })) ∧
    (∀ p, s.nextPlacement = some n → s.rectFor n = some p → exec (.clusterPlacement n) s = .next (s.place n p)) ∧
    (s.nextPlacement ≠ some n → s.waits n = true → s.everFits n = false →
      exec (.clusterPlacement n) s = .next (s.setTask (n / 2 ^ 16) { s.task (n / 2 ^ 16) with nofit := true })) ∧
    (s.outDue n = true →
      exec (.priorityWriteOut n) s = .next (s.writeOut n (if (s.cluster n).leaving = 0 then 1 else (s.cluster n).leaving))) ∧
    ((s.cluster n).placed = true → ((s.cluster n).leaving ≠ 0 ∨ ∃ w ∈ s.waiting, s.clusterPrio n ≤ s.clusterPrio w) →
      exec (.teamQuantum n) s = .next (s.writeOut n (if (s.cluster n).leaving = 0 then 3 else (s.cluster n).leaving))) ∧
    ∀ u, (s.task n).state = .completing → s.taskQuiet n = true →
      let t := s.task n
      let id := n + 2 ^ 8 * t.gen
      s.vwrite (some 0) t.record.asid t.record.done (leBytes 4 t.lowWord ++ leBytes 4 id) (decide (t.record.asid = 0)) = .ok u →
      ∃ v, exec (.taskCompletionWord n) s = .next v ∧ v.mem = u.mem ∧ v.l2 = u.l2 ∧ (v.task n).state = .free ∧
        (v.task n).result = t.lowWord ∧ (v.task n).gen = t.gen ∧ (∀ e ∈ v.groups, e.2.task ≠ n) ∧
        (∀ e ∈ v.teams, e.2.task ≠ n) ∧ (∀ e ∈ v.clusters, e.1 / 2 ^ 16 ≠ n) ∧
        ∀ e ∈ u.groups, e.2.task ≠ n → e.2.twait = some (id, none) →
          (e.1, { e.2 with twait := some (id, some t.lowWord), blocked := false }) ∈ v.groups

/-- The scheduler (R60, R70, R71, R350, R351, R353 to R355, R360, R361, R363). -/
def Obligations.Scheduling : Prop :=
  Claims.GroupSteps ∧ Claims.TaskSteps

-- Traps -----------------------------------------------------------------------------------------------------------------

/-- Taking a trap. A trap that the group's own handler takes leaves the group ACTIVE: its record, its lanes and their
program counter are saved, and the lanes stand at the handler. Any other trap makes the group HELD with its record, its
frame is written, and the record waits for the fault queue. Either way the latches are invalid and the NOPRE section has
ended; registers, predicates and heddles stay (R81, R363, R387 to R392). The model's choice: the trap of a group between two
instructions (log 10), words that no rule states (log 11), the word of FRAME_FAULT (log 14), and TPC where no lane stands in a
bundle (log 52). -/
def Obligations.TrapEntry : Prop :=
  ∀ (s : State) (k : Nat) (t : Trap),
    let g := s.group k
    let r := faultRecord (s.leaveQueues k) g t
    let h := (s.takeTrap k t).group k
    (r.cause = t.cause ∧ r.cls = t.cls ∧ r.lane = t.lane.getD g.first ∧ r.nested = g.inTrap ∧ r.group = g.gidx ∧
      r.task = g.taskId ∧ r.va = t.va ∧ r.pc = (t.pc.getD g.pc).toNat ∧ ∀ w, t.word = some w → r.word = w) ∧
    (g.localTrap t = true → g.run = none →
      h.sched = g.sched ∧ h.inTrap = true ∧ h.trec = r ∧ h.tmask = maskOfLanes g.bundle ∧
      h.tpc = (if g.bundle = [] then BitVec.ofNat 64 r.pc
        else if t.after then g.nextPc (g.lane g.first).pc else (g.lane g.first).pc) ∧
      (∀ l, h.lane l = if l ∈ g.bundle then { g.lane l with pc := g.tvec } else g.lane l) ∧ SameRegs g h ∧ SameMasks g h ∧
      h.latches = [] ∧ h.imx = none ∧ h.nopre = false ∧ (s.takeTrap k t).mem = s.mem ∧ (s.takeTrap k t).l2 = s.l2 ∧
      (s.takeTrap k t).fqWait = s.fqWait ∧ ∀ j, j ≠ k → (s.takeTrap k t).group j = s.group j) ∧
    (g.localTrap t = false →
      let u := (({ s.leaveQueues k with free := s.free + 1 }.noteGrade g.task r.grade).setGroup k
        { g.trapped t with hlanes := maskOfLanes g.bundle }).drainGroup k
      let x := { (u.group k).suspend with sched := .held, hrec := some r, frameRetry := 0, trapWait := none }
      (∀ v, (u.setGroup k x).writeFrame x = .ok v →
        s.takeTrap k t = (v.setGroup k x.free).enqueue r ∧ h.sched = .held ∧ h.hrec = some r ∧ SameRegs g h ∧
        SameMasks g h ∧ h.latches = [] ∧ h.nopre = false ∧ (s.takeTrap k t).fqWait = v.fqWait ++ [r]) ∧
      ∀ cause w va, (u.setGroup k x).writeFrame x = .error (cause, w, va) →
        s.takeTrap k t = (u.setGroup k x).frameFault k 1 (some r) w va)

/-- The traps that instructions and words take: TRAP with its word, behind the word; BRK, a debug stop while a debugger is
attached; a word that decodes to nothing; a word that cannot be fetched; and the two steps of R391 and R392 (R29, R45, R391,
R392, R398, R444). -/
def Obligations.TrapsTaken : Prop :=
  (∀ (s s1 : State) (a : Operand) (x : Word), s.issues →
    (sysPre s.begun.me [src a] (!isVec s.begun.me a) true).Passes s.begun → scalarRead s.begun a = .ok (s1, x) →
    exec (.trap a) s = .next (s1.takeTrap s1.cur { Trap.precise 0x11 (some x.toNat) with after := true })) ∧
  (∀ s : State, s.issues → { sysPre s.begun.me [] true true with inRegion := true }.Passes s.begun →
    (bitOf (s.sysv 0x600) 0 = true → exec .brk s = .next (s.begun.debugStop s.cur 1 true)) ∧
    (bitOf (s.sysv 0x600) 0 = false →
      exec .brk s = .next (s.begun.takeTrap s.cur { Trap.precise 0x10 (some 1) with after := true }))) ∧
  (∀ (s : State) (w : Word), s.me.sched = .active → (decode w).toBool = false →
    Traps (.illegalEncoding w) s (Trap.precise 0x01 none)) ∧
  (∀ (s : State) (cause word : Nat), s.me.sched = .active →
    let pc := if s.me.imx.isSome then s.begun.me.pc + 4#64 else s.begun.me.pc
    Traps (.instructionFetchFault cause word) s ⟨cause, some word, 0, none, pc.toNat, none, false, false⟩) ∧
  ∀ (s : State) (k cause word : Nat), (s.group k).sched = .active →
    let t := Trap.precise cause (some word)
    ((s.group k).localTrap t = true → exec (.localTrap k cause word) s = .next (s.takeTrap k t)) ∧
    ((s.group k).localTrap t = false → exec (.supervisorTrap k cause word) s = .next (s.takeTrap k t))

/-- RETT, FPOP and FRESUME answer a next state, in a privileged group with their operands as the rules ask: RETT returns its
lanes to TPC, or to the word after it, once what it settles has completed, at once where nothing is held or recorded;
TRAP_ACTIVE ends and the latches are invalid; a TPC that is no multiple of 4 traps ALIGN. FPOP takes a record from the device's queue, or a store-fault entry of a group, and stores it. FRESUME
resumes a HELD group (R399, R401, R402). -/
def Obligations.TrapReturns : Prop :=
  (∀ (s : State) (a : Operand), s.issues →
    let g := s.begun.me
    { sysPre g [src a] (!isVec g a) g.priv with
      bundleOk := decide (g.bundle = (lanesOf g.tmask).filter g.isLive) }.Passes s.begun → g.priv = true → g.inTrap = true →
    (∀ skip seqs ids, g.rett = some (skip, seqs, ids) → g.rettOver seqs ids = true →
      exec (.rett a) s = .next (s.begun.rettEnd g [src a] skip)) ∧
    (∀ s1 x skip seqs ids, g.rett = none → scalarRead s.begun a = .ok (s1, x) → flagsOk x.toNat = true →
      g.tpc.toNat % 4 = 0 →
      (s1.rettSettle x.toNat).me.rett = some (skip, seqs, ids) → (s1.rettSettle x.toNat).me.rettOver seqs ids = true →
      exec (.rett a) s = .next ((s1.rettSettle x.toNat).rettEnd g [src a] skip)) ∧
    (g.rett = none → plainOperand a = true → flagsOk (g.scalar a).toNat = true → g.tpc.toNat % 4 ≠ 0 →
      Traps (.rett a) s (Trap.precise causeAlign none)) ∧
    (g.rett = none → plainOperand a = true → flagsOk (g.scalar a).toNat = true → g.tpc.toNat % 4 = 0 → (∀ o ∈ g.ops, o.fault = none) →
      g.sfq = [] → g.sfwait = [] →
      exec (.rett a) s = .next ((s.begun.rettSettle (g.scalar a).toNat).rettEnd g [src a]
        (bitOf (g.scalar a).toNat 0 && decide (g.trec.cls = 0))))) ∧
  (∀ (s : State) (g0 : Group) (us : List Use) (skip : Bool),
    let g := s.me
    let u := s.rettEnd g0 us skip
    let h := u.me
    let pc := if skip then s.nextWord g.core g.asid g.priv g.tpc else g.tpc
    (∀ l, l < g.lanes.length → h.lane l = if l ∈ lanesOf g.tmask then { g.lane l with pc := pc } else g.lane l) ∧ h.inTrap = false ∧
    h.latches = [] ∧ h.rett = none ∧ SameRegs g h ∧ SameMasks g h ∧ OnlyMe s u) ∧
  (∀ (s : State) (d a b : Operand) (ps : List (Nat × Place)), s.issues →
    let g := s.begun.me
    let va := g.scalar64 a
    (sysPre g [dst d, srcN a 2, srcN b 2] (isS d && !isV a && !isV b) g.priv).Passes s.begun → gateAccess g = .ok () →
    s.begun.checkAddrs g false true 1 8 [(g.first, va)] = .ok ps → s.begun.requestRoom g false = true →
    let y := g.scalar64 b
    let e := s.begun.fpopTake (if isZero b then none else some (y % 2 ^ 32, y / 2 ^ 32))
    (∀ v, e.1.storeBytes g.pc va e.2.2 = .ok v → Ends (.fpop d a b) s v v.me d 1 (sameResult (BitVec.ofNat 32 e.2.1))) ∧
    (e.2.2 = [] →
      let v := e.1.countInstant g.pc
      Ends (.fpop d a b) s v v.me d 1 (sameResult (BitVec.ofNat 32 e.2.1)))) ∧
  (∀ s : State,
    (s.fqHead = s.fqTail → s.fpopTake none = (s, 0, [])) ∧
    (s.fqHead ≠ s.fqTail → s.fpopTake none =
      ({ s.forceSys 0x223 ((s.fqTail + 1) % s.fqSize) with free := s.free + 32 }, 1, s.tailRecord)) ∧
    ∀ i id, (s.stale id = true → s.fpopTake (some (i, id)) = (s, 4, [])) ∧
      (s.stale id = false → (s.task (idSlot id)).record.groups ≤ i → s.fpopTake (some (i, id)) = (s, 5, []))) ∧
  ∀ (s s0 s1 s2 : State) (d a b : Operand) (f0 f : Word), s.issues →
    let g := s.begun.me
    (sysPre g [dst d, srcN a 2, src b] ((isS d || isZero d) && !isV a && !isVec g b) g.priv).Passes s.begun →
    scalarRead s.begun b = .ok (s0, f0) → flagsOk f0.toNat = true → s.begun.releaseWait 2 = .ok s1 →
    scalarRead s1 b = .ok (s2, f) →
    let y := s2.me.scalar64 a
    let e := s2.fresume (y % 2 ^ 32) (y / 2 ^ 32) f.toNat
    Ends (.fresume d a b) s e.1 e.1.me d 1 (sameResult (BitVec.ofNat 32 e.2))

/-- The fault queue and the frame. The record that waits longest is written at FQ_HEAD, which moves on, its index is pushed
and announced as FQ_CTL asks; a register line that is wanted comes from the frame, poisoned where it cannot be decoded, or
the frame access faults; a frame fault that waited for room is raised when there is room (R380, R381, R385, R392, R393). The model's
choice: how a line fetch goes on once its FRAME_FAULT is resumed (log 53), when the queue has room (log 77), and when an index is
pushed (log 84). -/
def Obligations.FaultQueue : Prop :=
  (∀ (s : State) (r : FaultRec) (rest : List FaultRec), s.fqWait = r :: rest →
    (s.fqRoom = false → exec .faultRecordAppend s = .next s.fqPushes) ∧
    (s.fqRoom = true →
      let u := ({ s with fqWait := rest }.linearBytes (s.sysv 0x220 + 32 * s.fqHead) r.bytes).forceSys 0x222
        ((s.fqHead + 1) % s.fqSize)
      let u := if bitOf (u.sysv 0x221) 5 then { u with fqPush := u.fqPush ++ [s.fqHead] }.fqPushes else u
      exec .faultRecordAppend s = .next (if bitOf (u.sysv 0x221) 6 then u.msix 0 else u))) ∧
  (∀ s : State, s.fqWait = [] → exec .faultRecordAppend s = .next s.fqPushes) ∧
  (∀ (s : State) (k n : Nat), (s.group k).sched = .active → (s.group k).lineWanted = some n →
    let g := s.group k
    let va := s.frameBase g + 0x800 + 128 * n
    let filled := fun (u : State) (line : Option Bytes) =>
      let h := (u.group k).fillLine n line
      (u.setGroup k { h with used := h.used.write 0 n (u.tick + 1) }).writeCkpt k
    s.frameBusy k = false →
    (∀ u b, s.vread (some g.core) g.asid va 128 true = .ok (u, b) →
      exec (.registerMissFill k n) s = .next (filled u (some b))) ∧
    (∀ w x, s.vread (some g.core) g.asid va 128 true = .error (causePoison, w, x) →
      exec (.registerMissFill k n) s = .next (filled s none)) ∧
    (∀ c w x, c ≠ causePoison → s.vread (some g.core) g.asid va 128 true = .error (c, w, x) →
      exec (.registerMissFill k n) s = .next (s.frameFault k 2 none w va))) ∧
  ∀ (s : State) (k va word : Nat), (s.group k).frameWaits = true → s.frameHeld (s.group k).core < 4 →
    (s.group k).frameLate = some (word, va) →
    let r := frameFaultRec s (s.group k) word va
    exec (.frameFault k va word) s = .next ((s.setGroup k { s.group k with hrec := some r, frameLate := none }).enqueue r)

/-- MFSR and MTSR answer a next state for every number below 0x800: MFSR gives the value of a register, with privilege for
0x100 and above; MTSR writes one; a number beyond 0x7FF is no
register; a write by a core reaches the writable bits of its register and no other stored register (R6, R386, R394, R395,
R400). -/
def Obligations.SystemRegisters : Prop :=
  (∀ (s s1 : State) (d a : Operand) (x : Word), s.issues →
    let g := s.begun.me
    let barred := match s.begun.valueAtIssue a with
      | none => false
      | some n => decide (0x100 ≤ n ∧ n < 0x800)
    { sysPre g [dstN d 2, src a] (!isVec g a) true with privOk := g.priv || !barred }.Passes s.begun →
    (g.priv = false → scoreboard g [src a] = .ok ()) → scalarRead s.begun a = .ok (s1, x) →
    (x.toNat < 0x800 → Ends (.mfsr d a) s { s1 with free := s1.free + 1 } s1.me d 2
      fun i _ => wordOf (s1.readSys s1.me x.toNat) i) ∧
    (0x800 ≤ x.toNat → Traps (.mfsr d a) s (Trap.precise 0x01 none))) ∧
  (∀ (s : State) (d a : Operand), s.issues → s.begun.me.priv = true → plainOperand a = true →
    let x := (s.begun.me.scalar a).toNat
    (sysPre s.begun.me [dstN d 2, src a] (!isVec s.begun.me a) true).Passes s.begun → x < 0x800 →
    Ends (.mfsr d a) s { s with free := s.free + 1 } s.me d 2 fun i _ => wordOf (s.begun.readSys s.begun.me x) i) ∧
  (∀ (s : State) (a b : Operand), s.issues → plainOperand a = true →
    let g := s.begun.me
    let x := (g.scalar a).toNat
    (sysPre g [src a, srcN b 2] (!isVec g a && !isV b) g.priv).Passes s.begun → x < 0x800 →
    exec (.mtsr a b) s = .next ((s.begun.finish g [src a, srcN b 2]).writeSysOf s.cur x (g.scalar64 b))) ∧
  (∀ (s s1 : State) (a b : Operand) (x : Word), s.issues →
    let g := s.begun.me
    (sysPre g [src a, srcN b 2] (!isVec g a && !isV b) g.priv).Passes s.begun → scalarRead s.begun a = .ok (s1, x) →
    (x.toNat < 0x800 → exec (.mtsr a b) s =
      .next ((s1.finish g [src a, srcN b 2]).writeSysOf s1.cur x.toNat (s1.me.scalar64 b))) ∧
    (0x800 ≤ x.toNat → Traps (.mtsr a b) s (Trap.precise 0x01 none))) ∧
  (∀ (s : State) (c n : Nat) (v : Dword), c < 288 → n < 0x800 →
    exec (.systemRegisterWrite c n v) s = .next (s.writeSys c n v.toNat)) ∧
  (∀ (s : State) (k v : Nat), v < 2 ^ 64 → ((s.writeSysOf k 0x210 v).group k).tvec.toNat = v % 2 ^ 52 / 4 * 4) ∧
  ∀ (s : State) (n v : Nat), n < 0x800 → v < 2 ^ 64 →
    let u := s.setSys n v
    (∀ b, b < 64 → (u.sysv n).testBit b = if (sysWritable n).testBit b then v.testBit b else (s.sysv n).testBit b) ∧
    (∀ m, m ≠ n → u.sysv m = s.sysv m) ∧ u.mem = s.mem ∧ u.groups = s.groups ∧ u.cores = s.cores

-- Resilient memory ------------------------------------------------------------------------------------------------------

/-- The MAINT instructions and their status: MSCRUB visits its pages; MRETIRE retires a slot; MREPAIR answers when its
repair has ended, or that it cannot start; MREBUILD queues, pauses and resumes; MDROP drops a channel; MPLACE migrates a
page; MINJECT places a fault; MSTAT reports (R417, R418, R427 to R433). -/
def Obligations.MaintInstructions : Prop :=
  ∀ (s s1 s2 : State) (d a b : Operand) (x y : Word), s.issues →
    let g := s.begun.me
    let pre := fun (b : Operand) => maintPre g [dst d, src a, src b] ((isS d || isZero d) && !isVec g a && !isVec g b)
    let ends := fun (i : Instr) (u : State) (w : Nat) => Ends i s u s2.me d 1 (sameResult (BitVec.ofNat 32 w))
    let ch := x.toNat
    let n := y.toNat
    let c := s2.chan ch
    let r := s2.res.rebuild
    (scalarRead s.begun a = .ok (s1, x) → scalarRead s1 b = .ok (s2, y) → (pre b).Passes s.begun →
      (1 ≤ n → n ≤ 4096 → ch + n ≤ Config.lastPage + 1 →
        let e := s2.scrubPages ch n
        ends (.mscrub d a b) e.1 (Nat.min e.2.1 65535 + 2 ^ 16 * Nat.min e.2.2 65535)) ∧
      ((n = 0 ∨ 4096 < n ∨ Config.lastPage + 1 < ch + n) → Traps (.mscrub d a b) s (Trap.precise 0x02 none)) ∧
      ends (.mretire d a b) (s2.tryRetire ch n).1 (s2.tryRetire ch n).2 ∧
      ((384 ≤ ch ∨ 2 ^ 21 ≤ n) → ends (.mrepair d a b) s2 3) ∧
      (ch < 384 → n < 2 ^ 21 →
        (c.owner = s.cur + 1 → c.ended = some true →
          ends (.mrepair d a b) (s2.setChan ch { c with owner := 0, ended := none }) 0) ∧
        (c.owner ≠ s.cur + 1 →
          ((∃ i < 32, (s2.chan (32 * (ch / 32) + i)).st = .repair) → ends (.mrepair d a b) s2 5) ∧
          ((∀ i < 32, (s2.chan (32 * (ch / 32) + i)).st ≠ .repair) →
            (c.st.takes = false ∨ 2 ≤ ((List.range 384).filter fun x => x ≠ ch ∧ (s2.chan x).st = .dropped).length) →
            ends (.mrepair d a b) s2 2))) ∧
      ((384 ≤ ch ∨ 2 < n) → ends (.mrebuild d a b) s2 3) ∧
      (ch < 384 →
        (n = 0 → (c.st ≠ .dropped ∨ r.queue.contains ch = true ∨ r.cur = some ch) → ends (.mrebuild d a b) s2 2) ∧
        (n = 0 → c.st = .dropped → r.queue.contains ch = false → r.cur ≠ some ch →
          ends (.mrebuild d a b) (s2.setRebuild { r with queue := r.queue ++ [ch] }) 0) ∧
        (n = 1 ∨ n = 2 → r.cur ≠ some ch → ends (.mrebuild d a b) s2 2) ∧
        (n = 1 ∨ n = 2 → r.cur = some ch →
          ends (.mrebuild d a b) (s2.setRebuild { r with paused := decide (n = 1) }) 0))) ∧
    (scalarRead s.begun a = .ok (s2, x) → (pre .zero).Passes s.begun →
      (384 ≤ ch → ends (.mdrop d a) s2 3) ∧
      (ch < 384 → (c.st = .dropped ∨ c.st = .retired) → ends (.mdrop d a) s2 2) ∧
      (ch < 384 → c.st ≠ .dropped → c.st ≠ .retired → ends (.mdrop d a) (s2.dropChannel ch 0) 0)) ∧
    (s2 = s.begun → (maintPre g [dst d, srcN a 2, srcN b 2] ((isS d || isZero d) && !isV a && !isV b)).Passes s.begun →
      let va := g.scalar64 a
      let asid := bitsOf (g.scalar64 b) 0 16
      let ppn := bitsOf (g.scalar64 b) 16 24
      let bad := bitsOf (g.scalar64 b) 40 24 ≠ 0 ∨ Config.reservedPage ≤ ppn
      (bad → ends (.mplace d a b) s2 3) ∧
      (¬bad → s2.res.retiring.isSome = true → ends (.mplace d a b) s2 5) ∧
      (¬bad → s2.res.retiring = none → ∀ root pa e, s2.readPhys8 (s2.sysv 0x300 + 8 * asid) = some root →
        bitOf root 0 = true → bitsOf root 1 11 = 0 → bitsOf root 41 23 = 0 → va < 2 ^ 52 →
        s2.leafAt va 4 (bitsOf root 12 29 * 4096) = some (pa, e) →
        ends (.mplace d a b) (s2.migrate asid va pa e ppn) 0)) ∧
    (scalarRead s.begun b = .ok (s2, y) →
      (maintPre g [dst d, srcN a 2, srcN b 1] ((isS d || isZero d) && !isV a && !isVec g b)).Passes s.begun →
      let pa := g.scalar64 a
      let kind := bitsOf n 8 2
      let bad := 65536 * (Config.lastPage + 1) ≤ pa ∨ kind = 3 ∨ n / 2 ^ 10 ≠ 0
      (bitOf (s.sysv 0x400) 2 = false → ends (.minject d a b) s2 1) ∧
      (bitOf (s.sysv 0x400) 2 = true → bad → ends (.minject d a b) s2 3) ∧
      (bitOf (s.sysv 0x400) 2 = true → ¬bad → kind ≠ 0 →
        let u := s2.initPage (pa / 65536)
        ends (.minject d a b) { u with res := { u.res with
          chunkFault := u.res.chunkFault.write 0 (32 * (pa / 512) + pa % 512 / 32) kind } } 0) ∧
      (bitOf (s.sysv 0x400) 2 = true → ¬bad → kind = 0 →
        let u := s2.initPage (pa / 65536)
        let gone := (u.chan (u.home (pa / 512 / 128) (pa % 512 / 32)).1).st.erases
        let k := 32 * (pa / 512) + pa % 32
        let e : Byte := BitVec.ofNat 8 n
        (gone = true → ends (.minject d a b) u 0) ∧
        (gone = false → ends (.minject d a b) { u with
          mem := memSet u.mem pa (memByte u.mem pa ^^^ e)
          res := { u.res with
            s0 := u.res.s0.write 0#8 k (u.res.s0.read 0#8 k ^^^ e)
            s1 := u.res.s1.write 0#8 k (u.res.s1.read 0#8 k ^^^ gfShift (pa % 512 / 32) e) } } 0))) ∧
    ∀ m, scalarRead s.begun a = .ok (s1, x) → (maintPre g [dstN d 2, src a] (!isV d && !isVec g a)).Passes s.begun →
      (∀ w, s1.mstatWord (BitVec.toNat m) x.toNat = some w → Ends (.mstat d a m) s s1 s1.me d 2 fun i _ => wordOf w i) ∧
      (s1.mstatWord m.toNat x.toNat = none → Traps (.mstat d a m) s (Trap.precise 0x02 none))

/-- Channels, slices and scrubbing. A channel without response, or with too many uncorrectable reads, is DROPPED, once, and
no other channel changes; each requester marks a prepared slice map once; when all have, the slice hands its lines over;
the patrol scrubs the stripe that its cursor names and goes on; a repair that ends restores its row or drops its channel; a
degraded read is decoded and a dirty block written at their stripe controllers; an access that a retired slice returned is
issued again, and its first reissue marks the bucket until it is served; a linear read finds an entry of the charge table as
it is laid out (R410, R412, R414, R417, R423 to R426, R428; which cells an unfilled charge entry shows, how the reissues are
kept and what a handoff leaves behind are the model's choice: logs 57, 67, 113, 148, 149 and 155 to 159). -/
def Sys2Proof.Claims.MemorySteps : Prop :=
  (∀ (s : State) (ch : Nat), ch < 384 →
    exec (.channelNoResponseDrop ch) s = .next (s.dropChannel ch 1) ∧
    (bitsOf (s.sysv 0x400) 3 8 < (s.chan ch).uncorr.length →
      exec (.channelUncorrectableDrop ch) s = .next (s.dropChannel ch 2)) ∧
    ∀ n, ((s.chan ch).st = .dropped ∨ (s.chan ch).st = .retired → s.dropChannel ch n = s) ∧
      ((s.chan ch).st ≠ .dropped → (s.chan ch).st ≠ .retired →
        ((s.dropChannel ch n).chan ch).st = .dropped ∧ (s.dropChannel ch n).groups = s.groups ∧
        (s.dropChannel ch n).l2 = s.l2 ∧ (∀ j, j ≠ ch → (s.dropChannel ch n).chan j = s.chan j) ∧
        (bitOf (s.sysv 0x400) 0 = true → (s.dropChannel ch n).res.rebuild.queue = s.res.rebuild.queue ++ [ch]))) ∧
  (∀ (s : State) (q z : Nat), s.res.retiring = some z → q < 581 → q ∉ s.res.markers →
    exec (.prepareReceipt q) s = .next { s with res := { s.res with markers := q :: s.res.markers } }) ∧
  (∀ (s : State) (z : Nat), s.res.retiring = some z → requesters ≤ s.res.markers.length →
    ∃ t, exec .sliceHandoff s = .next t ∧ z ∈ t.res.retiredSlices ∧ t.res.gen = (s.res.gen + 1) % 4 ∧
      t.groups = s.groups ∧ ∀ e ∈ t.tlb, e.slice ≠ z) ∧
  (∀ (s : State) (k seq line : Nat),
    let b := bucketOf (128 * line)
    let mine := ((s.group k).core, b, k, seq)
    (s.res.map.read 0 b = 0 → exec (.rehashReply k seq line) s = .next s) ∧
    ∀ o a, (s.group k).ops.find? (fun o => o.seq = seq) = some o → a ∈ o.accs → a.addr / 128 = line →
      (a.st = .walk ∨ a.st = .wait) → s.res.map.read 0 b ≠ 0 →
      exec (.rehashReply k seq line) s = .next ({ s with res := { s.res with
        reissued := (s.res.reissued.filter fun (e : Nat × Nat × Nat × Nat) => s.unserved e.2.2.1 e.2.2.2 e.2.1 && decide (e ≠ mine)) ++ [mine]
        } }.moveLine k seq line .walk .wait)) ∧
  (∀ s : State, bitOf (s.sysv 0x401) 0 = true →
    ∃ t, exec (.patrolScrubVisit s.res.cursor) s = .next t ∧ t.mem = (s.scrub s.res.cursor).1.mem ∧
      t.res.cursor = (if 128 * (Config.lastPage + 1) ≤ s.res.cursor + 1 then 0 else s.res.cursor + 1)) ∧
  (∀ (s : State) (ch : Nat), (s.chan ch).st = .repair →
    let u := (s.rowChunks ch (s.chan ch).row).foldl (fun u e => u.moveChunk e.1 e.2) s
    exec (.repairEnd ch true) s = .next (u.setChan ch { u.chan ch with st := (s.chan ch).prev, ended := some true }).releaseWrites ∧
    ∃ n, exec (.repairEnd ch false) s = .next ({ s with free := s.free + 1 }.dropChannel ch n)) ∧
  (∀ (s : State) (k seq line pa : Nat) (o : Op) (a : Acc), (s.group k).op seq = some o → (s.group k).sched = .active →
    o.accs.find? (fun a => decide (a.addr / 128 = line) && (match a.st with
      | .degraded _ => true
      | _ => false)) = some a → a.st = .degraded pa →
    let g := s.group k
    exec (.degradedRead k seq line) s =
      .next (s.answer k o line (.degraded pa) (s.fetch g.asid line o.isStore false g.priv o.ret))) ∧
  (∀ (s : State) (c : Charge) (j : Nat), j < 16 → c.entry < 3904 →
    s.res.charges.find? (fun x => decide (x.entry = c.entry)) = some c →
    s.linearByte (Config.reservedBase + 0x5020C00 + 16 * c.entry + j) =
      some ((leBytes 4 (c.channel + 2 ^ 9 * c.slot + 2 ^ 31) ++ leBytes 4 c.count ++ leBytes 8 c.last).getD j 0#8)) ∧
  ∀ (s : State) (key : Nat), ((List.range 4).any fun i => (s.l2Line (key / 4 * 4 + i)).dirty) = true →
    exec (.stripeWrite key) s = .next ((s.noteBlock key).writeBack key)

/-- The three rebuild engines take the next channel, then page by page the slots that are due to each, copy each page stripe
by stripe, and give its entry the relocation; a slot is due to the engine of the die that its page lies on, if its chunk still
stands there; paused engines do nothing (R418 to R420; that the engines step one stripe at a time is the model's: log 54). -/
def Sys2Proof.Claims.RebuildSteps : Prop :=
  (∀ (s : State) (e ch pass d n p : Nat), s.slotDue e ch pass d = some (n, p) →
    n % 192 % 3 = e ∧ s.home n p = (ch, physSlot d) ∧ pageOf ch d = some (n, p)) ∧
  (∀ (s : State) (may : Nat → Bool),
    ((∃ e, e < 3 ∧ may e = true) → ∃ e, s.engineNext may = some e ∧ e < 3 ∧ may e = true) ∧
    ((∀ e, e < 3 → may e = false) → s.engineNext may = none)) ∧
  (∀ (s : State),
    let t := { s with free := s.free + 1 }
    let r := s.res.rebuild
    (∀ e, s.engineNext s.mayCopy = some e → r.paused = false ∧
      (∀ ch q, r.cur = none → r.queue = ch :: q → exec .rebuildStripeCopy s = .next (t.setRebuild { r with
        queue := q, cur := some ch, engines := [], skipped := [] })) ∧
      (∀ ch, r.cur = some ch → (s.engine e).page = none →
        (s.engine e).pass < 3 ∧ exec .rebuildStripeCopy s = .next (t.rebuildPage e ch)) ∧
      ∀ ch n p c sp, r.cur = some ch → (s.engine e).page = some (n, p, c, sp) →
        (s.engine e).t < 128 ∧ exec .rebuildStripeCopy s = .next ((t.moveChunk (128 * n + (s.engine e).t) p).setEngine e
          { s.engine e with t := (s.engine e).t + 1 })) ∧
    (∀ e n p c sp v, s.engineNext s.mayCommit = some e → (s.engine e).page = some (n, p, c, sp) →
      ppaRelocate (s.ppa n) p c sp = some v →
      128 ≤ (s.engine e).t ∧ exec .rebuildPageCommit s =
        .next ((t.setEngine e { s.engine e with page := none, t := 0 }).setPpa n
          (ppaWithState v (if ppaState (s.ppa n) = 1 then 0 else ppaState (s.ppa n))))) ∧
    (r.paused = true → exec .rebuildStripeCopy s = .next s ∧ exec .rebuildPageCommit s = .next s))

/-- Drops, retirement, scrubbing, repair and rebuild (R412, R414, R417 to R420, R423 to R425, R428). -/
def Obligations.ResilientMemory : Prop :=
  Claims.MemorySteps ∧ Claims.RebuildSteps

-- Networks and links ----------------------------------------------------------------------------------------------------

/-- Flits. One with a good CHK and the expected number goes to its slot; any other is answered with a NAK and given to none;
a link flit with a good CHK frees what it acknowledges and asks for a replay, and one with a bad CHK is answered with a NAK; a
time-out asks for a replay too; an output port whose link is up sends the next flit of a replay, and a link flit where it has
nothing to send (R328, R330 to R335, R340; how far a bridge's flits keep their plane, what the device's own packets carry and
when delivered packets are acted on are the model's choice: logs 45, 60, 62, 111 and 116). -/
def Sys2Proof.Claims.FlitSteps : Prop :=
  ∀ (s : State) (p : Nat) (f : Flit),
    let x := s.port p
    let due := f.lseq = x.expect % 256 ∧ (portKind p = .mirmar → f.frame = x.expect / 8 % 65536)
    (f.idx ≠ 15 → (f.chk ≠ flitCheck f ∨ ¬due) →
      exec (.flitArrival p f) s = .next (s.setPort p { x with nak := true })) ∧
    (f.idx ≠ 15 → f.chk = flitCheck f → due → exec (.flitArrival p f) s =
      .next (((s.setPort p { x.credit f with expect := (x.expect + 1) % 2 ^ 19, nak := false }).slotFlit p f).receive)) ∧
    (f.idx = 15 → f.chk ≠ flitCheck f → exec (.linkFlit p f) s = .next (s.setPort p { x with nak := true })) ∧
    (f.idx = 15 → f.chk = flitCheck f →
      let ack := leNat (f.payload.take 4) % 256
      let asks := bitOf (leNat (f.payload.take 4)) 8
      let left := match x.replay.findIdx? fun g => g.2.lseq = ack ∧ (portKind p ≠ .mirmar ∨ g.2.frame = f.frame) with
        | some i => x.replay.drop (i + 1)
        | none => x.replay
      let u := s.setPort p { x.credit f with
        replay := left, resend := if asks then left.map (·.2) else x.resend.filter fun g => left.any fun e => e.2 = g }
      exec (.linkFlit p f) s = .next (if asks && !left.isEmpty then u.retry p else u)) ∧
    (x.replay ≠ [] → exec (.replayTimeout p) s = .next ((s.setPort p { x with resend := x.replay.map (·.2) }).retry p)) ∧
    (s.net.peerOut = [] → s.portUp p = false → exec (.outputArbitration p) s = .next s) ∧
    (s.net.peerOut = [] → s.portUp p = true →
      (∀ r, x.resend = f :: r → ∃ t, exec (.outputArbitration p) s = .next t ∧ (t.port p).sent = x.sent ++ [f] ∧
        (t.port p).resend = r ∧ ∀ q, q ≠ p → t.port q = s.port q) ∧
      (x.resend = [] → x.out = [] → ∃ t h, exec (.outputArbitration p) s = .next t ∧ (t.port p).sent = x.sent ++ [h] ∧
        h.idx = 15 ∧ h.chk = flitCheck h ∧
        leNat (h.payload.take 4) = (x.expect + 255) % 256 + 2 ^ 8 * (if x.nak then 1 else 0) ∧
        (t.port p).nak = false ∧ ∀ q, q ≠ p → t.port q = s.port q))

/-- Links. A Mirmar link that loses lanes retrains on a whole half, and without one it is dead; a retrained link sends its
replay buffer again, at half width; a mesh link with too many retries is retired; a link that trains is up at full width;
a write of MLINK_n clears EN, or sets it and trains (R336, R337, R340, R343). -/
def Sys2Proof.Claims.LinkSteps : Prop :=
  ∀ (s : State) (l : Nat),
    let k := s.link l
    (l < 18 → (k.st = 2 ∨ k.st = 3) → ∀ lanes, lanes < 256 →
      (lanes % 16 = 15 → exec (.laneLoss l lanes) s = .next (s.setLink l { k with st := 1, lanes := 0x0F })) ∧
      (lanes % 16 ≠ 15 → lanes / 16 = 15 → exec (.laneLoss l lanes) s = .next (s.setLink l { k with st := 1, lanes := 0xF0 })) ∧
      (lanes % 16 ≠ 15 → lanes / 16 ≠ 15 → exec (.laneLoss l lanes) s = .next (s.killLink l 4))) ∧
    (l < 18 → k.st = 1 → k.lanes ≠ 0 →
      let u := s.setLink l { k with st := 3, weight := k.weight / 2 }
      exec (.retrainComplete l true) s =
        .next (u.setPort l { u.port l with half := true, resend := (u.port l).replay.map (·.2) }) ∧
      exec (.retrainComplete l false) s = .next (s.killLink l 4)) ∧
    (portKind l = .mesh → 1000 < (s.port l).retries → l ∉ s.net.meshOut →
      exec (.meshLinkRetirement l) s = .next { s with net := { s.net with meshOut := l :: s.net.meshOut } }) ∧
    (l < 18 → k.st ≠ 4 → k.st ≠ 0 → exec (.linkDeath l) s = .next (s.killLink l 4)) ∧
    (18 ≤ l → l < 210 → exec (.linkDeath l) s = .next (s.killLink l 4)) ∧
    (l < 18 → k.en = true → (k.st = 0 ∨ (k.st = 1 ∧ k.lanes = 0)) → ∀ slow peer n,
      let u := s.setLink l { k with
        st := 2, lanes := 255, peer := peer % 65536, peerLink := n % 32, slow := slow, weight := 8 }
      exec (.linkTraining l slow peer n) s = .next (u.setPort l { u.port l with half := false })) ∧
    (l < 18 → ∀ v : Dword,
      let en := v.getLsbD 3
      let u := s.setLink l { k with
        retries := v.toNat / 2 ^ 12 % 2 ^ 16, en := en, st := if en && !k.en then 1 else k.st }
      exec (.mlinkEnWrite l v) s = .next (if k.en && !en then u.killLink l 0 else u))

/-- Flits and links (R328, R330 to R337, R340, R343). -/
def Obligations.Links : Prop :=
  Claims.FlitSteps ∧ Claims.LinkSteps

/-- Requests from peers. The answer to one that is sent again is repeated from its kept copy; one that no incoming window
admits is refused, and so is a write whose lines cannot all be reached; an admitted write or atomic waits behind the regions
that hold its lines, and a load behind a commit; any other load, store, copy, push or query is served as an access of its
address space, and its answer is kept until it is acknowledged; data that cannot be decoded answers POISON; a lost packet is
sent again where a route is left, and fails elsewhere (R287, R319, R337, R341, R457 to R459; the codes of an answer's status
byte, which packet a kept copy belongs to and the class of an answer are the model's choice: logs 9, 21 and 154). -/
def Obligations.PeerSteps : Prop :=
  (∀ (s : State) (q : PeerReq),
    let copies := s.net.kept.filter fun p => decide (p.ddev = q.sdev ∧ p.dst = q.src ∧ p.tag = q.tag)
    let answered := fun (u : State) => exec (.peerRequestAdmission q) s = .next u
    let isRefused := answered (s.answerPeer q 1 false [])
    (copies ≠ [] → answered { s with net := { s.net with peerOut := s.net.peerOut ++ copies } }) ∧
    (copies = [] → (∀ e ∈ s.net.held, e.1 ≠ q) →
      (s.admits q = false → isRefused) ∧
      (s.admits q = true →
        (q.kind = .load → s.peerHeld q = true →
          answered { s with net := { s.net with held := s.net.held ++ [(q, none)] } }) ∧
        (q.kind = .load → s.peerHeld q = false →
          (∀ u bs, s.vread none q.asid q.va q.n (peerPriv q) = .ok (u, bs) → answered (u.answerPeer q 0 false bs)) ∧
          ∀ c a x, s.vread none q.asid q.va q.n (peerPriv q) = .error (c, a, x) →
            answered (s.answerPeer q (if c = causePoison then 0 else 1) (decide (c = causePoison))
              (if c = causePoison then zeros q.n else []))) ∧
        (peerStores q.kind = true → (s.peerPass q).2 = false → isRefused) ∧
        (peerStores q.kind = true → (s.peerPass q).2 = true →
          (¬(q.kind = .copyWrite ∧ bitOf q.chain 2 = true) → answered ((s.peerPass q).1.settlePeer q none)) ∧
          (q.kind = .copyWrite → bitOf q.chain 2 = true →
            (s.foldChain q = none → isRefused) ∧
            ∀ cs v, s.foldChain q = some (cs, v) → answered ({ (s.peerPass q).1 with
              net := { (s.peerPass q).1.net with chains := cs } }.settlePeer q
                (if bitOf q.chain 1 then some v else none)))) ∧
        (q.kind = .push → s.peerHeld q = false → s.qidHere q.va = true → s.qidLive q.va = true →
          let x := s.queue (qidCore q.va) (qidIndex q.va)
          let ws := (List.range (q.data.length / 4)).map fun i =>
            BitVec.ofNat 32 (leNat ((q.data.drop (4 * i)).take 4))
          (x.entries.length + s.reserved q.va + ws.length ≤ 2 ^ x.logcap →
            answered ((s.setQueue (qidCore q.va) (qidIndex q.va)
              { x with entries := x.entries ++ ws.map fun w => (w, q.psn) }).answerPeer q 0 false [])) ∧
          (2 ^ x.logcap < x.entries.length + s.reserved q.va + ws.length → answered (s.answerPeer q 3 false []))) ∧
        (q.kind = .query → s.peerHeld q = false → s.qidHere q.va = true → s.qidLive q.va = true →
          let x := s.queue (qidCore q.va) (qidIndex q.va)
          (x.asid = q.asid → answered (s.answerPeer q 0 false (leBytes 1 x.logcap))) ∧
          (x.asid ≠ q.asid → isRefused))))) ∧
  (∀ (s : State) (q : PeerReq) (final : Option Word),
    (s.peerHeld q = true →
      s.settlePeer q final = { s with net := { s.net with held := s.net.held ++ [(q, final)] } }) ∧
    (s.peerHeld q = false → q.kind = .store → s.settlePeer q final =
      (s.peerWrite q (q.data.length / 128 + 2) q.va q.data).answerPeer q 0 false []) ∧
    (∀ e, s.net.held.find? (fun e => !s.peerHeld e.1) = some e → execPeerHeldRelease s =
      .next ({ s with net := { s.net with held := s.net.held.erase e } }.servePeer e.1 e.2))) ∧
  (∀ (s : State) (dev unit tag : Nat), dev < 65536 → unit < 65536 →
    exec (.replyAcknowledgement ((tag * 65536 + unit) * 65536 + dev)) s =
      .next { s with net := { s.net with
        kept := s.net.kept.filter fun p => !decide (p.ddev = dev ∧ p.dst = unit ∧ p.tag = tag) } }) ∧
  (∀ (s : State) (k seq : Nat) (e : OutPkt × Nat × Nat), s.net.tags.find? (fun e => decide (e.2 = (k, seq))) = some e →
    let r := s.peerLive e.1.ddev
    (r.2 = true → exec (.lostNotice k seq) s =
      .next { r.1 with net := { r.1.net with peerOut := r.1.net.peerOut ++ [{ e.1 with resend := true }] } }) ∧
    (r.2 = false → e.2 = (k, seq) → exec (.lostNotice k seq) s =
      .next ({ r.1 with net := { r.1.net with tags := r.1.net.tags.erase e } }.unreachable k seq))) ∧
  ∀ (s : State) (k seq : Nat) (p : Part), k ≠ noGroup → p.kind.isCopy = false →
    (s.group k).parts.find? (fun p => p.ops.contains seq && (match p.st with
      | .ext false => true
      | _ => false)) = some p →
    s.unreachable k seq = s.partTo k p.id (.failed 0 0)

-- The device ------------------------------------------------------------------------------------------------------------

/-- Invalidation of translations. Each scope leaves no entry that it names, keeps every other entry, clears the marks of each
L2 line that it covers, removes each such line from every L1, and changes neither memory nor any group; a write of a window's
or a handover's control register takes its writable bits and leaves no entry, mark or L1 line of the range it now names,
VA[51:48] not compared; a write of MIRMAR_RT empties the routes that the ports have cached (R178, R181, R342, R442, R457). -/
def Obligations.TranslationWrites : Prop :=
  (∀ (s : State) (asid vpn region : Nat),
    let drops := fun (t : State) (k : Nat → Bool) => t.mem = s.mem ∧ t.groups = s.groups ∧
      t.l2 = (s.l2.map fun e => if k e.1 then (e.1, { e.2 with marks := none }) else e) ∧
      t.cores = s.cores.map fun e => (e.1, { e.2 with l1 := e.2.l1.filter fun x => !k x.1 })
    (∃ t, exec .tlbInvalAll s = .next t ∧ t.tlb = [] ∧ drops t fun _ => true) ∧
    (∃ t, exec (.tlbInvalAsid asid) s = .next t ∧ t.tlb = s.tlb.filter (fun e => decide (e.asid ≠ asid)) ∧
      drops t fun k => decide (k / 2 ^ 45 = asid)) ∧
    (∃ t, exec (.tlbInvalRegion asid region) s = .next t ∧
      (drops t fun k => decide (k / 2 ^ 45 = asid ∧ 128 * (k % 2 ^ 45) / 2 ^ 25 % 2 ^ 23 = region % 2 ^ 23)) ∧
      t.tlb = s.tlb.filter fun e => !(decide (e.asid = asid) && decide (region % 2 ^ 23 =
        (if e.level = 0 then e.base / 2 ^ 9 % 2 ^ 23 else e.base % 2 ^ 23)))) ∧
    ∃ t, exec (.tlbInvalPage asid vpn) s = .next t ∧
      (drops t fun k => decide (k / 2 ^ 45 = asid ∧ 128 * (k % 2 ^ 45) / 2 ^ 16 % 2 ^ 32 = vpn % 2 ^ 32)) ∧
      t.tlb = s.tlb.filter fun e => !(decide (e.asid = asid) &&
        (if e.level = 0 then decide (e.base % 2 ^ 32 = vpn % 2 ^ 32)
          else decide (e.base % 2 ^ 23 = vpn / 2 ^ 9 % 2 ^ 23)))) ∧
  (∀ (s : State) (n : Nat) (v : Dword), n < 16 → ∀ i r, (i = .pwinCtlWrite n v ∧ r = 0x5C0 + 4 * n ∨
      i = .hovCtlWrite n v ∧ r = 0x7C0 + 4 * n) →
    ∃ t, exec i s = .next t ∧ t.mem = s.mem ∧ t.groups = s.groups ∧
      (∀ b, b < 64 → (t.sysv (r + 3)).testBit b =
        if (sysWritable (r + 3)).testBit b then v.toNat.testBit b else (s.sysv (r + 3)).testBit b) ∧
      (∀ m, m ≠ r + 3 → t.sysv m = s.sysv m) ∧
      ∀ va, t.sysv r ≤ va → va < t.sysv r + t.sysv (r + 1) →
        (∀ e ∈ t.tlb, e.asid = bitsOf (t.sysv (r + 3)) 16 16 →
          (e.level = 0 → va / 2 ^ 16 % 2 ^ 32 ≠ e.base % 2 ^ 32) ∧
          (e.level ≠ 0 → va / 2 ^ 25 % 2 ^ 23 ≠ e.base % 2 ^ 23)) ∧
        ∀ k, k / 2 ^ 45 = bitsOf (t.sysv (r + 3)) 16 16 → k % 2 ^ 41 = va / 128 % 2 ^ 41 →
          (∀ e ∈ t.l2, e.1 = k → e.2.marks = none) ∧ ∀ c ∈ t.cores, ∀ x ∈ c.2.l1, x.1 ≠ k) ∧
  ∀ (s : State) (v : Dword), ∃ t, exec (.mirmarRtWrite v) s = .next t ∧ t.net.routes = [] ∧ t.mem = s.mem ∧
    t.groups = s.groups ∧ t.sysv 0x501 / 2 ^ 12 % 2 ^ 29 = v.toNat / 2 ^ 12 % 2 ^ 29

/-- Phases and features. FEAT is written only while every task is FREE, and a level above 3 acts as 3; DRAIN starts and ends
draining; when the last task has gone the device is DRAINED, with interrupt vector 2; a grade-E event leads to RESETNEEDED,
and every task is killed with it; EVACK takes what is written (R438, R446, R447; that such a level reads back as 3 is the
model's choice: log 162). -/
def Sys2Proof.Claims.PhaseSteps : Prop :=
  (∀ (s : State) (v : Dword),
    ((∃ e ∈ s.tasks, e.2.state ≠ .free) → exec (.featWrite v) s = .next s) ∧
    ((∀ e ∈ s.tasks, e.2.state = .free) → exec (.featWrite v) s = .next (s.setSys 0x700
      (v.toNat - v.toNat / 2 ^ 16 % 2 ^ 16 * 2 ^ 16 + Nat.min 3 (v.toNat / 2 ^ 16 % 2 ^ 16) * 2 ^ 16))) ∧
    ∃ t, exec (.evackWrite v) s = .next t ∧ t.mgmt.acked = v.toNat ∧ t.mgmt.log = s.mgmt.log ∧ t.mem = s.mem) ∧
  (∀ s : State,
    (∃ t, exec .drainSet s = .next t ∧ bitOf (t.sysv 0x703) 3 = true ∧ t.phase = (if s.phase = 1 then 2 else s.phase) ∧
      t.groups = s.groups ∧ t.tasks = s.tasks) ∧
    (∃ t, exec .drainClear s = .next t ∧ bitOf (t.sysv 0x703) 3 = false ∧
      t.phase = (if s.phase = 2 ∨ s.phase = 3 then 1 else s.phase) ∧ t.groups = s.groups ∧ t.tasks = s.tasks) ∧
    (s.phase = 2 → bitOf (s.sysv 0x703) 3 = true → (∀ e ∈ s.tasks, e.2.state = .free) →
      ∃ t, exec .drained s = .next t ∧ t.phase = 3 ∧ t.mgmt.msix = s.mgmt.msix ++ [2] ∧ t.groups = s.groups) ∧
    ((∃ r ∈ s.mgmt.log, r.grade = 5) → s.phase ≠ 4 →
      exec .resetneeded s = .next (((s.tasks.filter fun e => decide (e.2.state ≠ .free)).map
        (·.1)).foldl (fun u k => (u.noteGrade k 5).killTask k) (s.setPhase 4)))) ∧
  ∀ s : State, (s.setPhase 4).phase = 4

/-- Debugging. RESUME and STEP act on a group that is in a debug stop, STOP on one that has not ended and is in none; a
group that is due makes its stop before it issues: it was told to, its step has ended, or it stands at a breakpoint,
but not while a step is inside an open latch run; at a breakpoint it is the bundle that would issue next that counts (R60,
R87, R443, R444). -/
def Sys2Proof.Claims.DebugSteps : Prop :=
  (∀ (s : State) (task group k : Nat), s.debugGroup task group = some k →
    ((s.group k).dbgStop = true → (s.group k).hrec.isSome = true →
      exec (.dbgCmdResume task group) s = .next (s.resume k 0) ∧
      exec (.dbgCmdStep task group) s = .next ((s.resume k 0).setGroup k { (s.resume k 0).group k with
        stepBlocked := false, dbgStep := if bitsOf ((s.resume k 0).sysv 0x600) 1 2 = 2 then 2 else 1 })) ∧
    ((s.group k).dbgStop = false →
      exec (.dbgCmdResume task group) s = .next s ∧ exec (.dbgCmdStep task group) s = .next s) ∧
    ((∃ e ∈ s.groups, e.1 = k) → (s.group k).ended = false → (s.group k).dbgStop = false →
      exec (.dbgCmdStop task group) s = .next (s.setGroup k { s.group k with dbg := true })) ∧
    ((∀ e ∈ s.groups, e.1 ≠ k) → (s.newGroup k).ended = false → (s.newGroup k).dbgStop = false →
      ∃ t, exec (.dbgCmdStop task group) s = .next t ∧ t.group k = { s.newGroup k with dbg := true } ∧
        ∀ j, j ≠ k → t.group j = s.group j)) ∧
  ∀ (s : State) (k : Nat), (s.group k).sched = .active →
    ((s.group k).inStep = true → exec (.breakpointHit k) s = .next s) ∧
    ((s.group k).inStep = false → (s.group k).dbg = true → exec (.breakpointHit k) s = .next (s.debugStop k 4 false)) ∧
    ((s.group k).inStep = false → (s.group k).dbg = false → (s.group k).dbgStep = 4 → exec (.breakpointHit k) s = .next (s.debugStop k 3 false)) ∧
    ((s.group k).inStep = false → (s.group k).dbg = false → (s.group k).dbgStep ≠ 4 → s.breakpointDue k = true →
      exec (.breakpointHit k) s = .next ((s.setGroup k (s.group k).ready).debugStop k 2 false))

/-- In-field tests. A core leaves service and its test begins when it is empty; a channel is tested in WATCH, and any other
unit fails to start; a core that passes is in service with all its parts, and a channel that passes is UP without charges
(R445). -/
def Sys2Proof.Claims.FieldTests : Prop :=
  ∀ (s : State) (u : Nat),
    (s.iftState ≠ 1 → s.iftState ≠ 2 →
      (u < 288 → exec (.iftCoreTest u) s = .next { (s.setCore u { s.core u with out := true }).setIft 1 false false with
        mgmt := { s.mgmt with ift := some (0, u) } }) ∧
      (288 ≤ u → exec (.iftCoreTest u) s = .next (s.setIft 4 false false)) ∧
      (u < 384 → (s.chan u).st = .watch → exec (.iftChannelTest u) s = .next { s.setIft 2 false false with
        mgmt := { s.mgmt with ift := some (1, u) } }) ∧
      ((384 ≤ u ∨ (s.chan u).st ≠ .watch) → exec (.iftChannelTest u) s = .next (s.setIft 4 false false))) ∧
    (s.mgmt.ift = some (0, u) → s.iftState = 1 →
      exec (.iftCoreTest u) s = .next (if s.coreEmpty u then s.setIft 2 false false else s)) ∧
    (s.mgmt.ift = some (0, u) → s.iftState = 2 → ∃ t, exec (.iftTestEnd true) s = .next t ∧ t.mgmt.ift = none ∧
      t.iftState = 3 ∧ (t.core u).slotRetired = [] ∧ (t.core u).pipesOff = [] ∧ (t.core u).coreOff = false ∧
      (t.core u).arrayOff = false ∧ (t.core u).spareOut = false ∧ (t.core u).out = false ∧ t.groups = s.groups ∧ t.mem = s.mem) ∧
    (s.mgmt.ift = some (1, u) → s.iftState = 2 → (s.chan u).st = .watch → ∃ t, exec (.iftTestEnd true) s = .next t ∧
      t.mgmt.ift = none ∧ t.iftState = 3 ∧ (t.chan u).st = .up ∧ (∀ c ∈ t.res.charges, c.channel ≠ u) ∧
      t.groups = s.groups ∧ t.mem = s.mem)

/-- Debugging and in-field tests (R443 to R445). -/
def Obligations.DebugAndTest : Prop :=
  Claims.DebugSteps ∧ Claims.FieldTests

/-- The host port. BAR 0 takes aligned 8-byte accesses: a write to a core's window is an MTSR of that core, a read is an
MFSR of it, and any other access is an event and reads as ones; BAR 2 reaches placed pages, byte by byte; a measurement
request gets FEAT and the digest of the persistent state in block 3, and what start-up measured in the blocks before it
(R436, R437, R441; the digests are free values, and the encoding of the persistent state is the model's choice: logs 122 and
160; bytes that a read cannot decode are free: log 70). -/
def Obligations.HostPort : Prop :=
  (∀ (s : State) (off size : Nat) (v : Dword),
    (¬(size = 8 ∧ off % 8 = 0 ∧ off < 2 ^ 26) → exec (.bar0Write off size v) s = .next s.hostEvent ∧
      exec (.bar0Read off size) s = .next (s.hostEvent.toHost (List.replicate size 0xFF#8))) ∧
    (size = 8 → off % 8 = 0 → off < 2 ^ 26 →
      (∀ c n, c < 288 → off = 0x8000 * c + 8 * n → 0x100 ≤ n → n < 0x800 → n ≠ 0x210 → n ≠ 0x211 →
        exec (.bar0Write off size v) s = .next (s.writeSys c n v.toNat) ∧
        exec (.bar0Read off size) s = .next ({ s with free := s.free + 1 }.toHost (leBytes 8 (s.readReg c n)))) ∧
      (0x1000000 ≤ off → off < 0x1000080 → ∃ t, exec (.bar0Write off size v) s = .next t ∧ t.sys = s.sys ∧
        t.groups = s.groups ∧ t.bar0Word off = v.toNat))) ∧
  (∀ (s : State) (off : Nat) (b : Byte), off < 2 ^ 28 →
    let b0 := bitsOf (s.sysv 0x702) 0 12
    let pa := (if 0x9C7 < b0 then 0 else b0) * 2 ^ 28 + off
    (bar2Reaches pa = true → exec (.bar2Access off 1 (some [b])) s = .next (s.linearBytes pa [b]) ∧
      ∀ x, s.linearByte pa = some x →
        exec (.bar2Access off 1 none) s = .next ({ s with free := s.free + 1 }.toHost [x])) ∧
    (bar2Reaches pa = false → exec (.bar2Access off 1 (some [b])) s = .next s ∧
      exec (.bar2Access off 1 none) s = .next ({ s with free := s.free + 1 }.toHost [0xFF#8]))) ∧
  ∀ (s : State) (block : Nat), ∃ t bs, exec (.spdmRequest block) s = .next t ∧ t = { s with free := s.free + 1 }.toHost bs ∧
    (block = 3 → bs.take 8 = leBytes 8 (s.sysv 0x700) ∧ (bs.drop 8).take 48 = digestOf s.persistent.bytes) ∧
    ∀ d e, s.mgmt.measured = some (d, e) → (block = 1 → bs.take d.length = d) ∧ (block = 2 → bs.take e.length = e)

/-- Resets and start-up. A cold reset loses device memory and takes persistent state from the flash; a warm and a function
reset keep it; all tasks, groups and registers are gone after any of them, and the device is BOOTING; a start-up whose
images verify measures them and leaves that phase, and another marks the failure; the persistent state can be saved (R417,
R439, R440, R447; what a reset of no given effect keeps, and that unsaved dirty blocks may be lost, is the model's: logs 71,
72, 114 and 160). -/
def Obligations.Resets : Prop :=
  (∀ (s : State) (i : Instr), (i = .coldReset ∨ i = .warmReset ∨ i = .functionReset) →
    ∃ t, exec i s = .next t ∧ t.groups = [] ∧ t.teams = [] ∧ t.clusters = [] ∧ t.tasks = [] ∧ t.l2 = [] ∧ t.tlb = [] ∧
      t.sys = [] ∧ t.phase = 0 ∧ t.fqWait = [] ∧ t.net.links = [] ∧ t.mgmt.flash = s.mgmt.flash ∧
      (i = .coldReset → t.mem = [] ∧ t.mgmt.cold = true ∧ t.net.meshOut = s.mgmt.flash.meshOut) ∧
      (i ≠ .coldReset → t.mgmt.cold = false ∧ t.net.meshOut = s.net.meshOut ∧
        ((∀ e ∈ s.l2, e.2.dirty = false) → s.res.heldW = [] → ∀ a, a < Config.reservedBase → t.byteAt a = s.byteAt a))) ∧
  (∀ s : State,
    (s.phase ≠ 0 → ∀ ok, exec (.startUp ok) s = .next s) ∧
    (s.phase = 0 → ∃ t, exec (.startUp false) s = .next t ∧ t.phase = 0 ∧ bitOf (t.sysv 0x703) 4 = true ∧ t.mem = s.mem) ∧
    (s.phase = 0 → ∃ t, exec (.startUp true) s = .next t ∧ t.phase = (if bitOf (s.sysv 0x703) 3 then 2 else 1) ∧
      bitOf (t.sysv 0x703) 4 = false ∧ t.mgmt.cold = false ∧ t.groups = s.groups ∧
      t.mgmt.measured = some (digestOf Config.isabyImage, digestOf Config.firmwareImage)) ∧
    ∃ t, exec .persistentStateSave s = .next t ∧ t.mgmt.flash = s.persistent ∧ t.mem = s.mem ∧ t.groups = s.groups)

/-- Health and the clock. An update advances GEN by two and copies the log's length, the worst unacknowledged grade and the
phase; a sag sets its control to 12 of 16 and is counted; each step moves a control by one within 4 to 16; a thermal trip
stops the clocks with a grade-E event (R446, R449). -/
def Sys2Proof.Claims.HealthAndClock : Prop :=
  ∀ s : State,
    (∃ t, exec .healthTableUpdate s = .next t ∧ t.mgmt.tableGen = (s.mgmt.tableGen + 2) % 2 ^ 64 ∧
      t.mgmt.tableHead = s.mgmt.log.length ∧ t.mgmt.tableWorst = s.mgmt.worst ∧ t.mgmt.tablePhase = s.phase ∧
      t.mgmt.log = s.mgmt.log ∧ t.mem = s.mem ∧ t.groups = s.groups) ∧
    exec .supplySag s = .next { s with mgmt := { s.mgmt with kSag := 12, sags := (s.mgmt.sags + 1) % 2 ^ 32 } } ∧
    (∀ power hot, exec (.clockStep true power hot) s =
      .next { s with mgmt := { s.mgmt with kSag := Nat.min 16 (s.mgmt.kSag + 1) } }) ∧
    (∀ power hot, let m := s.mgmt
      let l := Nat.max 1000 (Nat.min 3200 (s.sysv 0x704 % 2 ^ 12))
      exec (.clockStep false power hot) s = .next { s with mgmt := { m with
        kPwr := if l < power then Nat.max 4 (m.kPwr - 1) else if 100 * power ≤ 95 * l then Nat.min 16 (m.kPwr + 1) else m.kPwr
        kHot := if hot then Nat.max 4 (m.kHot - 1) else Nat.min 16 (m.kHot + 1) } }) ∧
    ∃ t r, exec .thermalTrip s = .next t ∧ t.mgmt.stopped = true ∧ t.mgmt.log = s.mgmt.log ++ [r] ∧ r.grade = 5 ∧
      t.groups = s.groups ∧ t.mem = s.mem

/-- Phases, features, health and the clock (R438, R446, R447, R449). -/
def Obligations.DrainAndHealth : Prop :=
  Claims.PhaseSteps ∧ Claims.HealthAndClock

-- Reset, words, memory --------------------------------------------------------------------------------------------------

/-- What reset leaves: the device is BOOTING, no task, group or cached line exists, memory has its canonical form, and the
registers hold the values of their tables (R94, R168, R184, R396, R438, R443, R447; the list form of
memory is the model's). -/
def Obligations.ResetState : Prop :=
  let s := State.reset
  s.phase = 0 ∧ s.groups = [] ∧ s.tasks = [] ∧ s.l2 = [] ∧ s.tlb = [] ∧ s.fqWait = [] ∧ s.mgmt.log = [] ∧ s.memWf ∧
  s.sysv 0x502 = 0xFFFF ∧ s.sysv 0x700 = 0x30003 ∧ s.sysv 0x221 = 0 ∧ s.sysv 0x600 = 0 ∧ (s.core 0).sysv 0x120 = 0x13 ∧
  (s.core 287).sysv 0x130 = 0x27 ∧
  ∀ c j, c < 288 → j < 24 → (s.core c).bankMode j = if j < 15 then 0 else if j = 15 then 2 else 1

/-- Words of some families, written from the formats and the opcode map, and the instructions that they are (R30, R42). -/
def Obligations.DecodeWords : Prop :=
  decode (0x08#6 ++ 0#1 ++ 0x01#7 ++ 0x02#7 ++ 0x43#7 ++ 0#4) = .ok (.add false (.v 1) (.v 2) (.s 3)) ∧
  decode (0x10#6 ++ 1#1 ++ 0x70#7 ++ 0x3F#7 ++ 0x7FF#11) = .ok (.addi true .zero (.v 63) 0x7FF#11) ∧
  decode (0x01#6 ++ 0x0#4 ++ 0x3FFFFF#22) = .ok (.brt 0#4 0x3FFFFF#22) ∧
  decode (0x03#6 ++ 0x0000010#26) = .ok (.call 0x10#26) ∧
  decode (0x28#6 ++ 0xF#4 ++ 0x04#7 ++ 0x08#7 ++ 4#3 ++ 0#2 ++ 0#1 ++ 0#1 ++ 1#1) =
    .ok (.ldv 0xF#4 (.v 4) (.v 8) 4#3 0#2 false false true) ∧
  decode (0x3E#6 ++ 0x1234567#26) = .ok (.imx 0x1234567#26) ∧
  decode (0x04#6 ++ 0#1 ++ 0x70#7 ++ 0x70#7 ++ 0x70#7 ++ 6#4) = .ok .nop ∧
  (decode 0#32).toBool = false ∧ (decode 0xFFFFFFFF#32).toBool = false

/-- Every step keeps the canonical form of device memory: addresses rise, and no entry equals what an unlisted address reads
as (derived from the model of memory; 01_machine.md, 15_resilience.md). -/
def Obligations.MemoryStaysCanonical : Prop := ∀ s t : State, s.memWf → step s = .next t → t.memWf
end

