-- ==== Sys2Proof/Laws/Tab.lean ====
section
/-! SUPPORT. Reading, writing and the canonical form of sparse maps and of device memory. -/
namespace Sys2Proof

section tables

variable {α : Type}

@[simp] theorem Tab.read_nil (d : α) (k : Nat) : Tab.read d [] k = d := rfl

theorem Tab.read_erase (d : α) (t : Tab α) (k j : Nat) :
    (t.erase k).read d j = if j = k then d else t.read d j := by
  induction t with
  | nil => simp [Tab.erase, Tab.read]
  | cons e t ih =>
    obtain ⟨i, v⟩ := e
    by_cases h : i = k <;> by_cases hj : j = k <;> by_cases hi : i = j <;>
      simp_all [Tab.erase, Tab.read]

theorem Tab.read_insert (d : α) (t : Tab α) (k j : Nat) (v : α) (h : j ≠ k) :
    (t.insert k v).read d j = t.read d j := by
  induction t with
  | nil => simp [Tab.insert, Tab.read, Ne.symm h]
  | cons e t ih =>
    obtain ⟨i, w⟩ := e
    by_cases hk : k < i
    · simp [Tab.insert, Tab.read, hk, Ne.symm h]
    · simp only [Tab.insert, hk, if_false, Tab.read, ih]

theorem Tab.insert_read_self (d : α) (t : Tab α) (k : Nat) (v : α) (h : ∀ e ∈ t, e.1 ≠ k) :
    (t.insert k v).read d k = v := by
  induction t with
  | nil => simp [Tab.insert, Tab.read]
  | cons e t ih =>
    obtain ⟨i, w⟩ := e
    have hi : i ≠ k := h (i, w) (by simp)
    by_cases hk : k < i
    · simp [Tab.insert, Tab.read, hk]
    · simp [Tab.insert, Tab.read, hk, hi]
      exact ih fun e he => h e (by simp [he])

theorem Tab.mem_erase (t : Tab α) (k : Nat) : ∀ e ∈ t.erase k, e.1 ≠ k := by
  induction t with
  | nil => simp [Tab.erase]
  | cons e t ih =>
    obtain ⟨i, w⟩ := e
    by_cases hk : i = k
    · simpa [Tab.erase, hk] using ih
    · intro x hx
      simp only [Tab.erase, hk, if_false, List.mem_cons] at hx
      rcases hx with rfl | hx
      · exact hk
      · exact ih x hx

/-- A read after a put at the same key gives the value; every other key reads as before. -/
@[simp] theorem Tab.read_put (d : α) (t : Tab α) (k j : Nat) (v : α) :
    (t.put k v).read d j = if j = k then v else t.read d j := by
  unfold Tab.put
  by_cases h : j = k
  · subst h
    simp [Tab.insert_read_self d _ j v (Tab.mem_erase t j)]
  · simp [h, Tab.read_insert, Tab.read_erase]

theorem Tab.erase_of_not_mem (t : Tab α) (k : Nat) (h : ∀ e ∈ t, e.1 ≠ k) : t.erase k = t := by
  induction t with
  | nil => rfl
  | cons e t ih =>
    obtain ⟨i, w⟩ := e
    have hi : i ≠ k := h (i, w) (by simp)
    simp [Tab.erase, hi, ih fun e he => h e (by simp [he])]

theorem Tab.erase_insert (t : Tab α) (k : Nat) (v : α) : (t.insert k v).erase k = t.erase k := by
  induction t with
  | nil => simp [Tab.insert, Tab.erase]
  | cons e t ih =>
    obtain ⟨i, w⟩ := e
    by_cases hk : k < i
    · simp [Tab.insert, Tab.erase, hk]
    · simp [Tab.insert, Tab.erase, hk, ih]

/-- The latest put at a key counts. -/
@[simp] theorem Tab.put_put (t : Tab α) (k : Nat) (v w : α) : (t.put k v).put k w = t.put k w := by
  unfold Tab.put
  rw [Tab.erase_insert, Tab.erase_of_not_mem _ _ (Tab.mem_erase t k)]

/-- A read after a write at the same key gives the value; every other key reads as before. -/
@[simp] theorem Tab.read_write [DecidableEq α] (d : α) (t : Tab α) (k j : Nat) (v : α) :
    (Tab.write d t k v).read d j = if j = k then v else t.read d j := by
  unfold Tab.write
  by_cases h : v = d
  · simp [h, Tab.read_erase]
  · simp [h]

end tables

-- The canonical form ------------------------------------------------------------------------------------------------

section canonical

variable {α : Type} [DecidableEq α] (d : Nat → α)

/-- The canonical form, as a property of all entries. -/
def Tab.Sound (t : Tab α) : Prop := t.Pairwise (fun x y => x.1 < y.1) ∧ ∀ e ∈ t, e.2 ≠ d e.1

theorem Tab.wf_iff (t : Tab α) : Tab.wf d t = true ↔ Tab.Sound d t := by
  unfold Tab.Sound
  induction t with
  | nil => simp [Tab.wf]
  | cons e t ih =>
    obtain ⟨k, v⟩ := e
    cases t with
    | nil => simp [Tab.wf]
    | cons f t =>
      obtain ⟨j, w⟩ := f
      simp only [Tab.wf, Bool.and_eq_true, ih, decide_eq_true_eq, List.pairwise_cons, List.mem_cons,
        forall_eq_or_imp]
      constructor
      · rintro ⟨⟨hv, hk⟩, ⟨hp, hq⟩, hw, hr⟩
        exact ⟨⟨⟨hk, fun a ha => lt_trans hk (hp a ha)⟩, hp, hq⟩, hv, hw, hr⟩
      · rintro ⟨⟨⟨hk, -⟩, hp, hq⟩, hv, hw, hr⟩
        exact ⟨⟨hv, hk⟩, ⟨hp, hq⟩, hw, hr⟩

theorem Tab.erase_eq_filter {β : Type} (t : Tab β) (k : Nat) : t.erase k = t.filter fun e => e.1 ≠ k := by
  induction t with
  | nil => rfl
  | cons e t ih =>
    obtain ⟨i, w⟩ := e
    by_cases h : i = k <;> simp [Tab.erase, h, ih]

theorem Tab.mem_insert {β : Type} (t : Tab β) (k : Nat) (v : β) (e : Nat × β) :
    e ∈ t.insert k v ↔ e = (k, v) ∨ e ∈ t := by
  induction t with
  | nil => simp [Tab.insert]
  | cons x t ih =>
    obtain ⟨i, w⟩ := x
    by_cases h : k < i
    · simp [Tab.insert, h]
    · simp only [Tab.insert, h, if_false, List.mem_cons, ih]
      tauto

omit [DecidableEq α] in
theorem Tab.sound_erase {t : Tab α} (h : Tab.Sound d t) (k : Nat) : Tab.Sound d (t.erase k) := by
  rw [Tab.erase_eq_filter]
  exact ⟨h.1.filter _, fun e he => h.2 e (List.mem_filter.1 he).1⟩

theorem Tab.pairwise_insert {β : Type} {t : Tab β} (h : t.Pairwise fun x y => x.1 < y.1) (k : Nat) (v : β)
    (hk : ∀ e ∈ t, e.1 ≠ k) : (t.insert k v).Pairwise fun x y => x.1 < y.1 := by
  induction t with
  | nil => simp [Tab.insert]
  | cons e t ih =>
    obtain ⟨i, w⟩ := e
    rw [List.pairwise_cons] at h
    have hi : i ≠ k := hk (i, w) (by simp)
    by_cases hlt : k < i
    · simp only [Tab.insert, hlt, if_true, List.pairwise_cons, List.mem_cons, forall_eq_or_imp]
      exact ⟨⟨trivial, fun a ha => lt_trans hlt (h.1 a ha)⟩, h.1, h.2⟩
    · simp only [Tab.insert, hlt, if_false, List.pairwise_cons]
      refine ⟨fun a ha => ?_, ih h.2 fun e he => hk e (by simp [he])⟩
      rcases (Tab.mem_insert t k v a).1 ha with rfl | ha
      · simp; omega
      · exact h.1 a ha

/-- A write keeps the canonical form. -/
theorem Tab.sound_write {t : Tab α} (h : Tab.Sound d t) (k : Nat) (v : α) : Tab.Sound d (Tab.write (d k) t k v) := by
  unfold Tab.write Tab.put
  by_cases hv : v = d k
  · simpa [hv] using Tab.sound_erase d h k
  · have he := Tab.sound_erase d h k
    simp only [hv, if_false]
    refine ⟨Tab.pairwise_insert he.1 k v (Tab.mem_erase t k), fun e hm => ?_⟩
    rcases (Tab.mem_insert _ k v e).1 hm with rfl | hm
    · exact hv
    · exact he.2 e hm

end canonical

-- Device memory -----------------------------------------------------------------------------------------------------

namespace Machine

/-- A byte read after a byte write. -/
@[simp] theorem memByte_memSet (m : List Host.Cell) (a b : Nat) (v : Byte) :
    memByte (memSet m a v) b = if b = a then v else memByte m b := by
  unfold memByte memSet
  by_cases h : b = a
  · subst h
    simp
  · unfold Tab.write
    by_cases hv : v = memReset a <;> simp [hv, h, Tab.read_erase]

/-- A byte write keeps the canonical form. -/
theorem Memory.wf_memSet {m : List Host.Cell} (h : Memory.wf m = true) (a : Nat) (v : Byte) :
    Memory.wf (memSet m a v) = true :=
  (Tab.wf_iff memReset _).2 (Tab.sound_write memReset ((Tab.wf_iff memReset m).1 h) a v)

/-- A write of consecutive bytes keeps the canonical form. -/
theorem Memory.wf_memWrite {m : List Host.Cell} (h : Memory.wf m = true) (a : Nat) (bs : Bytes) :
    Memory.wf (memWrite m a bs) = true := by
  induction bs generalizing m a with
  | nil => exact h
  | cons b r ih => exact ih (Memory.wf_memSet h a b) (a + 1)

/-- A write of some of consecutive bytes keeps the canonical form. -/
theorem Memory.wf_memPatch {m : List Host.Cell} (h : Memory.wf m = true) (a : Nat) (bs : List (Option Byte)) :
    Memory.wf (memPatch m a bs) = true := by
  induction bs generalizing m a with
  | nil => exact h
  | cons b r ih =>
    cases b with
    | none => exact ih h (a + 1)
    | some b => exact ih (Memory.wf_memSet h a b) (a + 1)

/-- A write of consecutive bytes leaves every byte outside them alone. -/
theorem memByte_memWrite_of_lt (m : List Host.Cell) (a : Nat) (bs : Bytes) (b : Nat)
    (h : b < a ∨ a + bs.length ≤ b) : memByte (memWrite m a bs) b = memByte m b := by
  induction bs generalizing m a with
  | nil => rfl
  | cons x r ih =>
    simp only [List.length_cons] at h
    rw [memWrite, ih _ _ (by omega), memByte_memSet, if_neg (by omega)]

/-- A byte within a write of consecutive bytes reads as written. -/
theorem memByte_memWrite_at (m : List Host.Cell) (a : Nat) (bs : Bytes) (i : Nat) (h : i < bs.length) :
    memByte (memWrite m a bs) (a + i) = bs.getD i 0#8 := by
  induction bs generalizing m a i with
  | nil => simp at h
  | cons x r ih =>
    cases i with
    | zero =>
      rw [memWrite, memByte_memWrite_of_lt _ _ _ _ (by omega)]
      simp
    | succ i =>
      have hi : i < r.length := by simpa using h
      have := ih (memSet m a x) (a + 1) i hi
      rw [show a + 1 + i = a + (i + 1) by omega] at this
      rw [memWrite, this]
      simp

/-- Memory after reset lists nothing, which is canonical. -/
theorem Memory.wf_reset : Memory.wf ([] : List Host.Cell) = true := rfl

end Machine
end Sys2Proof
end

