-- ==== Sys2Proof/Laws/State.lean ====
section
/-! SUPPORT. What the record updates of State and of Group change, field by field. -/
namespace Sys2Proof.Machine

variable (s : State)

@[simp] theorem State.setGroup_groups (k : Nat) (g : Group) : (s.setGroup k g).groups = s.groups.put k g := rfl
@[simp] theorem State.setGroup_teams (k : Nat) (g : Group) : (s.setGroup k g).teams = s.teams := rfl
@[simp] theorem State.setGroup_clusters (k : Nat) (g : Group) : (s.setGroup k g).clusters = s.clusters := rfl
@[simp] theorem State.setGroup_tasks (k : Nat) (g : Group) : (s.setGroup k g).tasks = s.tasks := rfl
@[simp] theorem State.setGroup_cores (k : Nat) (g : Group) : (s.setGroup k g).cores = s.cores := rfl
@[simp] theorem State.setGroup_mem (k : Nat) (g : Group) : (s.setGroup k g).mem = s.mem := rfl
@[simp] theorem State.setGroup_l2 (k : Nat) (g : Group) : (s.setGroup k g).l2 = s.l2 := rfl
@[simp] theorem State.setGroup_tlb (k : Nat) (g : Group) : (s.setGroup k g).tlb = s.tlb := rfl
@[simp] theorem State.setGroup_binds (k : Nat) (g : Group) : (s.setGroup k g).binds = s.binds := rfl
@[simp] theorem State.setGroup_batten (k : Nat) (g : Group) : (s.setGroup k g).batten = s.batten := rfl
@[simp] theorem State.setGroup_trees (k : Nat) (g : Group) : (s.setGroup k g).trees = s.trees := rfl
@[simp] theorem State.setGroup_res (k : Nat) (g : Group) : (s.setGroup k g).res = s.res := rfl
@[simp] theorem State.setGroup_net (k : Nat) (g : Group) : (s.setGroup k g).net = s.net := rfl
@[simp] theorem State.setGroup_sys (k : Nat) (g : Group) : (s.setGroup k g).sys = s.sys := rfl
@[simp] theorem State.setGroup_fqWait (k : Nat) (g : Group) : (s.setGroup k g).fqWait = s.fqWait := rfl
@[simp] theorem State.setGroup_fqPush (k : Nat) (g : Group) : (s.setGroup k g).fqPush = s.fqPush := rfl
@[simp] theorem State.setGroup_mgmt (k : Nat) (g : Group) : (s.setGroup k g).mgmt = s.mgmt := rfl
@[simp] theorem State.setGroup_cur (k : Nat) (g : Group) : (s.setGroup k g).cur = s.cur := rfl
@[simp] theorem State.setGroup_turn (k : Nat) (g : Group) : (s.setGroup k g).turn = s.turn := rfl
@[simp] theorem State.setGroup_agenda (k : Nat) (g : Group) : (s.setGroup k g).agenda = s.agenda := rfl
@[simp] theorem State.setGroup_tick (k : Nat) (g : Group) : (s.setGroup k g).tick = s.tick := rfl
@[simp] theorem State.setGroup_free (k : Nat) (g : Group) : (s.setGroup k g).free = s.free := rfl
@[simp] theorem State.setGroup_order (k : Nat) (g : Group) : (s.setGroup k g).order = s.order := rfl

@[simp] theorem State.setMe_groups (g : Group) : (s.setMe g).groups = s.groups.put s.cur g := rfl
@[simp] theorem State.setMe_teams (g : Group) : (s.setMe g).teams = s.teams := rfl
@[simp] theorem State.setMe_clusters (g : Group) : (s.setMe g).clusters = s.clusters := rfl
@[simp] theorem State.setMe_tasks (g : Group) : (s.setMe g).tasks = s.tasks := rfl
@[simp] theorem State.setMe_cores (g : Group) : (s.setMe g).cores = s.cores := rfl
@[simp] theorem State.setMe_mem (g : Group) : (s.setMe g).mem = s.mem := rfl
@[simp] theorem State.setMe_l2 (g : Group) : (s.setMe g).l2 = s.l2 := rfl
@[simp] theorem State.setMe_tlb (g : Group) : (s.setMe g).tlb = s.tlb := rfl
@[simp] theorem State.setMe_binds (g : Group) : (s.setMe g).binds = s.binds := rfl
@[simp] theorem State.setMe_batten (g : Group) : (s.setMe g).batten = s.batten := rfl
@[simp] theorem State.setMe_trees (g : Group) : (s.setMe g).trees = s.trees := rfl
@[simp] theorem State.setMe_res (g : Group) : (s.setMe g).res = s.res := rfl
@[simp] theorem State.setMe_net (g : Group) : (s.setMe g).net = s.net := rfl
@[simp] theorem State.setMe_sys (g : Group) : (s.setMe g).sys = s.sys := rfl
@[simp] theorem State.setMe_fqWait (g : Group) : (s.setMe g).fqWait = s.fqWait := rfl
@[simp] theorem State.setMe_fqPush (g : Group) : (s.setMe g).fqPush = s.fqPush := rfl
@[simp] theorem State.setMe_mgmt (g : Group) : (s.setMe g).mgmt = s.mgmt := rfl
@[simp] theorem State.setMe_cur (g : Group) : (s.setMe g).cur = s.cur := rfl
@[simp] theorem State.setMe_turn (g : Group) : (s.setMe g).turn = s.turn := rfl
@[simp] theorem State.setMe_agenda (g : Group) : (s.setMe g).agenda = s.agenda := rfl
@[simp] theorem State.setMe_tick (g : Group) : (s.setMe g).tick = s.tick := rfl
@[simp] theorem State.setMe_free (g : Group) : (s.setMe g).free = s.free := rfl
@[simp] theorem State.setMe_order (g : Group) : (s.setMe g).order = s.order := rfl

@[simp] theorem State.setTeam_groups (k : Nat) (t : Team) : (s.setTeam k t).groups = s.groups := rfl
@[simp] theorem State.setTeam_teams (k : Nat) (t : Team) : (s.setTeam k t).teams = s.teams.put k t := rfl
@[simp] theorem State.setTeam_clusters (k : Nat) (t : Team) : (s.setTeam k t).clusters = s.clusters := rfl
@[simp] theorem State.setTeam_tasks (k : Nat) (t : Team) : (s.setTeam k t).tasks = s.tasks := rfl
@[simp] theorem State.setTeam_cores (k : Nat) (t : Team) : (s.setTeam k t).cores = s.cores := rfl
@[simp] theorem State.setTeam_mem (k : Nat) (t : Team) : (s.setTeam k t).mem = s.mem := rfl
@[simp] theorem State.setTeam_l2 (k : Nat) (t : Team) : (s.setTeam k t).l2 = s.l2 := rfl
@[simp] theorem State.setTeam_tlb (k : Nat) (t : Team) : (s.setTeam k t).tlb = s.tlb := rfl
@[simp] theorem State.setTeam_binds (k : Nat) (t : Team) : (s.setTeam k t).binds = s.binds := rfl
@[simp] theorem State.setTeam_batten (k : Nat) (t : Team) : (s.setTeam k t).batten = s.batten := rfl
@[simp] theorem State.setTeam_trees (k : Nat) (t : Team) : (s.setTeam k t).trees = s.trees := rfl
@[simp] theorem State.setTeam_res (k : Nat) (t : Team) : (s.setTeam k t).res = s.res := rfl
@[simp] theorem State.setTeam_net (k : Nat) (t : Team) : (s.setTeam k t).net = s.net := rfl
@[simp] theorem State.setTeam_sys (k : Nat) (t : Team) : (s.setTeam k t).sys = s.sys := rfl
@[simp] theorem State.setTeam_fqWait (k : Nat) (t : Team) : (s.setTeam k t).fqWait = s.fqWait := rfl
@[simp] theorem State.setTeam_fqPush (k : Nat) (t : Team) : (s.setTeam k t).fqPush = s.fqPush := rfl
@[simp] theorem State.setTeam_mgmt (k : Nat) (t : Team) : (s.setTeam k t).mgmt = s.mgmt := rfl
@[simp] theorem State.setTeam_cur (k : Nat) (t : Team) : (s.setTeam k t).cur = s.cur := rfl
@[simp] theorem State.setTeam_turn (k : Nat) (t : Team) : (s.setTeam k t).turn = s.turn := rfl
@[simp] theorem State.setTeam_agenda (k : Nat) (t : Team) : (s.setTeam k t).agenda = s.agenda := rfl
@[simp] theorem State.setTeam_tick (k : Nat) (t : Team) : (s.setTeam k t).tick = s.tick := rfl
@[simp] theorem State.setTeam_free (k : Nat) (t : Team) : (s.setTeam k t).free = s.free := rfl
@[simp] theorem State.setTeam_order (k : Nat) (t : Team) : (s.setTeam k t).order = s.order := rfl

@[simp] theorem State.setCluster_groups (k : Nat) (c : Cluster) : (s.setCluster k c).groups = s.groups := rfl
@[simp] theorem State.setCluster_teams (k : Nat) (c : Cluster) : (s.setCluster k c).teams = s.teams := rfl
@[simp] theorem State.setCluster_clusters (k : Nat) (c : Cluster) : (s.setCluster k c).clusters = s.clusters.put k c := rfl
@[simp] theorem State.setCluster_tasks (k : Nat) (c : Cluster) : (s.setCluster k c).tasks = s.tasks := rfl
@[simp] theorem State.setCluster_cores (k : Nat) (c : Cluster) : (s.setCluster k c).cores = s.cores := rfl
@[simp] theorem State.setCluster_mem (k : Nat) (c : Cluster) : (s.setCluster k c).mem = s.mem := rfl
@[simp] theorem State.setCluster_l2 (k : Nat) (c : Cluster) : (s.setCluster k c).l2 = s.l2 := rfl
@[simp] theorem State.setCluster_tlb (k : Nat) (c : Cluster) : (s.setCluster k c).tlb = s.tlb := rfl
@[simp] theorem State.setCluster_binds (k : Nat) (c : Cluster) : (s.setCluster k c).binds = s.binds := rfl
@[simp] theorem State.setCluster_batten (k : Nat) (c : Cluster) : (s.setCluster k c).batten = s.batten := rfl
@[simp] theorem State.setCluster_trees (k : Nat) (c : Cluster) : (s.setCluster k c).trees = s.trees := rfl
@[simp] theorem State.setCluster_res (k : Nat) (c : Cluster) : (s.setCluster k c).res = s.res := rfl
@[simp] theorem State.setCluster_net (k : Nat) (c : Cluster) : (s.setCluster k c).net = s.net := rfl
@[simp] theorem State.setCluster_sys (k : Nat) (c : Cluster) : (s.setCluster k c).sys = s.sys := rfl
@[simp] theorem State.setCluster_fqWait (k : Nat) (c : Cluster) : (s.setCluster k c).fqWait = s.fqWait := rfl
@[simp] theorem State.setCluster_fqPush (k : Nat) (c : Cluster) : (s.setCluster k c).fqPush = s.fqPush := rfl
@[simp] theorem State.setCluster_mgmt (k : Nat) (c : Cluster) : (s.setCluster k c).mgmt = s.mgmt := rfl
@[simp] theorem State.setCluster_cur (k : Nat) (c : Cluster) : (s.setCluster k c).cur = s.cur := rfl
@[simp] theorem State.setCluster_turn (k : Nat) (c : Cluster) : (s.setCluster k c).turn = s.turn := rfl
@[simp] theorem State.setCluster_agenda (k : Nat) (c : Cluster) : (s.setCluster k c).agenda = s.agenda := rfl
@[simp] theorem State.setCluster_tick (k : Nat) (c : Cluster) : (s.setCluster k c).tick = s.tick := rfl
@[simp] theorem State.setCluster_free (k : Nat) (c : Cluster) : (s.setCluster k c).free = s.free := rfl
@[simp] theorem State.setCluster_order (k : Nat) (c : Cluster) : (s.setCluster k c).order = s.order := rfl

@[simp] theorem State.setTask_groups (k : Nat) (t : Task) : (s.setTask k t).groups = s.groups := rfl
@[simp] theorem State.setTask_teams (k : Nat) (t : Task) : (s.setTask k t).teams = s.teams := rfl
@[simp] theorem State.setTask_clusters (k : Nat) (t : Task) : (s.setTask k t).clusters = s.clusters := rfl
@[simp] theorem State.setTask_tasks (k : Nat) (t : Task) : (s.setTask k t).tasks = s.tasks.put k t := rfl
@[simp] theorem State.setTask_cores (k : Nat) (t : Task) : (s.setTask k t).cores = s.cores := rfl
@[simp] theorem State.setTask_mem (k : Nat) (t : Task) : (s.setTask k t).mem = s.mem := rfl
@[simp] theorem State.setTask_l2 (k : Nat) (t : Task) : (s.setTask k t).l2 = s.l2 := rfl
@[simp] theorem State.setTask_tlb (k : Nat) (t : Task) : (s.setTask k t).tlb = s.tlb := rfl
@[simp] theorem State.setTask_binds (k : Nat) (t : Task) : (s.setTask k t).binds = s.binds := rfl
@[simp] theorem State.setTask_batten (k : Nat) (t : Task) : (s.setTask k t).batten = s.batten := rfl
@[simp] theorem State.setTask_trees (k : Nat) (t : Task) : (s.setTask k t).trees = s.trees := rfl
@[simp] theorem State.setTask_res (k : Nat) (t : Task) : (s.setTask k t).res = s.res := rfl
@[simp] theorem State.setTask_net (k : Nat) (t : Task) : (s.setTask k t).net = s.net := rfl
@[simp] theorem State.setTask_sys (k : Nat) (t : Task) : (s.setTask k t).sys = s.sys := rfl
@[simp] theorem State.setTask_fqWait (k : Nat) (t : Task) : (s.setTask k t).fqWait = s.fqWait := rfl
@[simp] theorem State.setTask_fqPush (k : Nat) (t : Task) : (s.setTask k t).fqPush = s.fqPush := rfl
@[simp] theorem State.setTask_mgmt (k : Nat) (t : Task) : (s.setTask k t).mgmt = s.mgmt := rfl
@[simp] theorem State.setTask_cur (k : Nat) (t : Task) : (s.setTask k t).cur = s.cur := rfl
@[simp] theorem State.setTask_turn (k : Nat) (t : Task) : (s.setTask k t).turn = s.turn := rfl
@[simp] theorem State.setTask_agenda (k : Nat) (t : Task) : (s.setTask k t).agenda = s.agenda := rfl
@[simp] theorem State.setTask_tick (k : Nat) (t : Task) : (s.setTask k t).tick = s.tick := rfl
@[simp] theorem State.setTask_free (k : Nat) (t : Task) : (s.setTask k t).free = s.free := rfl
@[simp] theorem State.setTask_order (k : Nat) (t : Task) : (s.setTask k t).order = s.order := rfl

@[simp] theorem State.setCore_groups (k : Nat) (c : Core) : (s.setCore k c).groups = s.groups := rfl
@[simp] theorem State.setCore_teams (k : Nat) (c : Core) : (s.setCore k c).teams = s.teams := rfl
@[simp] theorem State.setCore_clusters (k : Nat) (c : Core) : (s.setCore k c).clusters = s.clusters := rfl
@[simp] theorem State.setCore_tasks (k : Nat) (c : Core) : (s.setCore k c).tasks = s.tasks := rfl
@[simp] theorem State.setCore_cores (k : Nat) (c : Core) : (s.setCore k c).cores = s.cores.put k c := rfl
@[simp] theorem State.setCore_mem (k : Nat) (c : Core) : (s.setCore k c).mem = s.mem := rfl
@[simp] theorem State.setCore_l2 (k : Nat) (c : Core) : (s.setCore k c).l2 = s.l2 := rfl
@[simp] theorem State.setCore_tlb (k : Nat) (c : Core) : (s.setCore k c).tlb = s.tlb := rfl
@[simp] theorem State.setCore_binds (k : Nat) (c : Core) : (s.setCore k c).binds = s.binds := rfl
@[simp] theorem State.setCore_batten (k : Nat) (c : Core) : (s.setCore k c).batten = s.batten := rfl
@[simp] theorem State.setCore_trees (k : Nat) (c : Core) : (s.setCore k c).trees = s.trees := rfl
@[simp] theorem State.setCore_res (k : Nat) (c : Core) : (s.setCore k c).res = s.res := rfl
@[simp] theorem State.setCore_net (k : Nat) (c : Core) : (s.setCore k c).net = s.net := rfl
@[simp] theorem State.setCore_sys (k : Nat) (c : Core) : (s.setCore k c).sys = s.sys := rfl
@[simp] theorem State.setCore_fqWait (k : Nat) (c : Core) : (s.setCore k c).fqWait = s.fqWait := rfl
@[simp] theorem State.setCore_fqPush (k : Nat) (c : Core) : (s.setCore k c).fqPush = s.fqPush := rfl
@[simp] theorem State.setCore_mgmt (k : Nat) (c : Core) : (s.setCore k c).mgmt = s.mgmt := rfl
@[simp] theorem State.setCore_cur (k : Nat) (c : Core) : (s.setCore k c).cur = s.cur := rfl
@[simp] theorem State.setCore_turn (k : Nat) (c : Core) : (s.setCore k c).turn = s.turn := rfl
@[simp] theorem State.setCore_agenda (k : Nat) (c : Core) : (s.setCore k c).agenda = s.agenda := rfl
@[simp] theorem State.setCore_tick (k : Nat) (c : Core) : (s.setCore k c).tick = s.tick := rfl
@[simp] theorem State.setCore_free (k : Nat) (c : Core) : (s.setCore k c).free = s.free := rfl
@[simp] theorem State.setCore_order (k : Nat) (c : Core) : (s.setCore k c).order = s.order := rfl

@[simp] theorem State.setTree_groups (k : Nat) (t : Tree) : (s.setTree k t).groups = s.groups := rfl
@[simp] theorem State.setTree_teams (k : Nat) (t : Tree) : (s.setTree k t).teams = s.teams := rfl
@[simp] theorem State.setTree_clusters (k : Nat) (t : Tree) : (s.setTree k t).clusters = s.clusters := rfl
@[simp] theorem State.setTree_tasks (k : Nat) (t : Tree) : (s.setTree k t).tasks = s.tasks := rfl
@[simp] theorem State.setTree_cores (k : Nat) (t : Tree) : (s.setTree k t).cores = s.cores := rfl
@[simp] theorem State.setTree_mem (k : Nat) (t : Tree) : (s.setTree k t).mem = s.mem := rfl
@[simp] theorem State.setTree_l2 (k : Nat) (t : Tree) : (s.setTree k t).l2 = s.l2 := rfl
@[simp] theorem State.setTree_tlb (k : Nat) (t : Tree) : (s.setTree k t).tlb = s.tlb := rfl
@[simp] theorem State.setTree_binds (k : Nat) (t : Tree) : (s.setTree k t).binds = s.binds := rfl
@[simp] theorem State.setTree_batten (k : Nat) (t : Tree) : (s.setTree k t).batten = s.batten := rfl
@[simp] theorem State.setTree_trees (k : Nat) (t : Tree) : (s.setTree k t).trees = s.trees.put k t := rfl
@[simp] theorem State.setTree_res (k : Nat) (t : Tree) : (s.setTree k t).res = s.res := rfl
@[simp] theorem State.setTree_net (k : Nat) (t : Tree) : (s.setTree k t).net = s.net := rfl
@[simp] theorem State.setTree_sys (k : Nat) (t : Tree) : (s.setTree k t).sys = s.sys := rfl
@[simp] theorem State.setTree_fqWait (k : Nat) (t : Tree) : (s.setTree k t).fqWait = s.fqWait := rfl
@[simp] theorem State.setTree_fqPush (k : Nat) (t : Tree) : (s.setTree k t).fqPush = s.fqPush := rfl
@[simp] theorem State.setTree_mgmt (k : Nat) (t : Tree) : (s.setTree k t).mgmt = s.mgmt := rfl
@[simp] theorem State.setTree_cur (k : Nat) (t : Tree) : (s.setTree k t).cur = s.cur := rfl
@[simp] theorem State.setTree_turn (k : Nat) (t : Tree) : (s.setTree k t).turn = s.turn := rfl
@[simp] theorem State.setTree_agenda (k : Nat) (t : Tree) : (s.setTree k t).agenda = s.agenda := rfl
@[simp] theorem State.setTree_tick (k : Nat) (t : Tree) : (s.setTree k t).tick = s.tick := rfl
@[simp] theorem State.setTree_free (k : Nat) (t : Tree) : (s.setTree k t).free = s.free := rfl
@[simp] theorem State.setTree_order (k : Nat) (t : Tree) : (s.setTree k t).order = s.order := rfl

@[simp] theorem State.setL2_groups (k : Nat) (l : Line) : (s.setL2 k l).groups = s.groups := rfl
@[simp] theorem State.setL2_teams (k : Nat) (l : Line) : (s.setL2 k l).teams = s.teams := rfl
@[simp] theorem State.setL2_clusters (k : Nat) (l : Line) : (s.setL2 k l).clusters = s.clusters := rfl
@[simp] theorem State.setL2_tasks (k : Nat) (l : Line) : (s.setL2 k l).tasks = s.tasks := rfl
@[simp] theorem State.setL2_cores (k : Nat) (l : Line) : (s.setL2 k l).cores = s.cores := rfl
@[simp] theorem State.setL2_mem (k : Nat) (l : Line) : (s.setL2 k l).mem = s.mem := rfl
@[simp] theorem State.setL2_l2 (k : Nat) (l : Line) : (s.setL2 k l).l2 = s.l2.put k l := rfl
@[simp] theorem State.setL2_tlb (k : Nat) (l : Line) : (s.setL2 k l).tlb = s.tlb := rfl
@[simp] theorem State.setL2_binds (k : Nat) (l : Line) : (s.setL2 k l).binds = s.binds := rfl
@[simp] theorem State.setL2_batten (k : Nat) (l : Line) : (s.setL2 k l).batten = s.batten := rfl
@[simp] theorem State.setL2_trees (k : Nat) (l : Line) : (s.setL2 k l).trees = s.trees := rfl
@[simp] theorem State.setL2_res (k : Nat) (l : Line) : (s.setL2 k l).res = s.res := rfl
@[simp] theorem State.setL2_net (k : Nat) (l : Line) : (s.setL2 k l).net = s.net := rfl
@[simp] theorem State.setL2_sys (k : Nat) (l : Line) : (s.setL2 k l).sys = s.sys := rfl
@[simp] theorem State.setL2_fqWait (k : Nat) (l : Line) : (s.setL2 k l).fqWait = s.fqWait := rfl
@[simp] theorem State.setL2_fqPush (k : Nat) (l : Line) : (s.setL2 k l).fqPush = s.fqPush := rfl
@[simp] theorem State.setL2_mgmt (k : Nat) (l : Line) : (s.setL2 k l).mgmt = s.mgmt := rfl
@[simp] theorem State.setL2_cur (k : Nat) (l : Line) : (s.setL2 k l).cur = s.cur := rfl
@[simp] theorem State.setL2_turn (k : Nat) (l : Line) : (s.setL2 k l).turn = s.turn := rfl
@[simp] theorem State.setL2_agenda (k : Nat) (l : Line) : (s.setL2 k l).agenda = s.agenda := rfl
@[simp] theorem State.setL2_tick (k : Nat) (l : Line) : (s.setL2 k l).tick = s.tick := rfl
@[simp] theorem State.setL2_free (k : Nat) (l : Line) : (s.setL2 k l).free = s.free := rfl
@[simp] theorem State.setL2_order (k : Nat) (l : Line) : (s.setL2 k l).order = s.order := rfl

@[simp] theorem State.setQueue_groups (c q : Nat) (x : Queue) : (s.setQueue c q x).groups = s.groups := rfl
@[simp] theorem State.setQueue_teams (c q : Nat) (x : Queue) : (s.setQueue c q x).teams = s.teams := rfl
@[simp] theorem State.setQueue_clusters (c q : Nat) (x : Queue) : (s.setQueue c q x).clusters = s.clusters := rfl
@[simp] theorem State.setQueue_tasks (c q : Nat) (x : Queue) : (s.setQueue c q x).tasks = s.tasks := rfl
@[simp] theorem State.setQueue_cores (c q : Nat) (x : Queue) : (s.setQueue c q x).cores = s.cores.put c { s.core c with queues := (s.core c).queues.put q x } := rfl
@[simp] theorem State.setQueue_mem (c q : Nat) (x : Queue) : (s.setQueue c q x).mem = s.mem := rfl
@[simp] theorem State.setQueue_l2 (c q : Nat) (x : Queue) : (s.setQueue c q x).l2 = s.l2 := rfl
@[simp] theorem State.setQueue_tlb (c q : Nat) (x : Queue) : (s.setQueue c q x).tlb = s.tlb := rfl
@[simp] theorem State.setQueue_binds (c q : Nat) (x : Queue) : (s.setQueue c q x).binds = s.binds := rfl
@[simp] theorem State.setQueue_batten (c q : Nat) (x : Queue) : (s.setQueue c q x).batten = s.batten := rfl
@[simp] theorem State.setQueue_trees (c q : Nat) (x : Queue) : (s.setQueue c q x).trees = s.trees := rfl
@[simp] theorem State.setQueue_res (c q : Nat) (x : Queue) : (s.setQueue c q x).res = s.res := rfl
@[simp] theorem State.setQueue_net (c q : Nat) (x : Queue) : (s.setQueue c q x).net = s.net := rfl
@[simp] theorem State.setQueue_sys (c q : Nat) (x : Queue) : (s.setQueue c q x).sys = s.sys := rfl
@[simp] theorem State.setQueue_fqWait (c q : Nat) (x : Queue) : (s.setQueue c q x).fqWait = s.fqWait := rfl
@[simp] theorem State.setQueue_fqPush (c q : Nat) (x : Queue) : (s.setQueue c q x).fqPush = s.fqPush := rfl
@[simp] theorem State.setQueue_mgmt (c q : Nat) (x : Queue) : (s.setQueue c q x).mgmt = s.mgmt := rfl
@[simp] theorem State.setQueue_cur (c q : Nat) (x : Queue) : (s.setQueue c q x).cur = s.cur := rfl
@[simp] theorem State.setQueue_turn (c q : Nat) (x : Queue) : (s.setQueue c q x).turn = s.turn := rfl
@[simp] theorem State.setQueue_agenda (c q : Nat) (x : Queue) : (s.setQueue c q x).agenda = s.agenda := rfl
@[simp] theorem State.setQueue_tick (c q : Nat) (x : Queue) : (s.setQueue c q x).tick = s.tick := rfl
@[simp] theorem State.setQueue_free (c q : Nat) (x : Queue) : (s.setQueue c q x).free = s.free := rfl
@[simp] theorem State.setQueue_order (c q : Nat) (x : Queue) : (s.setQueue c q x).order = s.order := rfl

-- What the accessors read after an update ---------------------------------------------------------------------------

@[simp] theorem State.group_setGroup (k j : Nat) (g : Group) :
    (s.setGroup k g).group j = if j = k then g else s.group j := by simp [State.group]
@[simp] theorem State.group_setMe (j : Nat) (g : Group) :
    (s.setMe g).group j = if j = s.cur then g else s.group j := by simp [State.group]
@[simp] theorem State.me_setMe (g : Group) : (s.setMe g).me = g := by simp [State.me]
@[simp] theorem State.setMe_setMe (g h : Group) : (s.setMe g).setMe h = s.setMe h := by
  simp [State.setMe, State.setGroup]
@[simp] theorem State.setGroup_setGroup (k : Nat) (g h : Group) : (s.setGroup k g).setGroup k h = s.setGroup k h := by
  simp [State.setGroup]
@[simp] theorem State.team_setTeam (k j : Nat) (t : Team) :
    (s.setTeam k t).team j = if j = k then t else s.team j := by simp [State.team]
@[simp] theorem State.cluster_setCluster (k j : Nat) (c : Cluster) :
    (s.setCluster k c).cluster j = if j = k then c else s.cluster j := by simp [State.cluster]
@[simp] theorem State.task_setTask (k j : Nat) (t : Task) :
    (s.setTask k t).task j = if j = k then t else s.task j := by simp [State.task]
@[simp] theorem State.core_setCore (k j : Nat) (c : Core) :
    (s.setCore k c).core j = if j = k then c else s.core j := by simp [State.core]
@[simp] theorem State.tree_setTree (k j : Nat) (t : Tree) :
    (s.setTree k t).tree j = if j = k then t else s.tree j := by simp [State.tree]
@[simp] theorem State.team_setGroup (k : Nat) (g : Group) (j : Nat) : (s.setGroup k g).team j = s.team j := rfl
@[simp] theorem State.cluster_setGroup (k : Nat) (g : Group) (j : Nat) : (s.setGroup k g).cluster j = s.cluster j := rfl
@[simp] theorem State.task_setGroup (k : Nat) (g : Group) (j : Nat) : (s.setGroup k g).task j = s.task j := rfl
@[simp] theorem State.core_setGroup (k : Nat) (g : Group) (j : Nat) : (s.setGroup k g).core j = s.core j := rfl
@[simp] theorem State.tree_setGroup (k : Nat) (g : Group) (j : Nat) : (s.setGroup k g).tree j = s.tree j := rfl
@[simp] theorem State.queue_setGroup (k : Nat) (g : Group) (x y : Nat) : (s.setGroup k g).queue x y = s.queue x y := rfl
@[simp] theorem State.sysv_setGroup (k : Nat) (g : Group) (n : Nat) : (s.setGroup k g).sysv n = s.sysv n := rfl
@[simp] theorem State.team_setMe (g : Group) (j : Nat) : (s.setMe g).team j = s.team j := rfl
@[simp] theorem State.cluster_setMe (g : Group) (j : Nat) : (s.setMe g).cluster j = s.cluster j := rfl
@[simp] theorem State.task_setMe (g : Group) (j : Nat) : (s.setMe g).task j = s.task j := rfl
@[simp] theorem State.core_setMe (g : Group) (j : Nat) : (s.setMe g).core j = s.core j := rfl
@[simp] theorem State.tree_setMe (g : Group) (j : Nat) : (s.setMe g).tree j = s.tree j := rfl
@[simp] theorem State.queue_setMe (g : Group) (x y : Nat) : (s.setMe g).queue x y = s.queue x y := rfl
@[simp] theorem State.sysv_setMe (g : Group) (n : Nat) : (s.setMe g).sysv n = s.sysv n := rfl
@[simp] theorem State.group_setTeam (k : Nat) (t : Team) (j : Nat) : (s.setTeam k t).group j = s.group j := rfl
@[simp] theorem State.cluster_setTeam (k : Nat) (t : Team) (j : Nat) : (s.setTeam k t).cluster j = s.cluster j := rfl
@[simp] theorem State.task_setTeam (k : Nat) (t : Team) (j : Nat) : (s.setTeam k t).task j = s.task j := rfl
@[simp] theorem State.core_setTeam (k : Nat) (t : Team) (j : Nat) : (s.setTeam k t).core j = s.core j := rfl
@[simp] theorem State.tree_setTeam (k : Nat) (t : Team) (j : Nat) : (s.setTeam k t).tree j = s.tree j := rfl
@[simp] theorem State.me_setTeam (k : Nat) (t : Team) : (s.setTeam k t).me = s.me := rfl
@[simp] theorem State.queue_setTeam (k : Nat) (t : Team) (x y : Nat) : (s.setTeam k t).queue x y = s.queue x y := rfl
@[simp] theorem State.sysv_setTeam (k : Nat) (t : Team) (n : Nat) : (s.setTeam k t).sysv n = s.sysv n := rfl
@[simp] theorem State.group_setCluster (k : Nat) (c : Cluster) (j : Nat) : (s.setCluster k c).group j = s.group j := rfl
@[simp] theorem State.team_setCluster (k : Nat) (c : Cluster) (j : Nat) : (s.setCluster k c).team j = s.team j := rfl
@[simp] theorem State.task_setCluster (k : Nat) (c : Cluster) (j : Nat) : (s.setCluster k c).task j = s.task j := rfl
@[simp] theorem State.core_setCluster (k : Nat) (c : Cluster) (j : Nat) : (s.setCluster k c).core j = s.core j := rfl
@[simp] theorem State.tree_setCluster (k : Nat) (c : Cluster) (j : Nat) : (s.setCluster k c).tree j = s.tree j := rfl
@[simp] theorem State.me_setCluster (k : Nat) (c : Cluster) : (s.setCluster k c).me = s.me := rfl
@[simp] theorem State.queue_setCluster (k : Nat) (c : Cluster) (x y : Nat) : (s.setCluster k c).queue x y = s.queue x y := rfl
@[simp] theorem State.sysv_setCluster (k : Nat) (c : Cluster) (n : Nat) : (s.setCluster k c).sysv n = s.sysv n := rfl
@[simp] theorem State.group_setTask (k : Nat) (t : Task) (j : Nat) : (s.setTask k t).group j = s.group j := rfl
@[simp] theorem State.team_setTask (k : Nat) (t : Task) (j : Nat) : (s.setTask k t).team j = s.team j := rfl
@[simp] theorem State.cluster_setTask (k : Nat) (t : Task) (j : Nat) : (s.setTask k t).cluster j = s.cluster j := rfl
@[simp] theorem State.core_setTask (k : Nat) (t : Task) (j : Nat) : (s.setTask k t).core j = s.core j := rfl
@[simp] theorem State.tree_setTask (k : Nat) (t : Task) (j : Nat) : (s.setTask k t).tree j = s.tree j := rfl
@[simp] theorem State.me_setTask (k : Nat) (t : Task) : (s.setTask k t).me = s.me := rfl
@[simp] theorem State.queue_setTask (k : Nat) (t : Task) (x y : Nat) : (s.setTask k t).queue x y = s.queue x y := rfl
@[simp] theorem State.sysv_setTask (k : Nat) (t : Task) (n : Nat) : (s.setTask k t).sysv n = s.sysv n := rfl
@[simp] theorem State.group_setCore (k : Nat) (c : Core) (j : Nat) : (s.setCore k c).group j = s.group j := rfl
@[simp] theorem State.team_setCore (k : Nat) (c : Core) (j : Nat) : (s.setCore k c).team j = s.team j := rfl
@[simp] theorem State.cluster_setCore (k : Nat) (c : Core) (j : Nat) : (s.setCore k c).cluster j = s.cluster j := rfl
@[simp] theorem State.task_setCore (k : Nat) (c : Core) (j : Nat) : (s.setCore k c).task j = s.task j := rfl
@[simp] theorem State.tree_setCore (k : Nat) (c : Core) (j : Nat) : (s.setCore k c).tree j = s.tree j := rfl
@[simp] theorem State.me_setCore (k : Nat) (c : Core) : (s.setCore k c).me = s.me := rfl
@[simp] theorem State.sysv_setCore (k : Nat) (c : Core) (n : Nat) : (s.setCore k c).sysv n = s.sysv n := rfl
@[simp] theorem State.group_setTree (k : Nat) (t : Tree) (j : Nat) : (s.setTree k t).group j = s.group j := rfl
@[simp] theorem State.team_setTree (k : Nat) (t : Tree) (j : Nat) : (s.setTree k t).team j = s.team j := rfl
@[simp] theorem State.cluster_setTree (k : Nat) (t : Tree) (j : Nat) : (s.setTree k t).cluster j = s.cluster j := rfl
@[simp] theorem State.task_setTree (k : Nat) (t : Tree) (j : Nat) : (s.setTree k t).task j = s.task j := rfl
@[simp] theorem State.core_setTree (k : Nat) (t : Tree) (j : Nat) : (s.setTree k t).core j = s.core j := rfl
@[simp] theorem State.me_setTree (k : Nat) (t : Tree) : (s.setTree k t).me = s.me := rfl
@[simp] theorem State.queue_setTree (k : Nat) (t : Tree) (x y : Nat) : (s.setTree k t).queue x y = s.queue x y := rfl
@[simp] theorem State.sysv_setTree (k : Nat) (t : Tree) (n : Nat) : (s.setTree k t).sysv n = s.sysv n := rfl
@[simp] theorem State.group_setL2 (k : Nat) (l : Line) (j : Nat) : (s.setL2 k l).group j = s.group j := rfl
@[simp] theorem State.team_setL2 (k : Nat) (l : Line) (j : Nat) : (s.setL2 k l).team j = s.team j := rfl
@[simp] theorem State.cluster_setL2 (k : Nat) (l : Line) (j : Nat) : (s.setL2 k l).cluster j = s.cluster j := rfl
@[simp] theorem State.task_setL2 (k : Nat) (l : Line) (j : Nat) : (s.setL2 k l).task j = s.task j := rfl
@[simp] theorem State.core_setL2 (k : Nat) (l : Line) (j : Nat) : (s.setL2 k l).core j = s.core j := rfl
@[simp] theorem State.tree_setL2 (k : Nat) (l : Line) (j : Nat) : (s.setL2 k l).tree j = s.tree j := rfl
@[simp] theorem State.me_setL2 (k : Nat) (l : Line) : (s.setL2 k l).me = s.me := rfl
@[simp] theorem State.queue_setL2 (k : Nat) (l : Line) (x y : Nat) : (s.setL2 k l).queue x y = s.queue x y := rfl
@[simp] theorem State.sysv_setL2 (k : Nat) (l : Line) (n : Nat) : (s.setL2 k l).sysv n = s.sysv n := rfl
@[simp] theorem State.group_setQueue (c q : Nat) (x : Queue) (j : Nat) : (s.setQueue c q x).group j = s.group j := rfl
@[simp] theorem State.team_setQueue (c q : Nat) (x : Queue) (j : Nat) : (s.setQueue c q x).team j = s.team j := rfl
@[simp] theorem State.cluster_setQueue (c q : Nat) (x : Queue) (j : Nat) : (s.setQueue c q x).cluster j = s.cluster j := rfl
@[simp] theorem State.task_setQueue (c q : Nat) (x : Queue) (j : Nat) : (s.setQueue c q x).task j = s.task j := rfl
@[simp] theorem State.tree_setQueue (c q : Nat) (x : Queue) (j : Nat) : (s.setQueue c q x).tree j = s.tree j := rfl
@[simp] theorem State.me_setQueue (c q : Nat) (x : Queue) : (s.setQueue c q x).me = s.me := rfl
@[simp] theorem State.sysv_setQueue (c q : Nat) (x : Queue) (n : Nat) : (s.setQueue c q x).sysv n = s.sysv n := rfl

-- Groups -------------------------------------------------------------------------------------------------------------

variable (g : Group)

@[simp] theorem Group.setVreg_task (r l : Nat) (w : Word) : (g.setVreg r l w).task = g.task := rfl
@[simp] theorem Group.setVreg_taskId (r l : Nat) (w : Word) : (g.setVreg r l w).taskId = g.taskId := rfl
@[simp] theorem Group.setVreg_gidx (r l : Nat) (w : Word) : (g.setVreg r l w).gidx = g.gidx := rfl
@[simp] theorem Group.setVreg_team (r l : Nat) (w : Word) : (g.setVreg r l w).team = g.team := rfl
@[simp] theorem Group.setVreg_groupid (r l : Nat) (w : Word) : (g.setVreg r l w).groupid = g.groupid := rfl
@[simp] theorem Group.setVreg_teamid (r l : Nat) (w : Word) : (g.setVreg r l w).teamid = g.teamid := rfl
@[simp] theorem Group.setVreg_clrank (r l : Nat) (w : Word) : (g.setVreg r l w).clrank = g.clrank := rfl
@[simp] theorem Group.setVreg_role (r l : Nat) (w : Word) : (g.setVreg r l w).role = g.role := rfl
@[simp] theorem Group.setVreg_asid (r l : Nat) (w : Word) : (g.setVreg r l w).asid = g.asid := rfl
@[simp] theorem Group.setVreg_nreg (r l : Nat) (w : Word) : (g.setVreg r l w).nreg = g.nreg := rfl
@[simp] theorem Group.setVreg_rgn (r l : Nat) (w : Word) : (g.setVreg r l w).rgn = g.rgn := rfl
@[simp] theorem Group.setVreg_sched (r l : Nat) (w : Word) : (g.setVreg r l w).sched = g.sched := rfl
@[simp] theorem Group.setVreg_core (r l : Nat) (w : Word) : (g.setVreg r l w).core = g.core := rfl
@[simp] theorem Group.setVreg_fresh (r l : Nat) (w : Word) : (g.setVreg r l w).fresh = g.fresh := rfl
@[simp] theorem Group.setVreg_blocked (r l : Nat) (w : Word) : (g.setVreg r l w).blocked = g.blocked := rfl
@[simp] theorem Group.setVreg_entered (r l : Nat) (w : Word) : (g.setVreg r l w).entered = g.entered := rfl
@[simp] theorem Group.setVreg_sleep (r l : Nat) (w : Word) : (g.setVreg r l w).sleep = g.sleep := rfl
@[simp] theorem Group.setVreg_nopre (r l : Nat) (w : Word) : (g.setVreg r l w).nopre = g.nopre := rfl
@[simp] theorem Group.setVreg_overrun (r l : Nat) (w : Word) : (g.setVreg r l w).overrun = g.overrun := rfl
@[simp] theorem Group.setVreg_since (r l : Nat) (w : Word) : (g.setVreg r l w).since = g.since := rfl
@[simp] theorem Group.setVreg_lanes (r l : Nat) (w : Word) : (g.setVreg r l w).lanes = g.lanes := rfl
@[simp] theorem Group.setVreg_v (r l : Nat) (w : Word) : (g.setVreg r l w).v = g.v.write 0#32 (32 * r + l) w := rfl
@[simp] theorem Group.setVreg_s (r l : Nat) (w : Word) : (g.setVreg r l w).s = g.s := rfl
@[simp] theorem Group.setVreg_p (r l : Nat) (w : Word) : (g.setVreg r l w).p = g.p := rfl
@[simp] theorem Group.setVreg_h (r l : Nat) (w : Word) : (g.setVreg r l w).h = g.h := rfl
@[simp] theorem Group.setVreg_wb (r l : Nat) (w : Word) : (g.setVreg r l w).wb = g.wb := rfl
@[simp] theorem Group.setVreg_ihead (r l : Nat) (w : Word) : (g.setVreg r l w).ihead = g.ihead := rfl
@[simp] theorem Group.setVreg_sr (r l : Nat) (w : Word) : (g.setVreg r l w).sr = g.sr := rfl
@[simp] theorem Group.setVreg_poison (r l : Nat) (w : Word) : (g.setVreg r l w).poison = g.poison := rfl
@[simp] theorem Group.setVreg_regErr (r l : Nat) (w : Word) : (g.setVreg r l w).regErr = g.regErr := rfl
@[simp] theorem Group.setVreg_absent (r l : Nat) (w : Word) : (g.setVreg r l w).absent = g.absent := rfl
@[simp] theorem Group.setVreg_missing (r l : Nat) (w : Word) : (g.setVreg r l w).missing = g.missing := rfl
@[simp] theorem Group.setVreg_latches (r l : Nat) (w : Word) : (g.setVreg r l w).latches = g.latches := rfl
@[simp] theorem Group.setVreg_stream (r l : Nat) (w : Word) : (g.setVreg r l w).stream = g.stream := rfl
@[simp] theorem Group.setVreg_run (r l : Nat) (w : Word) : (g.setVreg r l w).run = g.run := rfl
@[simp] theorem Group.setVreg_runFull (r l : Nat) (w : Word) : (g.setVreg r l w).runFull = g.runFull := rfl
@[simp] theorem Group.setVreg_nextTag (r l : Nat) (w : Word) : (g.setVreg r l w).nextTag = g.nextTag := rfl
@[simp] theorem Group.setVreg_stall (r l : Nat) (w : Word) : (g.setVreg r l w).stall = g.stall := rfl
@[simp] theorem Group.setVreg_aged (r l : Nat) (w : Word) : (g.setVreg r l w).aged = g.aged := rfl
@[simp] theorem Group.setVreg_imx (r l : Nat) (w : Word) : (g.setVreg r l w).imx = g.imx := rfl
@[simp] theorem Group.setVreg_inTrap (r l : Nat) (w : Word) : (g.setVreg r l w).inTrap = g.inTrap := rfl
@[simp] theorem Group.setVreg_tvec (r l : Nat) (w : Word) : (g.setVreg r l w).tvec = g.tvec := rfl
@[simp] theorem Group.setVreg_tmask (r l : Nat) (w : Word) : (g.setVreg r l w).tmask = g.tmask := rfl
@[simp] theorem Group.setVreg_tpc (r l : Nat) (w : Word) : (g.setVreg r l w).tpc = g.tpc := rfl
@[simp] theorem Group.setVreg_trec (r l : Nat) (w : Word) : (g.setVreg r l w).trec = g.trec := rfl
@[simp] theorem Group.setVreg_trapMask (r l : Nat) (w : Word) : (g.setVreg r l w).trapMask = g.trapMask := rfl
@[simp] theorem Group.setVreg_hrec (r l : Nat) (w : Word) : (g.setVreg r l w).hrec = g.hrec := rfl
@[simp] theorem Group.setVreg_hlanes (r l : Nat) (w : Word) : (g.setVreg r l w).hlanes = g.hlanes := rfl
@[simp] theorem Group.setVreg_trapWait (r l : Nat) (w : Word) : (g.setVreg r l w).trapWait = g.trapWait := rfl
@[simp] theorem Group.setVreg_frameRetry (r l : Nat) (w : Word) : (g.setVreg r l w).frameRetry = g.frameRetry := rfl
@[simp] theorem Group.setVreg_take (r l : Nat) (w : Word) : (g.setVreg r l w).take = g.take := rfl
@[simp] theorem Group.setVreg_lines (r l : Nat) (w : Word) : (g.setVreg r l w).lines = g.lines := rfl
@[simp] theorem Group.setVreg_replayDue (r l : Nat) (w : Word) : (g.setVreg r l w).replayDue = g.replayDue := rfl
@[simp] theorem Group.setVreg_rett (r l : Nat) (w : Word) : (g.setVreg r l w).rett = g.rett := rfl
@[simp] theorem Group.setVreg_seq (r l : Nat) (w : Word) : (g.setVreg r l w).seq = g.seq := rfl
@[simp] theorem Group.setVreg_ops (r l : Nat) (w : Word) : (g.setVreg r l w).ops = g.ops := rfl
@[simp] theorem Group.setVreg_wcb (r l : Nat) (w : Word) : (g.setVreg r l w).wcb = g.wcb := rfl
@[simp] theorem Group.setVreg_parts (r l : Nat) (w : Word) : (g.setVreg r l w).parts = g.parts := rfl
@[simp] theorem Group.setVreg_rels (r l : Nat) (w : Word) : (g.setVreg r l w).rels = g.rels := rfl
@[simp] theorem Group.setVreg_sfq (r l : Nat) (w : Word) : (g.setVreg r l w).sfq = g.sfq := rfl
@[simp] theorem Group.setVreg_sfwait (r l : Nat) (w : Word) : (g.setVreg r l w).sfwait = g.sfwait := rfl
@[simp] theorem Group.setVreg_again (r l : Nat) (w : Word) : (g.setVreg r l w).again = g.again := rfl
@[simp] theorem Group.setVreg_sfnew (r l : Nat) (w : Word) : (g.setVreg r l w).sfnew = g.sfnew := rfl
@[simp] theorem Group.setVreg_fence (r l : Nat) (w : Word) : (g.setVreg r l w).fence = g.fence := rfl
@[simp] theorem Group.setVreg_imprec (r l : Nat) (w : Word) : (g.setVreg r l w).imprec = g.imprec := rfl
@[simp] theorem Group.setVreg_wait (r l : Nat) (w : Word) : (g.setVreg r l w).wait = g.wait := rfl
@[simp] theorem Group.setVreg_storing (r l : Nat) (w : Word) : (g.setVreg r l w).storing = g.storing := rfl
@[simp] theorem Group.setVreg_tstat (r l : Nat) (w : Word) : (g.setVreg r l w).tstat = g.tstat := rfl
@[simp] theorem Group.setVreg_twait (r l : Nat) (w : Word) : (g.setVreg r l w).twait = g.twait := rfl
@[simp] theorem Group.setVreg_chans (r l : Nat) (w : Word) : (g.setVreg r l w).chans = g.chans := rfl
@[simp] theorem Group.setVreg_chain (r l : Nat) (w : Word) : (g.setVreg r l w).chain = g.chain := rfl
@[simp] theorem Group.setVreg_crc (r l : Nat) (w : Word) : (g.setVreg r l w).crc = g.crc := rfl
@[simp] theorem Group.setVreg_crcAt (r l : Nat) (w : Word) : (g.setVreg r l w).crcAt = g.crcAt := rfl
@[simp] theorem Group.setVreg_reg (r l : Nat) (w : Word) : (g.setVreg r l w).reg = g.reg := rfl
@[simp] theorem Group.setVreg_dbg (r l : Nat) (w : Word) : (g.setVreg r l w).dbg = g.dbg := rfl
@[simp] theorem Group.setVreg_dbgOnce (r l : Nat) (w : Word) : (g.setVreg r l w).dbgOnce = g.dbgOnce := rfl
@[simp] theorem Group.setVreg_dbgStep (r l : Nat) (w : Word) : (g.setVreg r l w).dbgStep = g.dbgStep := rfl
@[simp] theorem Group.setVreg_dbgLeft (r l : Nat) (w : Word) : (g.setVreg r l w).dbgLeft = g.dbgLeft := rfl
@[simp] theorem Group.setVreg_dbgStop (r l : Nat) (w : Word) : (g.setVreg r l w).dbgStop = g.dbgStop := rfl
@[simp] theorem Group.setVreg_stepBlocked (r l : Nat) (w : Word) : (g.setVreg r l w).stepBlocked = g.stepBlocked := rfl
@[simp] theorem Group.setVreg_sleepCount (r l : Nat) (w : Word) : (g.setVreg r l w).sleepCount = g.sleepCount := rfl
@[simp] theorem Group.setVreg_itemWait (r l : Nat) (w : Word) : (g.setVreg r l w).itemWait = g.itemWait := rfl

@[simp] theorem Group.setSreg_task (r : Nat) (w : Word) : (g.setSreg r w).task = g.task := rfl
@[simp] theorem Group.setSreg_taskId (r : Nat) (w : Word) : (g.setSreg r w).taskId = g.taskId := rfl
@[simp] theorem Group.setSreg_gidx (r : Nat) (w : Word) : (g.setSreg r w).gidx = g.gidx := rfl
@[simp] theorem Group.setSreg_team (r : Nat) (w : Word) : (g.setSreg r w).team = g.team := rfl
@[simp] theorem Group.setSreg_groupid (r : Nat) (w : Word) : (g.setSreg r w).groupid = g.groupid := rfl
@[simp] theorem Group.setSreg_teamid (r : Nat) (w : Word) : (g.setSreg r w).teamid = g.teamid := rfl
@[simp] theorem Group.setSreg_clrank (r : Nat) (w : Word) : (g.setSreg r w).clrank = g.clrank := rfl
@[simp] theorem Group.setSreg_role (r : Nat) (w : Word) : (g.setSreg r w).role = g.role := rfl
@[simp] theorem Group.setSreg_asid (r : Nat) (w : Word) : (g.setSreg r w).asid = g.asid := rfl
@[simp] theorem Group.setSreg_nreg (r : Nat) (w : Word) : (g.setSreg r w).nreg = g.nreg := rfl
@[simp] theorem Group.setSreg_rgn (r : Nat) (w : Word) : (g.setSreg r w).rgn = g.rgn := rfl
@[simp] theorem Group.setSreg_sched (r : Nat) (w : Word) : (g.setSreg r w).sched = g.sched := rfl
@[simp] theorem Group.setSreg_core (r : Nat) (w : Word) : (g.setSreg r w).core = g.core := rfl
@[simp] theorem Group.setSreg_fresh (r : Nat) (w : Word) : (g.setSreg r w).fresh = g.fresh := rfl
@[simp] theorem Group.setSreg_blocked (r : Nat) (w : Word) : (g.setSreg r w).blocked = g.blocked := rfl
@[simp] theorem Group.setSreg_entered (r : Nat) (w : Word) : (g.setSreg r w).entered = g.entered := rfl
@[simp] theorem Group.setSreg_sleep (r : Nat) (w : Word) : (g.setSreg r w).sleep = g.sleep := rfl
@[simp] theorem Group.setSreg_nopre (r : Nat) (w : Word) : (g.setSreg r w).nopre = g.nopre := rfl
@[simp] theorem Group.setSreg_overrun (r : Nat) (w : Word) : (g.setSreg r w).overrun = g.overrun := rfl
@[simp] theorem Group.setSreg_since (r : Nat) (w : Word) : (g.setSreg r w).since = g.since := rfl
@[simp] theorem Group.setSreg_lanes (r : Nat) (w : Word) : (g.setSreg r w).lanes = g.lanes := rfl
@[simp] theorem Group.setSreg_v (r : Nat) (w : Word) : (g.setSreg r w).v = g.v := rfl
@[simp] theorem Group.setSreg_s (r : Nat) (w : Word) : (g.setSreg r w).s = g.s.write 0#32 r w := rfl
@[simp] theorem Group.setSreg_p (r : Nat) (w : Word) : (g.setSreg r w).p = g.p := rfl
@[simp] theorem Group.setSreg_h (r : Nat) (w : Word) : (g.setSreg r w).h = g.h := rfl
@[simp] theorem Group.setSreg_wb (r : Nat) (w : Word) : (g.setSreg r w).wb = g.wb := rfl
@[simp] theorem Group.setSreg_ihead (r : Nat) (w : Word) : (g.setSreg r w).ihead = g.ihead := rfl
@[simp] theorem Group.setSreg_sr (r : Nat) (w : Word) : (g.setSreg r w).sr = g.sr := rfl
@[simp] theorem Group.setSreg_poison (r : Nat) (w : Word) : (g.setSreg r w).poison = g.poison.filter (· ≠ 2000 + r) := rfl
@[simp] theorem Group.setSreg_regErr (r : Nat) (w : Word) : (g.setSreg r w).regErr = g.regErr.erase (2000 + r) := rfl
@[simp] theorem Group.setSreg_absent (r : Nat) (w : Word) : (g.setSreg r w).absent = g.absent := rfl
@[simp] theorem Group.setSreg_missing (r : Nat) (w : Word) : (g.setSreg r w).missing = g.missing := rfl
@[simp] theorem Group.setSreg_latches (r : Nat) (w : Word) : (g.setSreg r w).latches = g.latches := rfl
@[simp] theorem Group.setSreg_stream (r : Nat) (w : Word) : (g.setSreg r w).stream = g.stream := rfl
@[simp] theorem Group.setSreg_run (r : Nat) (w : Word) : (g.setSreg r w).run = g.run := rfl
@[simp] theorem Group.setSreg_runFull (r : Nat) (w : Word) : (g.setSreg r w).runFull = g.runFull := rfl
@[simp] theorem Group.setSreg_nextTag (r : Nat) (w : Word) : (g.setSreg r w).nextTag = g.nextTag := rfl
@[simp] theorem Group.setSreg_stall (r : Nat) (w : Word) : (g.setSreg r w).stall = g.stall := rfl
@[simp] theorem Group.setSreg_aged (r : Nat) (w : Word) : (g.setSreg r w).aged = g.aged := rfl
@[simp] theorem Group.setSreg_imx (r : Nat) (w : Word) : (g.setSreg r w).imx = g.imx := rfl
@[simp] theorem Group.setSreg_inTrap (r : Nat) (w : Word) : (g.setSreg r w).inTrap = g.inTrap := rfl
@[simp] theorem Group.setSreg_tvec (r : Nat) (w : Word) : (g.setSreg r w).tvec = g.tvec := rfl
@[simp] theorem Group.setSreg_tmask (r : Nat) (w : Word) : (g.setSreg r w).tmask = g.tmask := rfl
@[simp] theorem Group.setSreg_tpc (r : Nat) (w : Word) : (g.setSreg r w).tpc = g.tpc := rfl
@[simp] theorem Group.setSreg_trec (r : Nat) (w : Word) : (g.setSreg r w).trec = g.trec := rfl
@[simp] theorem Group.setSreg_trapMask (r : Nat) (w : Word) : (g.setSreg r w).trapMask = g.trapMask := rfl
@[simp] theorem Group.setSreg_hrec (r : Nat) (w : Word) : (g.setSreg r w).hrec = g.hrec := rfl
@[simp] theorem Group.setSreg_hlanes (r : Nat) (w : Word) : (g.setSreg r w).hlanes = g.hlanes := rfl
@[simp] theorem Group.setSreg_trapWait (r : Nat) (w : Word) : (g.setSreg r w).trapWait = g.trapWait := rfl
@[simp] theorem Group.setSreg_frameRetry (r : Nat) (w : Word) : (g.setSreg r w).frameRetry = g.frameRetry := rfl
@[simp] theorem Group.setSreg_take (r : Nat) (w : Word) : (g.setSreg r w).take = g.take := rfl
@[simp] theorem Group.setSreg_lines (r : Nat) (w : Word) : (g.setSreg r w).lines = g.lines := rfl
@[simp] theorem Group.setSreg_replayDue (r : Nat) (w : Word) : (g.setSreg r w).replayDue = g.replayDue := rfl
@[simp] theorem Group.setSreg_rett (r : Nat) (w : Word) : (g.setSreg r w).rett = g.rett := rfl
@[simp] theorem Group.setSreg_seq (r : Nat) (w : Word) : (g.setSreg r w).seq = g.seq := rfl
@[simp] theorem Group.setSreg_ops (r : Nat) (w : Word) : (g.setSreg r w).ops = g.ops := rfl
@[simp] theorem Group.setSreg_wcb (r : Nat) (w : Word) : (g.setSreg r w).wcb = g.wcb := rfl
@[simp] theorem Group.setSreg_parts (r : Nat) (w : Word) : (g.setSreg r w).parts = g.parts := rfl
@[simp] theorem Group.setSreg_rels (r : Nat) (w : Word) : (g.setSreg r w).rels = g.rels := rfl
@[simp] theorem Group.setSreg_sfq (r : Nat) (w : Word) : (g.setSreg r w).sfq = g.sfq := rfl
@[simp] theorem Group.setSreg_sfwait (r : Nat) (w : Word) : (g.setSreg r w).sfwait = g.sfwait := rfl
@[simp] theorem Group.setSreg_again (r : Nat) (w : Word) : (g.setSreg r w).again = g.again := rfl
@[simp] theorem Group.setSreg_sfnew (r : Nat) (w : Word) : (g.setSreg r w).sfnew = g.sfnew := rfl
@[simp] theorem Group.setSreg_fence (r : Nat) (w : Word) : (g.setSreg r w).fence = g.fence := rfl
@[simp] theorem Group.setSreg_imprec (r : Nat) (w : Word) : (g.setSreg r w).imprec = g.imprec := rfl
@[simp] theorem Group.setSreg_wait (r : Nat) (w : Word) : (g.setSreg r w).wait = g.wait := rfl
@[simp] theorem Group.setSreg_storing (r : Nat) (w : Word) : (g.setSreg r w).storing = g.storing := rfl
@[simp] theorem Group.setSreg_tstat (r : Nat) (w : Word) : (g.setSreg r w).tstat = g.tstat := rfl
@[simp] theorem Group.setSreg_twait (r : Nat) (w : Word) : (g.setSreg r w).twait = g.twait := rfl
@[simp] theorem Group.setSreg_chans (r : Nat) (w : Word) : (g.setSreg r w).chans = g.chans := rfl
@[simp] theorem Group.setSreg_chain (r : Nat) (w : Word) : (g.setSreg r w).chain = g.chain := rfl
@[simp] theorem Group.setSreg_crc (r : Nat) (w : Word) : (g.setSreg r w).crc = g.crc := rfl
@[simp] theorem Group.setSreg_crcAt (r : Nat) (w : Word) : (g.setSreg r w).crcAt = g.crcAt := rfl
@[simp] theorem Group.setSreg_reg (r : Nat) (w : Word) : (g.setSreg r w).reg = g.reg := rfl
@[simp] theorem Group.setSreg_dbg (r : Nat) (w : Word) : (g.setSreg r w).dbg = g.dbg := rfl
@[simp] theorem Group.setSreg_dbgOnce (r : Nat) (w : Word) : (g.setSreg r w).dbgOnce = g.dbgOnce := rfl
@[simp] theorem Group.setSreg_dbgStep (r : Nat) (w : Word) : (g.setSreg r w).dbgStep = g.dbgStep := rfl
@[simp] theorem Group.setSreg_dbgLeft (r : Nat) (w : Word) : (g.setSreg r w).dbgLeft = g.dbgLeft := rfl
@[simp] theorem Group.setSreg_dbgStop (r : Nat) (w : Word) : (g.setSreg r w).dbgStop = g.dbgStop := rfl
@[simp] theorem Group.setSreg_stepBlocked (r : Nat) (w : Word) : (g.setSreg r w).stepBlocked = g.stepBlocked := rfl
@[simp] theorem Group.setSreg_sleepCount (r : Nat) (w : Word) : (g.setSreg r w).sleepCount = g.sleepCount := rfl
@[simp] theorem Group.setSreg_itemWait (r : Nat) (w : Word) : (g.setSreg r w).itemWait = g.itemWait := rfl

@[simp] theorem Group.setHeddle_task (n : Nat) (w : Word) : (g.setHeddle n w).task = g.task := rfl
@[simp] theorem Group.setHeddle_taskId (n : Nat) (w : Word) : (g.setHeddle n w).taskId = g.taskId := rfl
@[simp] theorem Group.setHeddle_gidx (n : Nat) (w : Word) : (g.setHeddle n w).gidx = g.gidx := rfl
@[simp] theorem Group.setHeddle_team (n : Nat) (w : Word) : (g.setHeddle n w).team = g.team := rfl
@[simp] theorem Group.setHeddle_groupid (n : Nat) (w : Word) : (g.setHeddle n w).groupid = g.groupid := rfl
@[simp] theorem Group.setHeddle_teamid (n : Nat) (w : Word) : (g.setHeddle n w).teamid = g.teamid := rfl
@[simp] theorem Group.setHeddle_clrank (n : Nat) (w : Word) : (g.setHeddle n w).clrank = g.clrank := rfl
@[simp] theorem Group.setHeddle_role (n : Nat) (w : Word) : (g.setHeddle n w).role = g.role := rfl
@[simp] theorem Group.setHeddle_asid (n : Nat) (w : Word) : (g.setHeddle n w).asid = g.asid := rfl
@[simp] theorem Group.setHeddle_nreg (n : Nat) (w : Word) : (g.setHeddle n w).nreg = g.nreg := rfl
@[simp] theorem Group.setHeddle_rgn (n : Nat) (w : Word) : (g.setHeddle n w).rgn = g.rgn := rfl
@[simp] theorem Group.setHeddle_sched (n : Nat) (w : Word) : (g.setHeddle n w).sched = g.sched := rfl
@[simp] theorem Group.setHeddle_core (n : Nat) (w : Word) : (g.setHeddle n w).core = g.core := rfl
@[simp] theorem Group.setHeddle_fresh (n : Nat) (w : Word) : (g.setHeddle n w).fresh = g.fresh := rfl
@[simp] theorem Group.setHeddle_blocked (n : Nat) (w : Word) : (g.setHeddle n w).blocked = g.blocked := rfl
@[simp] theorem Group.setHeddle_entered (n : Nat) (w : Word) : (g.setHeddle n w).entered = g.entered := rfl
@[simp] theorem Group.setHeddle_sleep (n : Nat) (w : Word) : (g.setHeddle n w).sleep = g.sleep := rfl
@[simp] theorem Group.setHeddle_nopre (n : Nat) (w : Word) : (g.setHeddle n w).nopre = g.nopre := rfl
@[simp] theorem Group.setHeddle_overrun (n : Nat) (w : Word) : (g.setHeddle n w).overrun = g.overrun := rfl
@[simp] theorem Group.setHeddle_since (n : Nat) (w : Word) : (g.setHeddle n w).since = g.since := rfl
@[simp] theorem Group.setHeddle_lanes (n : Nat) (w : Word) : (g.setHeddle n w).lanes = g.lanes := rfl
@[simp] theorem Group.setHeddle_v (n : Nat) (w : Word) : (g.setHeddle n w).v = g.v := rfl
@[simp] theorem Group.setHeddle_s (n : Nat) (w : Word) : (g.setHeddle n w).s = g.s := rfl
@[simp] theorem Group.setHeddle_p (n : Nat) (w : Word) : (g.setHeddle n w).p = g.p := rfl
@[simp] theorem Group.setHeddle_h (n : Nat) (w : Word) : (g.setHeddle n w).h = g.h.write 0#32 n w := rfl
@[simp] theorem Group.setHeddle_wb (n : Nat) (w : Word) : (g.setHeddle n w).wb = g.wb := rfl
@[simp] theorem Group.setHeddle_ihead (n : Nat) (w : Word) : (g.setHeddle n w).ihead = g.ihead := rfl
@[simp] theorem Group.setHeddle_sr (n : Nat) (w : Word) : (g.setHeddle n w).sr = g.sr := rfl
@[simp] theorem Group.setHeddle_poison (n : Nat) (w : Word) : (g.setHeddle n w).poison = g.poison := rfl
@[simp] theorem Group.setHeddle_regErr (n : Nat) (w : Word) : (g.setHeddle n w).regErr = g.regErr := rfl
@[simp] theorem Group.setHeddle_absent (n : Nat) (w : Word) : (g.setHeddle n w).absent = g.absent := rfl
@[simp] theorem Group.setHeddle_missing (n : Nat) (w : Word) : (g.setHeddle n w).missing = g.missing := rfl
@[simp] theorem Group.setHeddle_latches (n : Nat) (w : Word) : (g.setHeddle n w).latches = g.latches := rfl
@[simp] theorem Group.setHeddle_stream (n : Nat) (w : Word) : (g.setHeddle n w).stream = g.stream := rfl
@[simp] theorem Group.setHeddle_run (n : Nat) (w : Word) : (g.setHeddle n w).run = g.run := rfl
@[simp] theorem Group.setHeddle_runFull (n : Nat) (w : Word) : (g.setHeddle n w).runFull = g.runFull := rfl
@[simp] theorem Group.setHeddle_nextTag (n : Nat) (w : Word) : (g.setHeddle n w).nextTag = g.nextTag := rfl
@[simp] theorem Group.setHeddle_stall (n : Nat) (w : Word) : (g.setHeddle n w).stall = g.stall := rfl
@[simp] theorem Group.setHeddle_aged (n : Nat) (w : Word) : (g.setHeddle n w).aged = g.aged := rfl
@[simp] theorem Group.setHeddle_imx (n : Nat) (w : Word) : (g.setHeddle n w).imx = g.imx := rfl
@[simp] theorem Group.setHeddle_inTrap (n : Nat) (w : Word) : (g.setHeddle n w).inTrap = g.inTrap := rfl
@[simp] theorem Group.setHeddle_tvec (n : Nat) (w : Word) : (g.setHeddle n w).tvec = g.tvec := rfl
@[simp] theorem Group.setHeddle_tmask (n : Nat) (w : Word) : (g.setHeddle n w).tmask = g.tmask := rfl
@[simp] theorem Group.setHeddle_tpc (n : Nat) (w : Word) : (g.setHeddle n w).tpc = g.tpc := rfl
@[simp] theorem Group.setHeddle_trec (n : Nat) (w : Word) : (g.setHeddle n w).trec = g.trec := rfl
@[simp] theorem Group.setHeddle_trapMask (n : Nat) (w : Word) : (g.setHeddle n w).trapMask = g.trapMask := rfl
@[simp] theorem Group.setHeddle_hrec (n : Nat) (w : Word) : (g.setHeddle n w).hrec = g.hrec := rfl
@[simp] theorem Group.setHeddle_hlanes (n : Nat) (w : Word) : (g.setHeddle n w).hlanes = g.hlanes := rfl
@[simp] theorem Group.setHeddle_trapWait (n : Nat) (w : Word) : (g.setHeddle n w).trapWait = g.trapWait := rfl
@[simp] theorem Group.setHeddle_frameRetry (n : Nat) (w : Word) : (g.setHeddle n w).frameRetry = g.frameRetry := rfl
@[simp] theorem Group.setHeddle_take (n : Nat) (w : Word) : (g.setHeddle n w).take = g.take := rfl
@[simp] theorem Group.setHeddle_lines (n : Nat) (w : Word) : (g.setHeddle n w).lines = g.lines := rfl
@[simp] theorem Group.setHeddle_replayDue (n : Nat) (w : Word) : (g.setHeddle n w).replayDue = g.replayDue := rfl
@[simp] theorem Group.setHeddle_rett (n : Nat) (w : Word) : (g.setHeddle n w).rett = g.rett := rfl
@[simp] theorem Group.setHeddle_seq (n : Nat) (w : Word) : (g.setHeddle n w).seq = g.seq := rfl
@[simp] theorem Group.setHeddle_ops (n : Nat) (w : Word) : (g.setHeddle n w).ops = g.ops := rfl
@[simp] theorem Group.setHeddle_wcb (n : Nat) (w : Word) : (g.setHeddle n w).wcb = g.wcb := rfl
@[simp] theorem Group.setHeddle_parts (n : Nat) (w : Word) : (g.setHeddle n w).parts = g.parts := rfl
@[simp] theorem Group.setHeddle_rels (n : Nat) (w : Word) : (g.setHeddle n w).rels = g.rels := rfl
@[simp] theorem Group.setHeddle_sfq (n : Nat) (w : Word) : (g.setHeddle n w).sfq = g.sfq := rfl
@[simp] theorem Group.setHeddle_sfwait (n : Nat) (w : Word) : (g.setHeddle n w).sfwait = g.sfwait := rfl
@[simp] theorem Group.setHeddle_again (n : Nat) (w : Word) : (g.setHeddle n w).again = g.again := rfl
@[simp] theorem Group.setHeddle_sfnew (n : Nat) (w : Word) : (g.setHeddle n w).sfnew = g.sfnew := rfl
@[simp] theorem Group.setHeddle_fence (n : Nat) (w : Word) : (g.setHeddle n w).fence = g.fence := rfl
@[simp] theorem Group.setHeddle_imprec (n : Nat) (w : Word) : (g.setHeddle n w).imprec = g.imprec := rfl
@[simp] theorem Group.setHeddle_wait (n : Nat) (w : Word) : (g.setHeddle n w).wait = g.wait := rfl
@[simp] theorem Group.setHeddle_storing (n : Nat) (w : Word) : (g.setHeddle n w).storing = g.storing := rfl
@[simp] theorem Group.setHeddle_tstat (n : Nat) (w : Word) : (g.setHeddle n w).tstat = g.tstat := rfl
@[simp] theorem Group.setHeddle_twait (n : Nat) (w : Word) : (g.setHeddle n w).twait = g.twait := rfl
@[simp] theorem Group.setHeddle_chans (n : Nat) (w : Word) : (g.setHeddle n w).chans = g.chans := rfl
@[simp] theorem Group.setHeddle_chain (n : Nat) (w : Word) : (g.setHeddle n w).chain = g.chain := rfl
@[simp] theorem Group.setHeddle_crc (n : Nat) (w : Word) : (g.setHeddle n w).crc = g.crc := rfl
@[simp] theorem Group.setHeddle_crcAt (n : Nat) (w : Word) : (g.setHeddle n w).crcAt = g.crcAt := rfl
@[simp] theorem Group.setHeddle_reg (n : Nat) (w : Word) : (g.setHeddle n w).reg = g.reg := rfl
@[simp] theorem Group.setHeddle_dbg (n : Nat) (w : Word) : (g.setHeddle n w).dbg = g.dbg := rfl
@[simp] theorem Group.setHeddle_dbgOnce (n : Nat) (w : Word) : (g.setHeddle n w).dbgOnce = g.dbgOnce := rfl
@[simp] theorem Group.setHeddle_dbgStep (n : Nat) (w : Word) : (g.setHeddle n w).dbgStep = g.dbgStep := rfl
@[simp] theorem Group.setHeddle_dbgLeft (n : Nat) (w : Word) : (g.setHeddle n w).dbgLeft = g.dbgLeft := rfl
@[simp] theorem Group.setHeddle_dbgStop (n : Nat) (w : Word) : (g.setHeddle n w).dbgStop = g.dbgStop := rfl
@[simp] theorem Group.setHeddle_stepBlocked (n : Nat) (w : Word) : (g.setHeddle n w).stepBlocked = g.stepBlocked := rfl
@[simp] theorem Group.setHeddle_sleepCount (n : Nat) (w : Word) : (g.setHeddle n w).sleepCount = g.sleepCount := rfl
@[simp] theorem Group.setHeddle_itemWait (n : Nat) (w : Word) : (g.setHeddle n w).itemWait = g.itemWait := rfl

@[simp] theorem Group.sreg_setSreg (r j : Nat) (w : Word) : (g.setSreg r w).sreg j = if j = r then w else g.sreg j := by
  simp [Group.sreg]
@[simp] theorem Group.heddle_setHeddle (r j : Nat) (w : Word) :
    (g.setHeddle r w).heddle j = if j = r then w else g.heddle j := by simp [Group.heddle]
/-- Vector registers do not overlap: lanes are below 32. -/
theorem Group.vreg_setVreg (r l j i : Nat) (w : Word) (hl : l < 32) (hi : i < 32) :
    (g.setVreg r l w).vreg j i = if j = r ∧ i = l then w else g.vreg j i := by
  have : (32 * j + i = 32 * r + l) ↔ (j = r ∧ i = l) := by omega
  simp [Group.vreg, Group.setVreg, this]
/-- p15 reads as 1 in every lane (R107). -/
@[simp] theorem Group.preg_fifteen : g.preg 15 = 0xFFFFFFFF#32 := rfl
/-- A predicate write; one to p15 is discarded (R107). -/
theorem Group.preg_setPreg (r j : Nat) (w : Word) :
    (g.setPreg r w).preg j = if j = r ∧ r ≠ 15 then w else g.preg j := by
  unfold Group.setPreg Group.preg
  by_cases hr : r = 15 <;> by_cases hj : j = 15 <;> by_cases h : j = r <;> simp_all

end Sys2Proof.Machine
end

