-- ==== Sys2Proof/Laws/Check.lean ====
section
/-! SUPPORT. What an issue does: the stops of an instruction, and the checks of R45 that pass. -/
namespace Sys2Proof.Machine

-- The issue ---------------------------------------------------------------------------------------------------------

/-- An instruction of an ACTIVE group always answers a next state: its effect, its trap, or a blocked bundle. -/
theorem State.run_next (s : State) (b : State → Go State) (h : s.me.sched = .active) : ∃ t, s.run b = .next t := by
  unfold State.run
  rw [if_pos h]
  split <;> exact ⟨_, rfl⟩

/-- Without an ACTIVE group nothing issues. -/
theorem State.run_fault (s : State) (b : State → Go State) (h : s.me.sched ≠ .active) : s.run b = .fault .noIssuingGroup := by
  unfold State.run
  rw [if_neg h]

/-- An instruction that neither traps nor waits has the effect of its body. -/
theorem State.run_ok {s t : State} {b : State → Go State} (h : s.me.sched = .active) (hb : b s.begun = .ok t) :
    s.run b = .next t := by
  unfold State.run
  rw [if_pos h]
  unfold State.begun at hb
  simp [hb]

@[simp] theorem State.begun_cur (s : State) : s.begun.cur = s.cur := rfl
@[simp] theorem State.begun_core (s : State) (c : Nat) : s.begun.core c = s.core c := rfl
@[simp] theorem State.begun_mem (s : State) : s.begun.mem = s.mem := rfl
@[simp] theorem State.begun_team (s : State) (k : Nat) : s.begun.team k = s.team k := rfl
@[simp] theorem State.begun_task (s : State) (k : Nat) : s.begun.task k = s.task k := rfl
@[simp] theorem State.begun_setMe (s : State) (g : Group) : s.begun.setMe g = s.setMe g := by
  simp [State.begun]
theorem State.begun_me (s : State) : s.begun.me = { s.me.enter with blocked := false, entered := false } := by
  simp [State.begun]

/-- What the start of an instruction may change of its group: the issue stream and its latches. -/
theorem Group.enter_eq (g : Group) : g.enter = { g with stream := g.enter.stream, latches := g.enter.latches } := by
  unfold Group.enter
  dsimp only
  split <;> rfl

section begun
variable (s : State)
theorem State.begun_frame : s.begun.me =
    { s.me with stream := s.begun.me.stream, latches := s.begun.me.latches, blocked := false, entered := false } := by
  rw [State.begun_me, Group.enter_eq]
@[simp] theorem State.begun_lanes : s.begun.me.lanes = s.me.lanes := by rw [State.begun_frame]
@[simp] theorem State.begun_v : s.begun.me.v = s.me.v := by rw [State.begun_frame]
@[simp] theorem State.begun_s : s.begun.me.s = s.me.s := by rw [State.begun_frame]
@[simp] theorem State.begun_p : s.begun.me.p = s.me.p := by rw [State.begun_frame]
@[simp] theorem State.begun_h : s.begun.me.h = s.me.h := by rw [State.begun_frame]
@[simp] theorem State.begun_wb : s.begun.me.wb = s.me.wb := by rw [State.begun_frame]
@[simp] theorem State.begun_imx : s.begun.me.imx = s.me.imx := by rw [State.begun_frame]
@[simp] theorem State.begun_ops : s.begun.me.ops = s.me.ops := by rw [State.begun_frame]
@[simp] theorem State.begun_mecore : s.begun.me.core = s.me.core := by rw [State.begun_frame]
@[simp] theorem State.begun_run : s.begun.me.run = s.me.run := by rw [State.begun_frame]
@[simp] theorem State.begun_sched : s.begun.me.sched = s.me.sched := by rw [State.begun_frame]
@[simp] theorem State.begun_bundle : s.begun.me.bundle = s.me.bundle := by rw [State.begun_frame]; rfl
@[simp] theorem State.begun_first : s.begun.me.first = s.me.first := by rw [State.begun_frame]; rfl
@[simp] theorem State.begun_pc : s.begun.me.pc = s.me.pc := by rw [State.begun_frame]; rfl
@[simp] theorem State.begun_lane (l : Nat) : s.begun.me.lane l = s.me.lane l := by rw [State.begun_frame]; rfl
@[simp] theorem State.begun_vreg (r l : Nat) : s.begun.me.vreg r l = s.me.vreg r l := by rw [State.begun_frame]; rfl
@[simp] theorem State.begun_sreg (r : Nat) : s.begun.me.sreg r = s.me.sreg r := by rw [State.begun_frame]; rfl
@[simp] theorem State.begun_preg (r : Nat) : s.begun.me.preg r = s.me.preg r := by rw [State.begun_frame]; rfl
@[simp] theorem State.begun_heddle (r : Nat) : s.begun.me.heddle r = s.me.heddle r := by rw [State.begun_frame]; rfl
@[simp] theorem State.begun_nextPc (pc : Dword) : s.begun.me.nextPc pc = s.me.nextPc pc := by rw [State.begun_frame]; rfl
end begun

-- The checks ----------------------------------------------------------------------------------------------------------

theorem must_true {c : Bool} (cause : Nat) (h : c = true) : must c cause = .ok () := by simp [must, h]
theorem mustW_true {c : Bool} (cause w : Nat) (h : c = true) : mustW c cause w = .ok () := by simp [mustW, h]
theorem awaits_true {c : Bool} (h : c = true) : awaits c = .ok () := by simp [awaits, h]
theorem must_false {c : Bool} (cause : Nat) (h : c = false) : must c cause = trapO cause := by simp [must, h]
theorem mustW_false {c : Bool} (cause w : Nat) (h : c = false) : mustW c cause w = trapW cause w := by simp [mustW, h]

theorem scoreboard_ok {g : Group} {us : List Use} (h : g.ops.any (Op.inWayOf g us) = false) : scoreboard g us = .ok () := by
  have : g.ops.find? (Op.inWayOf g us) = none := List.find?_eq_none.2 (by simpa using h)
  simp [scoreboard, this]

theorem presentOr_ok {g : Group} {rs : List Nat} (h : rs.all (fun r => !g.absent.contains r) = true) :
    presentOr g rs = .ok () := by
  induction rs with
  | nil => rfl
  | cons r rs ih =>
    simp only [List.all_cons, Bool.and_eq_true, Bool.not_eq_true'] at h
    rw [presentOr, if_neg (by simpa using h.1)]
    exact ih h.2

theorem readCodes_ok {s : State} {ks : List Nat}
    (h : ks.all (fun k => !s.me.poison.contains k && (s.me.regErr.read [] k).isEmpty) = true) :
    readCodes s ks = .ok s := by
  induction ks with
  | nil => rfl
  | cons k ks ih =>
    simp only [List.all_cons, Bool.and_eq_true, Bool.not_eq_true'] at h
    obtain ⟨⟨hp, he⟩, hr⟩ := h
    simp only [readCodes, he, hp]
    simpa using ih hr

/-- An instruction that passes goes on with the state unchanged. -/
theorem Pre.check_of_passes {p : Pre} {s : State} (h : p.Passes s) : p.check s = .ok s := by
  have hsrc : (p.uses.filter fun u => !u.dst) = sourcesOf p.uses := rfl
  unfold Pre.check
  simp only [hsrc]
  rw [must_true _ (by simp [h.imx, h.legal]),
    must_true _ (by simp only [h.operands, h.operandOk, h.classes, Bool.and_self]),
    must_true _ h.priv, must_true _ h.role, must_true _ h.bundle]
  simp only [h.window, h.channels, scoreboard_ok h.free, presentOr_ok h.present, readCodes_ok h.sound,
    mustW_true _ _ h.region, bind, Except.bind]

end Sys2Proof.Machine
end

