-- ==== Sys2Proof/Laws/Pipe.lean ====
section
/-! SUPPORT. Register writes, the end of an instruction, and the pipe instructions as a whole. -/
namespace Sys2Proof.Machine

-- Bundles and lanes -------------------------------------------------------------------------------------------------

theorem Group.mem_bundle_lt {g : Group} {l : Nat} (h : l ∈ g.bundle) : l < 32 := by
  have live : ∀ m ∈ g.liveLanes, m < 32 := fun m hm => by
    simp only [Group.liveLanes, List.mem_filter, List.mem_range] at hm
    exact hm.1
  unfold Group.bundle at h
  split at h
  · exact live l (List.mem_filter.1 h).1
  · split at h
    · unfold Group.bundleIn at h
      dsimp only at h
      split at h
      · exact live l (List.mem_filter.1 (List.mem_filter.1 h).1).1
      · simp at h
    · exact live l (List.mem_filter.1 h).1

theorem Group.bundle_nodup (g : Group) : g.bundle.Nodup := by
  have live : g.liveLanes.Nodup := List.nodup_range.filter _
  unfold Group.bundle
  split
  · exact live.filter _
  · split
    · unfold Group.bundleIn
      dsimp only
      split
      · exact (live.filter _).filter _
      · exact List.nodup_nil
    · exact live.filter _

theorem Group.first_mem {g : Group} (h : g.bundle ≠ []) : g.first ∈ g.bundle := by
  unfold Group.first
  cases hb : g.bundle with
  | nil => exact absurd hb h
  | cons l r => simp

theorem Group.live_of_mem_bundle {g : Group} {l : Nat} (h : l ∈ g.bundle) : (g.lane l).st = .live := by
  have live : ∀ m ∈ g.liveLanes, (g.lane m).st = .live := fun m hm => by
    simp only [Group.liveLanes, List.mem_filter, Group.isLive, decide_eq_true_eq] at hm
    exact hm.2
  unfold Group.bundle at h
  split at h
  · exact live l (List.mem_filter.1 h).1
  · split at h
    · unfold Group.bundleIn at h
      dsimp only at h
      split at h
      · exact live l (List.mem_filter.1 (List.mem_filter.1 h).1).1
      · simp at h
    · exact live l (List.mem_filter.1 h).1

theorem Group.lane_of_mem_bundle {g : Group} {l : Nat} (h : l ∈ g.bundle) : l < g.lanes.length := by
  have := Group.live_of_mem_bundle h
  by_contra hl
  rw [Group.lane, List.getD_eq_default _ _ (by omega)] at this
  cases this

/-- A change of some lanes, lane by lane. -/
theorem Group.lane_mapLanes (g : Group) (ls : List Nat) (f : Lane → Lane) (l : Nat) (h : l ∈ ls → l < g.lanes.length) :
    (g.mapLanes ls f).lane l = if l ∈ ls then f (g.lane l) else g.lane l := by
  unfold Group.mapLanes Group.lane
  by_cases hl : l < g.lanes.length
  · by_cases hm : l ∈ ls <;> simp [List.getD_eq_getElem?_getD, hl, hm]
  · have hm : l ∉ ls := fun hm => hl (h hm)
    simp [List.getD_eq_getElem?_getD, hl, hm]

theorem Group.lane_jump (g : Group) (ls : List Nat) (f : Nat → Dword) (l : Nat) (h : l ∈ ls → l < g.lanes.length) :
    (g.jump (ls.map fun l => (l, f l))).lane l = if l ∈ ls then { g.lane l with pc := f l } else g.lane l := by
  have find : ∀ ls : List Nat, (ls.map fun l => (l, f l)).find? (fun t => decide (t.1 = l)) =
      if l ∈ ls then some (l, f l) else none := by
    intro ls
    induction ls with
    | nil => rfl
    | cons x r ih =>
      by_cases hx : x = l
      · simp [hx]
      · simp only [List.map_cons, List.find?_cons, hx, decide_false, ih, List.mem_cons, Ne.symm hx, false_or]
  unfold Group.jump Group.lane
  by_cases hl : l < g.lanes.length
  · simp only [List.getD_eq_getElem?_getD, List.getElem?_map, List.getElem?_zipIdx, hl,
      List.getElem?_eq_getElem, Option.map_some, Nat.zero_add, find, Option.getD_some]
    by_cases hm : l ∈ ls <;> simp [hm]
  · have hm : l ∉ ls := fun hm => hl (h hm)
    simp [List.getD_eq_getElem?_getD, hl, hm]

-- Register writes ---------------------------------------------------------------------------------------------------

section writes
variable (g : Group)

/-- A write of one register's lanes changes that register's lanes and its line's marks, and nothing else. -/
theorem Group.writeLanes_frame (r : Nat) (lanes : List Nat) (xs : List Word) :
    g.writeLanes r lanes xs = { g with
      v := (g.writeLanes r lanes xs).v, dirty := (g.writeLanes r lanes xs).dirty
      absent := (g.writeLanes r lanes xs).absent, lines := (g.writeLanes r lanes xs).lines, poison := (g.writeLanes r lanes xs).poison
      regErr := (g.writeLanes r lanes xs).regErr } := by
  have key : ∀ (es : List (Nat × Word)) (g : Group), es.foldl (fun g e => g.setVreg r e.1 e.2) g =
      { g with
        v := (es.foldl (fun g e => g.setVreg r e.1 e.2) g).v
        dirty := (es.foldl (fun g e => g.setVreg r e.1 e.2) g).dirty } := by
    intro es
    induction es with
    | nil => intro g; rfl
    | cons e es ih =>
      intro g
      rw [List.foldl_cons, ih]
      rfl
  unfold Group.writeLanes
  dsimp only
  split
  · rw [key]
    rfl
  · rw [key]

theorem Group.vreg_writeLanes (r : Nat) (lanes : List Nat) (val : Nat → Word) (j l : Nat) (hl : l < 32)
    (hs : ∀ x ∈ lanes, x < 32) :
    (g.writeLanes r lanes (lanes.map val)).vreg j l = if j = r ∧ l ∈ lanes then val l else g.vreg j l := by
  have key : ∀ (ls : List Nat) (g : Group), (∀ x ∈ ls, x < 32) →
      ((ls.zip (ls.map val)).foldl (fun g e => g.setVreg r e.1 e.2) g).vreg j l =
        if j = r ∧ l ∈ ls then val l else g.vreg j l := by
    intro ls
    induction ls with
    | nil => intro g _; simp
    | cons x ls ih =>
      intro g hx
      simp only [List.map_cons, List.zip_cons_cons, List.foldl_cons]
      rw [ih _ fun y hy => hx y (by simp [hy]), Group.vreg_setVreg _ _ _ _ _ _ (hx x (by simp)) hl]
      by_cases hj : j = r <;> by_cases hm : l ∈ ls <;> by_cases he : l = x <;> simp [hj, hm, he]
  unfold Group.writeLanes
  dsimp only
  rw [key lanes _ hs]
  by_cases hn : lanes.length = 32
  · rw [if_pos hn]
    rfl
  · rw [if_neg hn]

@[simp] theorem Group.sreg_writeLanes (r : Nat) (lanes : List Nat) (xs : List Word) (j : Nat) :
    (g.writeLanes r lanes xs).sreg j = g.sreg j := by rw [Group.writeLanes_frame]; rfl
@[simp] theorem Group.lane_writeLanes (r : Nat) (lanes : List Nat) (xs : List Word) (j : Nat) :
    (g.writeLanes r lanes xs).lane j = g.lane j := by rw [Group.writeLanes_frame]; rfl
@[simp] theorem Group.wb_writeLanes (r : Nat) (lanes : List Nat) (xs : List Word) :
    (g.writeLanes r lanes xs).wb = g.wb := by rw [Group.writeLanes_frame]

end writes

/-- The register part of a result write: a v or s destination, or none. -/
def Group.put32 (g : Group) (d : Operand) (lanes : List Nat) (xs : List Word) : Group :=
  match d with
  | .v n => g.writeLanes (g.wb + n.toNat) lanes xs
  | .s n => g.setSreg n.toNat (xs.headD 0#32)
  | _ => g

theorem State.writeResult_plain (s : State) {d : Operand} (h : plainOperand d = true) (lanes : List Nat) (xs : List Word) :
    s.writeResult d lanes xs = .ok (s.setMe (s.me.put32 d lanes xs)) ∨
      (s.writeResult d lanes xs = .ok s ∧ s.me.put32 d lanes xs = s.me) := by
  cases d <;> simp_all [State.writeResult, Group.put32, plainOperand, channelOf]

theorem Group.put32_frame (g : Group) (d : Operand) (lanes : List Nat) (xs : List Word) :
    g.put32 d lanes xs = { g with
      v := (g.put32 d lanes xs).v, dirty := (g.put32 d lanes xs).dirty, s := (g.put32 d lanes xs).s
      absent := (g.put32 d lanes xs).absent
      lines := (g.put32 d lanes xs).lines, poison := (g.put32 d lanes xs).poison
      regErr := (g.put32 d lanes xs).regErr } := by
  cases d <;> simp only [Group.put32]
  · rw [Group.writeLanes_frame]
  · rfl

/-- The observable part of a 32-bit result write. -/
theorem Group.put32_delivered {g : Group} {d : Operand} (hb : g.bundle ≠ []) (val : Nat → Word) {lanes : List Nat}
    (hl : lanes = g.bundle ∨ lanes = g.bundle.take 1 ∧ isV d = false) :
    Delivered g (g.put32 d lanes (lanes.map val)) d 1 fun _ => val := by
  have head : (lanes.map val).headD 0#32 = val g.first := by
    unfold Group.first
    cases hb' : g.bundle with
    | nil => exact absurd hb' hb
    | cons x r => rcases hl with rfl | ⟨rfl, -⟩ <;> simp [hb']
  constructor
  · intro r l hl32
    cases d with
    | v n =>
      have hl : lanes = g.bundle := by simpa [isV] using hl
      subst hl
      rw [Group.put32, Group.vreg_writeLanes _ _ _ _ _ _ hl32 fun x hx => Group.mem_bundle_lt hx]
      have : (r = g.wb + n.toNat ∧ l ∈ g.bundle) ↔
          (g.wb + n.toNat ≤ r ∧ r < g.wb + n.toNat + 1 ∧ l ∈ g.bundle) := by
        constructor
        · rintro ⟨h, h'⟩
          exact ⟨by omega, by omega, h'⟩
        · rintro ⟨h, h', h''⟩
          exact ⟨by omega, h''⟩
      simp only [this]
    | s n => rfl
    | _ => rfl
  · intro r
    cases d with
    | s n =>
      have : (r = n.toNat) ↔ (n.toNat ≤ r ∧ r < n.toNat + 1) := by omega
      simp only [Group.put32, Group.sreg_setSreg, head, this]
    | v n => simp [Group.put32]
    | _ => rfl

-- The end of an instruction -------------------------------------------------------------------------------------------

section ends
variable (g g0 : Group)

theorem Group.countRun_frame (nw : Bool) (read : List Nat) :
    g.countRun g0 nw read = { g with run := (g.countRun g0 nw read).run, runFull := (g.countRun g0 nw read).runFull } := by
  unfold Group.countRun
  repeat' split
  all_goals rfl

@[simp] theorem Group.lane_countRun (nw : Bool) (read : List Nat) (l : Nat) : (g.countRun g0 nw read).lane l = g.lane l := by
  rw [Group.countRun_frame]; rfl
@[simp] theorem Group.vreg_countRun (nw : Bool) (read : List Nat) (r l : Nat) :
    (g.countRun g0 nw read).vreg r l = g.vreg r l := by rw [Group.countRun_frame]; rfl
@[simp] theorem Group.sreg_countRun (nw : Bool) (read : List Nat) (r : Nat) :
    (g.countRun g0 nw read).sreg r = g.sreg r := by rw [Group.countRun_frame]; rfl
@[simp] theorem Group.preg_countRun (nw : Bool) (read : List Nat) (r : Nat) :
    (g.countRun g0 nw read).preg r = g.preg r := by rw [Group.countRun_frame]; rfl

theorem Group.touch_frame (us : List Use) (n : Nat) : g.touch g0 us n = { g with used := (g.touch g0 us n).used } := rfl
@[simp] theorem Group.lane_touch (us : List Use) (n l : Nat) : (g.touch g0 us n).lane l = g.lane l := rfl
@[simp] theorem Group.vreg_touch (us : List Use) (n r l : Nat) : (g.touch g0 us n).vreg r l = g.vreg r l := rfl
@[simp] theorem Group.sreg_touch (us : List Use) (n r : Nat) : (g.touch g0 us n).sreg r = g.sreg r := rfl

theorem Group.advance_frame (ls : List Nat) :
    g.advance ls = { g with lanes := (g.advance ls).lanes, imx := none, aged := none } := rfl
@[simp] theorem Group.vreg_advance (ls : List Nat) (r l : Nat) : (g.advance ls).vreg r l = g.vreg r l := rfl
@[simp] theorem Group.sreg_advance (ls : List Nat) (r : Nat) : (g.advance ls).sreg r = g.sreg r := rfl
@[simp] theorem Group.preg_advance (ls : List Nat) (r : Nat) : (g.advance ls).preg r = g.preg r := rfl
@[simp] theorem Group.heddle_advance (ls : List Nat) (r : Nat) : (g.advance ls).heddle r = g.heddle r := rfl

theorem Group.lane_advance (ls : List Nat) (l : Nat) (h : l ∈ ls → l < g.lanes.length) :
    (g.advance ls).lane l = if l ∈ ls then { g.lane l with pc := g.nextPc (g.lane l).pc } else g.lane l :=
  Group.lane_mapLanes g ls (fun x => { x with pc := g.nextPc x.pc }) l h

end ends

@[simp] theorem Group.vreg_shift (g : Group) (nw vec : Bool) (xs : List Word) (r l : Nat) :
    (g.shift nw vec xs).vreg r l = g.vreg r l := rfl
@[simp] theorem Group.sreg_shift (g : Group) (nw vec : Bool) (xs : List Word) (r : Nat) :
    (g.shift nw vec xs).sreg r = g.sreg r := rfl

/-- A group that differs only as an instruction's result may. -/
theorem OnlyRegs.refl (g : Group) : OnlyRegs g g := rfl

theorem OnlyRegs.trans {g h k : Group} (a : OnlyRegs g h) (b : OnlyRegs h k) : OnlyRegs g k := by
  unfold OnlyRegs at *
  rw [b, a]

/-- What the start of an instruction changes is no register, mask or lane. -/
theorem State.onlyRegs_begun (s : State) : OnlyRegs s.me s.begun.me := by
  unfold OnlyRegs
  rw [State.begun_frame]

theorem State.onlyMe_setMe (s : State) (g : Group) : OnlyMe s (s.setMe g) := by
  unfold OnlyMe
  simp

/-- The end of a latch producer changes its group only. -/
theorem State.finishPipe_eq (s : State) (g0 : Group) (us : List Use) (nw vec : Bool) (d : Operand) (lanes : List Nat)
    (vals : List Word) : ∃ all : List Word, s.finishPipe g0 us nw vec d lanes vals =
      s.setMe ((((if nw || isReg d then s.me.shift nw vec all else s.me).advance g0.bundle).countRun g0 nw
        (readTags g0 us)).touch g0 us (s.tick + 1)) :=
  ⟨_, rfl⟩

/-- A group whose latches may have been shifted. -/
theorem Group.shiftIf_frame (g : Group) (c nw vec : Bool) (all : List Word) :
    (if c then g.shift nw vec all else g) = { g with
      latches := (if c then g.shift nw vec all else g).latches, nextTag := (if c then g.shift nw vec all else g).nextTag } := by
  cases c <;> rfl

/-- A register write, the shift of the latches and the end of an instruction change what an instruction's result may change. -/
theorem OnlyRegs.put32 (g : Group) (d : Operand) (lanes : List Nat) (xs : List Word) : OnlyRegs g (g.put32 d lanes xs) := by
  unfold OnlyRegs
  rw [Group.put32_frame]
theorem OnlyRegs.shiftIf (g : Group) (c nw vec : Bool) (all : List Word) :
    OnlyRegs g (if c then g.shift nw vec all else g) := by
  unfold OnlyRegs
  rw [Group.shiftIf_frame]
theorem OnlyRegs.advance (g : Group) (ls : List Nat) : OnlyRegs g (g.advance ls) := by
  unfold OnlyRegs
  rw [Group.advance_frame]
theorem OnlyRegs.countRun (g g0 : Group) (nw : Bool) (read : List Nat) : OnlyRegs g (g.countRun g0 nw read) := by
  unfold OnlyRegs
  rw [Group.countRun_frame]
theorem OnlyRegs.touch (g g0 : Group) (us : List Use) (n : Nat) : OnlyRegs g (g.touch g0 us n) := by
  unfold OnlyRegs
  rw [Group.touch_frame]

-- Pipe instructions ---------------------------------------------------------------------------------------------------

theorem readSource_plain (b s : State) (lanes : List Nat) {o : Operand} (h : plainOperand o = true) :
    readSource b s lanes o = .ok (s, lanes.map fun l => s.me.wordAt o 0 l) := by
  cases o <;> simp_all [readSource, plainOperand, channelOf]

theorem readSources_plain (b s : State) (lanes : List Nat) {os : List Operand} (h : os.all plainOperand = true) :
    readSources b lanes s os = .ok (s, os.map fun o => lanes.map fun l => s.me.wordAt o 0 l) := by
  induction os with
  | nil => rfl
  | cons o os ih =>
    simp only [List.all_cons, Bool.and_eq_true] at h
    simp only [readSources, readSource_plain b s lanes h.1, ih h.2, bind, Except.bind, List.map_cons]

theorem doublePick_sound {s : State} (h : s.pipesSound) (vec : Bool) (xs : List Nat) : s.doublePick vec xs = .ok (s, xs) := by
  unfold State.pipesSound at h
  unfold State.doublePick
  simp [h]

/-- Reading sources changes queues only: the group in hand, the cores' pipes and the rest stand as before. -/
structure QueuesOnly (s t : State) : Prop where
  cur : t.cur = s.cur
  groups : t.groups = s.groups
  pipes : ∀ c, (t.core c).pipeErr = (s.core c).pipeErr

theorem QueuesOnly.refl (s : State) : QueuesOnly s s := ⟨rfl, rfl, fun _ => rfl⟩
theorem QueuesOnly.trans {s t u : State} (a : QueuesOnly s t) (b : QueuesOnly t u) : QueuesOnly s u :=
  ⟨b.cur.trans a.cur, b.groups.trans a.groups, fun c => (b.pipes c).trans (a.pipes c)⟩
theorem QueuesOnly.me {s t : State} (h : QueuesOnly s t) : t.me = s.me := by
  unfold State.me State.group
  rw [h.cur, h.groups]
theorem QueuesOnly.setQueue (s : State) (c q : Nat) (x : Queue) : QueuesOnly s (s.setQueue c q x) := by
  refine ⟨rfl, rfl, fun k => ?_⟩
  unfold State.setQueue
  simp only [State.core, State.setCore_cores, Tab.read_put]
  split
  · next h => subst h; rfl
  · rfl
theorem takeEntries_frame {s t b : State} {c n : Nat} {pop : Bool} {xs : List Word}
    (h : takeEntries s c n pop b = .ok (t, xs)) : QueuesOnly s t := by
  unfold takeEntries at h
  split at h
  · cases h
  · dsimp only at h
    repeat' split at h
    all_goals first
      | (cases h; done)
      | (cases h
         first
         | exact QueuesOnly.setQueue _ _ _ _
         | exact QueuesOnly.refl _)
theorem readSource_frame {b s t : State} {lanes : List Nat} {o : Operand} {xs : List Word}
    (h : readSource b s lanes o = .ok (t, xs)) : QueuesOnly s t := by
  cases o <;> simp only [readSource] at h
  case chan => exact takeEntries_frame h
  case pop => exact takeEntries_frame h
  all_goals
    simp only [Except.ok.injEq, Prod.mk.injEq] at h
    rw [← h.1]
    exact QueuesOnly.refl _
theorem readSources_frame {b s t : State} {lanes : List Nat} {os : List Operand} {xs : List (List Word)}
    (h : readSources b lanes s os = .ok (t, xs)) : QueuesOnly s t := by
  induction os generalizing s t xs with
  | nil =>
    simp only [readSources, Except.ok.injEq, Prod.mk.injEq] at h
    rw [← h.1]
    exact QueuesOnly.refl _
  | cons o os ih =>
    simp only [readSources, bind, Except.bind] at h
    split at h
    · cases h
    · next v hv =>
      split at h
      · cases h
      · next w hw =>
        simp only [Except.ok.injEq, Prod.mk.injEq] at h
        rw [← h.1]
        exact (readSource_frame (t := v.1) (xs := v.2) hv).trans (ih (t := w.1) (xs := w.2) hw)

/-- The final group of a pipe instruction on registers. -/
theorem pipe_final {g h : Group} {d : Operand} {val : Nat → Word} {c nw vec : Bool} {all : List Word} {tags : List Nat}
    {us : List Use} {n : Nat} (hd : Delivered g h d 1 fun _ => val) (hl : ∀ l, h.lane l = g.lane l) (hlen : h.lanes = g.lanes)
    (himx : h.imx = g.imx) :
    Delivered g ((((if c then h.shift nw vec all else h).advance g.bundle).countRun g nw tags).touch g us n) d 1 (fun _ => val) ∧
      Advanced g ((((if c then h.shift nw vec all else h).advance g.bundle).countRun g nw tags).touch g us n) := by
  rw [Group.shiftIf_frame]
  refine ⟨⟨fun r l hl32 => ?_, fun r => ?_⟩, fun l => ?_⟩
  · rw [Group.vreg_touch, Group.vreg_countRun, Group.vreg_advance]
    exact hd.1 r l hl32
  · rw [Group.sreg_touch, Group.sreg_countRun, Group.sreg_advance]
    exact hd.2 r
  · rw [Group.lane_touch, Group.lane_countRun, Group.lane_advance _ _ _ fun hm => by
      show l < h.lanes.length
      rw [hlen]
      exact Group.lane_of_mem_bundle hm]
    show (if l ∈ g.bundle then { h.lane l with pc := h.nextPc (h.lane l).pc } else h.lane l) = _
    simp only [hl, Group.nextPc, himx]

/-- The end of a latch producer changes what an instruction's result may change, and no mask. -/
theorem OnlyRegs.ended (h g0 : Group) (c nw vec : Bool) (all : List Word) (ls tags : List Nat) (us : List Use) (n : Nat) :
    OnlyRegs h ((((if c then h.shift nw vec all else h).advance ls).countRun g0 nw tags).touch g0 us n) :=
  (((OnlyRegs.shiftIf h _ _ _ _).trans (OnlyRegs.advance _ _)).trans (OnlyRegs.countRun _ _ _ _)).trans (OnlyRegs.touch _ _ _ _)
theorem SameMasks.ended (h g0 : Group) (c nw vec : Bool) (all : List Word) (ls tags : List Nat) (us : List Use) (n : Nat) :
    SameMasks h ((((if c then h.shift nw vec all else h).advance ls).countRun g0 nw tags).touch g0 us n) := by
  rw [Group.touch_frame, Group.countRun_frame, Group.advance_frame, Group.shiftIf_frame]
  exact ⟨rfl, rfl⟩
theorem SameMasks.trans {g h k : Group} (a : SameMasks g h) (b : SameMasks h k) : SameMasks g k :=
  ⟨b.1.trans a.1, b.2.trans a.2⟩

/-- A pipe instruction, whole (R38, R39, R64, R86): once its sources are read, its result is delivered, its lanes go on,
and nothing else of the machine changes. -/
theorem State.pipe_from {s s1 : State} {p : Pre} {nw : Bool} {d : Operand} {srcs : List Operand} {xs : List (List Word)}
    {f : Group → List Nat → List (List Word) → List Word} {val : Nat → Word}
    (hb : s.me.bundle ≠ []) (hp : { p with legal := p.legal && runLegal s.me nw }.Passes s)
    (hd : plainOperand d = true) (hx : readSources s (s.me.execLanes p.vec) s srcs = .ok (s1, xs)) (hsound : s.pipesSound)
    (hv : isV d = true → p.vec = true)
    (hf : f s.me (s.me.execLanes p.vec) xs = (s.me.execLanes p.vec).map val) :
    ∃ t, s.pipe p nw d srcs f = .ok t ∧ OnlyMe s1 t ∧ OnlyRegs s.me t.me ∧ Delivered s.me t.me d 1 (fun _ => val) ∧
      Advanced s.me t.me ∧ SameMasks s.me t.me := by
  have hq := readSources_frame hx
  have hsound1 : s1.pipesSound := by
    unfold State.pipesSound at *
    rw [hq.pipes, hq.me]
    exact hsound
  set lanes := s.me.execLanes p.vec with hlanes
  have hl : lanes = s.me.bundle ∨ lanes = s.me.bundle.take 1 ∧ isV d = false := by
    rw [hlanes]
    unfold Group.execLanes
    cases hpv : p.vec with
    | true => left; rfl
    | false =>
      right
      refine ⟨rfl, ?_⟩
      cases hdv : isV d with
      | true => rw [hv hdv] at hpv; cases hpv
      | false => rfl
  have hmap : ((lanes.map val).map BitVec.toNat).map (BitVec.ofNat 32) = lanes.map val := by
    simp [Function.comp_def]
  have hdel := Group.put32_delivered (d := d) hb val hl
  have hw : s1.writeResult d lanes (lanes.map val) = .ok (s1.setMe (s1.me.put32 d lanes (lanes.map val))) ∨
      (s1.writeResult d lanes (lanes.map val) = .ok s1 ∧ s1.me.put32 d lanes (lanes.map val) = s1.me) :=
    State.writeResult_plain s1 hd lanes (lanes.map val)
  rw [hq.me] at hw
  have hrun : s.pipe p nw d srcs f = (s1.writeResult d lanes (lanes.map val)).bind fun s' =>
      .ok (s'.finishPipe s.me p.uses nw p.vec d lanes (lanes.map val)) := by
    unfold State.pipe
    simp only [bind, Except.bind, Pre.check_of_passes hp, ← hlanes, hx, hf]
    simp only [State.picked, doublePick_sound hsound1, hmap]
  rw [hrun]
  set h := s.me.put32 d lanes (lanes.map val) with hh
  have hframe := Group.put32_frame s.me d lanes (lanes.map val)
  rw [← hh] at hframe
  have keep : h.lanes = s.me.lanes ∧ h.imx = s.me.imx ∧ SameMasks s.me h := by
    rw [hframe]
    exact ⟨rfl, rfl, rfl, rfl⟩
  have goal : ∀ s' : State, s'.me = h → (∀ k, s'.setMe k = s1.setMe k) →
      ∃ t, Except.ok (s'.finishPipe s.me p.uses nw p.vec d lanes (lanes.map val)) = (Except.ok t : Go State) ∧ OnlyMe s1 t ∧
        OnlyRegs s.me t.me ∧ Delivered s.me t.me d 1 (fun _ => val) ∧ Advanced s.me t.me ∧ SameMasks s.me t.me := by
    intro s' hme hset
    obtain ⟨all, hall⟩ := State.finishPipe_eq s' s.me p.uses nw p.vec d lanes (lanes.map val)
    refine ⟨_, rfl, ?_⟩
    rw [hall, hme, hset]
    refine ⟨State.onlyMe_setMe s1 _, ?_⟩
    rw [State.me_setMe]
    have fin := pipe_final (c := nw || isReg d) (nw := nw) (vec := p.vec) (all := all) (tags := readTags s.me p.uses) (us := p.uses)
      (n := s'.tick + 1) hdel (fun l => congrArg (fun x => x.getD l ⟨0#64, 0#64, .exited⟩) keep.1) keep.1 keep.2.1
    refine ⟨?_, fin.1, fin.2, ?_⟩
    · refine (OnlyRegs.put32 s.me d lanes (lanes.map val)).trans ?_
      rw [← hh]
      exact OnlyRegs.ended _ _ _ _ _ _ _ _ _ _
    · exact SameMasks.trans keep.2.2 (SameMasks.ended _ _ _ _ _ _ _ _ _ _)
  rcases hw with hw | ⟨hw, hsame⟩ <;> rw [hw]
  · exact goal _ (by simp) (fun k => by simp)
  · exact goal s1 (hq.me.trans hsame.symm) (fun k => rfl)

/-- From the start of the instruction to the instruction's whole effect. -/
theorem OnlyMe.of_begun {s t : State} (h : OnlyMe s.begun t) : OnlyMe s t := by
  unfold OnlyMe at *
  rw [h]
  simp

theorem Delivered.of_begun {s : State} {h : Group} {d : Operand} {w : Nat} {val : Nat → Nat → Word}
    (hd : Delivered s.begun.me h d w val) : Delivered s.me h d w val := by
  unfold Delivered at *
  simpa using hd

theorem Advanced.of_begun {s : State} {h : Group} (hd : Advanced s.begun.me h) : Advanced s.me h := by
  unfold Advanced at *
  simpa using hd

theorem SameMasks.of_begun {s : State} {h : Group} (hd : SameMasks s.begun.me h) : SameMasks s.me h := by
  unfold SameMasks at *
  simpa using hd

/-- A pipe instruction whose body is `f` and whose table row is `r`, once its sources are read. -/
theorem PipeSpec.completes {r : PipeSpec} {s s1 : State} {f : Group → List Nat → List (List Word) → List Word}
    {lanes : List Nat} {xs : List (List Word)} {val : Nat → Word}
    (hi : s.issues) (hp : { r.pre s.begun.me with legal := (r.pre s.begun.me).legal && runLegal s.begun.me r.nw }.Passes s.begun)
    (hd : plainOperand r.d = true) (hlanes : lanes = s.begun.me.execLanes (r.pre s.begun.me).vec)
    (hx : readSources s.begun lanes s.begun r.srcs = .ok (s1, xs)) (hsound : s.pipesSound)
    (hv : isV r.d = true → (r.pre s.begun.me).vec = true) (hf : f s.begun.me lanes xs = lanes.map val) :
    ∃ t, (s.run fun s => s.pipe (r.pre s.me) r.nw r.d r.srcs f) = .next t ∧
      Delivered s.me t.me r.d 1 (fun _ => val) ∧ Advanced s.me t.me ∧ SameMasks s.me t.me ∧
      OnlyRegs s.me t.me ∧ OnlyMe s1 t := by
  subst hlanes
  have hsound' : s.begun.pipesSound := by simpa [State.pipesSound] using hsound
  obtain ⟨t, ht, hme, hreg, hdel, hadv, hm⟩ := State.pipe_from (f := f) (by simpa using hi.2) hp hd hx hsound' hv hf
  exact ⟨t, State.run_ok hi.1 ht, hdel.of_begun, hadv.of_begun, hm.of_begun, (State.onlyRegs_begun s).trans hreg, hme⟩

/-- What reading a source answers: as many words as lanes execute. -/
theorem readSource_shape {b s t : State} {lanes : List Nat} {o : Operand} {xs : List Word}
    (h : readSource b s lanes o = .ok (t, xs)) :
    xs.length = lanes.length ∧ ((channelOf o).isSome = false → xs = lanes.map fun l => s.me.wordAt o 0 l) := by
  have chan : ∀ n pop, takeEntries s n lanes.length pop b = .ok (t, xs) → xs.length = lanes.length := by
    intro n pop h
    unfold takeEntries at h
    split at h
    · cases h
    · dsimp only at h
      repeat' split at h
      all_goals first
        | (cases h; done)
        | (cases h
           simp only [List.length_map, List.length_take]
           omega)
  cases o <;> simp only [readSource] at h
  case chan => exact ⟨chan _ _ h, by simp [channelOf]⟩
  case pop => exact ⟨chan _ _ h, by simp [channelOf]⟩
  all_goals
    simp only [Except.ok.injEq, Prod.mk.injEq] at h
    rw [← h.2]
    exact ⟨by simp, fun _ => rfl⟩

/-- What `readSources` read, source by source and lane by lane. -/
theorem readSources_eq {b s t : State} {lanes : List Nat} {os : List Operand} {xs : List (List Word)} (hn : lanes.Nodup)
    (h : readSources b lanes s os = .ok (t, xs)) :
    xs = (List.range os.length).map fun k => lanes.map (readOf s.me os lanes xs k) := by
  have key : ∀ (os : List Operand) (s t : State) (xs : List (List Word)), readSources b lanes s os = .ok (t, xs) →
      xs.length = os.length ∧ ∀ k, k < os.length → (xs.getD k []).length = lanes.length ∧
        ((channelOf (os.getD k .zero)).isSome = false → xs.getD k [] = lanes.map fun l => s.me.wordAt (os.getD k .zero) 0 l) := by
    intro os
    induction os with
    | nil => intro s t xs h; simp only [readSources, Except.ok.injEq, Prod.mk.injEq] at h; rw [← h.2]; simp
    | cons o os ih =>
      intro s t xs h
      simp only [readSources, bind, Except.bind] at h
      split at h
      · cases h
      · next v hv =>
        split at h
        · cases h
        · next w hw =>
          cases h
          obtain ⟨hl, hk⟩ := ih v.1 w.1 w.2 hw
          have hsh := readSource_shape (t := v.1) (xs := v.2) hv
          refine ⟨by simp [hl], fun k hk' => ?_⟩
          cases k with
          | zero => simpa using hsh
          | succ k =>
            have := hk k (by simpa using hk')
            rw [(readSource_frame (t := v.1) (xs := v.2) hv).me] at this
            simpa using this
  obtain ⟨hl, hk⟩ := key os s t xs h
  apply List.ext_getElem (by simp [hl])
  intro k h1 h2
  have hk' : k < os.length := by omega
  have hx : xs.getD k [] = xs[k] := by simp [List.getD_eq_getElem?_getD, h1]
  obtain ⟨hlen, hpl⟩ := hk k hk'
  rw [List.getElem_map, List.getElem_range, ← hx]
  apply List.ext_getElem (by rw [hlen, List.length_map])
  intro i h3 h4
  rw [List.getElem_map]
  unfold readOf
  dsimp only
  split
  · have hi : lanes.idxOf lanes[i] = i := hn.idxOf_getElem i (by simpa using h4)
    rw [hi, List.getD_eq_getElem _ _ h3]
  · next hc =>
    have e := hpl (by simpa using hc)
    have : (xs.getD k [])[i] = (lanes.map fun l => s.me.wordAt (os.getD k .zero) 0 l)[i]'(by simpa using h4) := by
      congr 1
    rw [this, List.getElem_map]
theorem perLane_one (f : Word → Word) (lanes : List Nat) (x : Nat → Word) :
    perLane (fun | [x] => f x | _ => 0#32) lanes [lanes.map x] = lanes.map fun l => f (x l) := by
  unfold perLane
  apply List.ext_getElem <;> simp [List.getD_eq_getElem?_getD]
  intro i hi
  simp [hi]

theorem perLane_two (f : Word → Word → Word) (lanes : List Nat) (x y : Nat → Word) :
    perLane (fun | [x, y] => f x y | _ => 0#32) lanes [lanes.map x, lanes.map y] = lanes.map fun l => f (x l) (y l) := by
  unfold perLane
  apply List.ext_getElem <;> simp [List.getD_eq_getElem?_getD]
  intro i hi
  simp [hi]

theorem perLane_three (f : Word → Word → Word → Word) (lanes : List Nat) (x y z : Nat → Word) :
    perLane (fun | [x, y, z] => f x y z | _ => 0#32) lanes [lanes.map x, lanes.map y, lanes.map z] =
      lanes.map fun l => f (x l) (y l) (z l) := by
  unfold perLane
  apply List.ext_getElem <;> simp [List.getD_eq_getElem?_getD]
  intro i hi
  simp [hi]

/-- The execution class of a v destination is vector (R39). -/
theorem execVec_of_isV {g : Group} {d : Operand} (h : isV d = true) (os : List Operand) : execVec g d os = true := by
  cases d <;> simp_all [isV, execVec]

end Sys2Proof.Machine
end

