-- ==== Sys2Proof/Tests/Slice0.lean ====
section
/-! SUPPORT. The model's own tests: ill-formed terms that WellFormed refuses, words written out from the encoding tables,
single steps with results worked out from the spec, and, for each statement with hypotheses, a state that meets them. -/
namespace Sys2Proof.Tests
set_option Elab.async false
open Sys2Proof Sys2Proof.Machine

-- Ill-formed terms ------------------------------------------------------------------------------------------------------

/-- nw = 1 with a destination (R31). -/
theorem test_wf_nw : (Instr.add true (.v 1) (.v 2) (.v 3)).wf = false ∧ (Instr.movi true (.s 1) 5).wf = false := by decide +kernel
/-- Heddles 12 to 15 (R74). -/
theorem test_wf_heddle : (Instr.hjoin 12).wf = false ∧ (Instr.hset .zero 15).wf = false ∧ (Instr.hclr 11).wf = true := by decide +kernel
/-- The two RET rows whose unused field holds an operand (R42). -/
theorem test_wf_ret : (Instr.retTargetPair .zero).wf = false ∧ (Instr.retLowWord .zero).wf = false := by decide +kernel
/-- Conditions 10 to 15 of CMP, 8 to 15 and format 3 of FCMP (R108, R138). -/
theorem test_wf_cond : (Instr.cmp 1 (.v 1) (.v 2) 10).wf = false ∧ (Instr.cmp64 1 (.v 0) (.v 2) 15).wf = false ∧
    (Instr.fcmp 0 1 (.v 1) (.v 2) 8).wf = false ∧ (Instr.fcmp 3 1 (.v 1) (.v 2) 0).wf = false := by decide +kernel
/-- Format 3 of the arithmetic majors; equal types, type 15 and mode 7 of FCVT; nw with a 64-bit result (R42, R139). -/
theorem test_wf_float : (Instr.fadd false (.v 1) (.v 2) (.v 3) 3 0).wf = false ∧ (Instr.fcvt false (.v 1) (.v 2) 0 1 1).wf = false ∧
    (Instr.fcvt false (.v 1) (.v 2) 0 15 1).wf = false ∧ (Instr.fcvt false (.v 1) (.v 2) 7 0 1).wf = false ∧
    (Instr.fcvt true .zero (.v 2) 0 0 13).wf = false := by decide +kernel
/-- Widths of TLDX, types and modes of TST, families and variants of MMA and MMS (R153, R156, R160, R162). -/
theorem test_wf_matrix : (Instr.tldx 3 1 (.s 2) (.s 4)).wf = false ∧ (Instr.tst 13 1 (.s 2) 0 4).wf = false ∧
    (Instr.tst 5 1 (.s 2) 0 4).wf = false ∧ (Instr.tst 0 1 (.s 2) 5 4).wf = false ∧
    (Instr.mma false true 0 false 1 false 2 11).wf = false ∧ (Instr.mma false true 0 true 1 false 2 0).wf = false ∧
    (Instr.mma true true 0 false 1 false 2 3).wf = false ∧ (Instr.mms 0 true 0 false 1 false 2 5).wf = false := by decide +kernel
/-- Op codes that R244 does not assign, and widths of CAS (R42, R244). -/
theorem test_wf_atomic : (Instr.atom64 15 (.v 2) (.v 4) 9 0 0).wf = false ∧ (Instr.atom 15 (.v 2) (.v 4) 15 0 0).wf = false ∧
    (Instr.red 15 (.v 2) (.v 4) 8 0 0).wf = false ∧ (Instr.cas 15 (.v 2) (.v 4) 3 0 0).wf = false ∧
    (Instr.atoml 15 (.v 2) (.v 4) 15 0 0).wf = false := by decide +kernel
/-- Size 7, signed sizes of stores, size q of LDACQ (R33, R226). -/
theorem test_wf_size : (Instr.ldv 15 (.v 2) (.v 4) 7 0 false false false).wf = false ∧
    (Instr.stv 15 (.v 2) (.v 4) 1 0 false false false).wf = false ∧ (Instr.sts 15 (.s 2) (.s 4) 3 0 false false false).wf = false ∧
    (Instr.ldacq 15 (.v 2) (.v 4) 6 0 false).wf = false ∧ (Instr.strel 15 (.v 2) (.v 4) 1 0 false).wf = false := by decide +kernel
/-- Class codes of WAITCNT, words of TRSTAT (R229, R263). -/
theorem test_wf_codes : (Instr.waitcnt 6 0).wf = false ∧ (Instr.trstat (.s 2) (.s 1) 3).wf = false := by decide +kernel

-- Words -----------------------------------------------------------------------------------------------------------------

theorem test_decode_words : Obligations.DecodeWords := by unfold Obligations.DecodeWords; decide +kernel
/-- The worked encodings after R47. -/
theorem test_decode_worked : decode 0xF8000024#32 = .ok (.imx 0x24) ∧ decode 0x41122345#32 = .ok (.addi false (.s 4) (.s 4) 0x345) ∧
    decode 0xB0C14280#32 = .ok (.ldl 3 (.v 2) (.s 2) 4 0 false false false) ∧
    decode 0x6BC00820#32 = .ok (.fmul true .zero (.v 1) (.v 2) 0 0) ∧ decode 0x047FFFFD#32 = .ok (.brt 1 0x3FFFFD) ∧
    decode 0xA7ED0480#32 = .ok (.stv 15 (.pop 2) (.v 4) 4 0 false false false) := by decide +kernel
/-- The words in R79 and R379. -/
theorem test_decode_heddles : decode 0x15C38000#32 = .ok (.hjoin 0) ∧ decode 0x15C38002#32 = .ok (.hwait 0) ∧
    decode 0x15C38006#32 = .ok (.hclr 0) ∧ decode 0x04400005#32 = .ok (.brt 1 5) ∧ decode 0x07FFFFFB#32 = .ok (.brt 15 0x3FFFFB) ∧
    decode 0x111A2F09#32 = .ok (.wbase (.s 6) (.s 5)) ∧ decode 0x11C22F0A#32 = .ok (.wbadd .zero (.s 5)) := by decide +kernel
/-- The word in R160. -/
theorem test_decode_mma : decode 0x88200023#32 = .ok (.mma false true 0 false 0 false 2 3) := by decide +kernel
/-- Integer majors. -/
theorem test_decode_integer :
    decode (0x06#6 ++ 0#1 ++ 0x01#7 ++ 0x02#7 ++ 0x03#7 ++ 5#4) = .ok (.sel false (.v 1) (.v 2) (.v 3) 5) ∧
    decode (0x07#6 ++ 0#1 ++ 0x01#7 ++ 0x02#7 ++ 0x03#7 ++ 3#4) = .ok (.pandn 1 2 3) ∧
    decode (0x09#6 ++ 1#1 ++ 0x70#7 ++ 0x71#7 ++ 0x60#7 ++ 9#4) = .ok (.rol true .zero .laneid (.k 0)) ∧
    decode (0x0A#6 ++ 0#1 ++ 0x01#7 ++ 0x02#7 ++ 0x03#7 ++ 4#4) = .ok (.div false (.v 1) (.v 2) (.v 3)) ∧
    decode (0x0B#6 ++ 0#1 ++ 0x01#7 ++ 0x02#7 ++ 0x70#7 ++ 2#4) = .ok (.popc false (.v 1) (.v 2)) ∧
    decode (0x0C#6 ++ 0#1 ++ 0x02#7 ++ 0x04#7 ++ 0x06#7 ++ 1#4) = .ok (.sub64 (.v 2) (.v 4) (.v 6)) ∧
    decode (0x0D#6 ++ 0#1 ++ 0x15#7 ++ 0x04#7 ++ 0x06#7 ++ 9#4) = .ok (.cmp64 5 (.v 4) (.v 6) 9) ∧
    decode (0x16#6 ++ 0#1 ++ 0x71#7 ++ 0x04#7 ++ 0x7FF#11) = .ok (.cmpi 7 1 (.v 4) 0x7FF) := by decide +kernel
/-- Lanes, moves and shifts by an immediate. -/
theorem test_decode_lanes :
    decode (0x0E#6 ++ 0#1 ++ 0x41#7 ++ 0x02#7 ++ 0x43#7 ++ 10#4) = .ok (.rdlane false (.s 1) (.v 2) (.s 3)) ∧
    decode (0x0F#6 ++ 0#1 ++ 0x01#7 ++ 0x70#7 ++ 0x70#7 ++ 2#4) = .ok (.active false (.v 1)) ∧
    decode (0x14#6 ++ 0#1 ++ 0x01#7 ++ 0x02#7 ++ 2#2 ++ 0#4 ++ 31#5) = .ok (.sari false (.v 1) (.v 2) 31) := by decide +kernel
/-- Floating majors. -/
theorem test_decode_float :
    decode (0x1B#6 ++ 0#1 ++ 0x01#7 ++ 0x02#7 ++ 0x03#7 ++ 2#2 ++ 3#2) = .ok (.ffma false (.v 1) (.v 2) (.v 3) 2 3) ∧
    decode (0x1C#6 ++ 0#1 ++ 0x70#7 ++ 0x42#7 ++ 0x70#7 ++ 13#4) = .ok (.srseed (.s 2)) ∧
    decode (0x1D#6 ++ 0#1 ++ 0#1 ++ 1#2 ++ 5#4 ++ 0x02#7 ++ 0x03#7 ++ 6#4) = .ok (.fcmp 1 5 (.v 2) (.v 3) 6) ∧
    decode (0x1E#6 ++ 0#1 ++ 0x01#7 ++ 0x02#7 ++ 4#3 ++ 0#4 ++ 7#4) = .ok (.fcvt false (.v 1) (.v 2) 4 0 7) := by decide +kernel
/-- Memory, order and atomics. -/
theorem test_decode_memory :
    decode (0x2D#6 ++ 2#4 ++ 0x08#7 ++ 0x42#7 ++ 5#3 ++ 3#2 ++ 1#1 ++ 1#1 ++ 1#1) = .ok (.stl 2 (.v 8) (.s 2) 5 3 true true true) ∧
    decode (0x2E#6 ++ 1#1 ++ 0x70#7 ++ 0x42#7 ++ 0x46#7 ++ 2#4) = .ok (.wbl true (.s 2) (.s 6)) ∧
    decode (0x30#6 ++ 0#1 ++ 0x70#7 ++ 0x70#7 ++ 0x02#7 ++ 2#4) = .ok (.acqa 2) ∧
    decode (0x31#6 ++ 15#4 ++ 0x01#7 ++ 0x04#7 ++ 4#3 ++ 2#2 ++ 0#1 ++ 0#1 ++ 0#1) = .ok (.ldacq 15 (.v 1) (.v 4) 4 2 false) ∧
    decode (0x34#6 ++ 15#4 ++ 0x01#7 ++ 0x04#7 ++ 9#4 ++ 1#2 ++ 3#2) = .ok (.atom 15 (.v 1) (.v 4) 9 1 3) ∧
    decode (0x35#6 ++ 1#4 ++ 0x02#7 ++ 0x04#7 ++ 15#4 ++ 0#2 ++ 2#2) = .ok (.red 1 (.v 2) (.v 4) 15 0 true) ∧
    decode (0x36#6 ++ 15#4 ++ 0x48#7 ++ 0x42#7 ++ 2#4 ++ 3#2 ++ 0#2) = .ok (.cas 15 (.s 8) (.s 2) 2 3 0) := by decide +kernel
/-- Work, copies, channels, regions, system and maintenance. -/
theorem test_decode_system :
    decode (0x38#6 ++ 0#1 ++ 0x41#7 ++ 0x70#7 ++ 0x70#7 ++ 0#4) = .ok (.xopen (.s 1)) ∧
    decode (0x39#6 ++ 0#1 ++ 0x41#7 ++ 0x44#7 ++ 0x42#7 ++ 2#4) = .ok (.cpy (.s 1) (.s 4) (.s 2)) ∧
    decode (0x3A#6 ++ 0#1 ++ 0x42#7 ++ 0x44#7 ++ 0x46#7 ++ 0#4) = .ok (.chbind (.s 2) (.s 4) (.s 6)) ∧
    decode (0x3B#6 ++ 0#1 ++ 0x41#7 ++ 0x42#7 ++ 0x43#7 ++ 8#4) = .ok (.gkill (.s 1) (.s 2) (.s 3)) ∧
    decode (0x3C#6 ++ 0#1 ++ 0x42#7 ++ 0x44#7 ++ 0x70#7 ++ 2#4) = .ok (.mfsr (.s 2) (.s 4)) ∧
    decode (0x3D#6 ++ 0#1 ++ 0x41#7 ++ 0x42#7 ++ 0x43#7 ++ 0#4) = .ok (.mscrub (.s 1) (.s 2) (.s 3)) ∧
    decode (0x33#6 ++ 0#1 ++ 0x41#7 ++ 0x42#7 ++ 0x03#7 ++ 1#4) = .ok (.barv (.s 1) (.s 2) 3) ∧
    decode (0x26#6 ++ 0#1 ++ 0x41#7 ++ 0x02#7 ++ 0x43#7 ++ 0#4) = .ok (.tred (.s 1) (.v 2) (.s 3)) ∧
    decode (0x20#6 ++ 0#1 ++ 0x41#7 ++ 0x42#7 ++ 0x01#7 ++ 0#4) = .ok (.tclaim (.s 1) (.s 2) true) := by decide +kernel
/-- Reserved majors, an unassigned fn, a reserved operand code, and a used field that must be 0x70 (R31, R38, R42, R44). -/
theorem test_decode_refused : (decode 0x7C000000#32).toBool = false ∧
    (decode (0x09#6 ++ 0#1 ++ 0x01#7 ++ 0x02#7 ++ 0x03#7 ++ 11#4)).toBool = false ∧
    (decode (0x08#6 ++ 0#1 ++ 0x64#7 ++ 0x02#7 ++ 0x03#7 ++ 0#4)).toBool = false ∧
    (decode (0x08#6 ++ 0#1 ++ 0x01#7 ++ 0x02#7 ++ 0x03#7 ++ 6#4)).toBool = false := by decide +kernel

-- Helpers ---------------------------------------------------------------------------------------------------------------

/-- Every check of `Pre.Passes`, as one Bool. -/
def passesB (p : Pre) (s : State) : Bool :=
  imxOk s.me p.imx && p.legal && p.uses.all (Use.ok s.me) && p.operandOk &&
  (p.vec || p.mixed || (sourcesOf p.uses).all fun u => !(isVec s.me u.o)) && p.privOk && p.roleOk && p.bundleOk &&
  (windowBreach s.me p.uses).isNone && (channelBreaches s s.me p.uses).isNone &&
  !(s.me.ops.any (Op.inWayOf s.me p.uses)) &&
  ((sourcesOf p.uses).flatMap (Use.vregs s.me) ++ p.merged s.me ++
    uncopied s.me p.uses).all (fun r => !s.me.absent.contains r) &&
  (codeKeys s.me (sourcesOf p.uses) ++ p.merged s.me ++ p.codes).all (fun k =>
    !s.me.poison.contains k && (s.me.regErr.read [] k).isEmpty) &&
  (decide (s.me.reg.nest = 0) || (p.inRegion && !usesChannel p.uses))

theorem passes_of {p : Pre} {s : State} (h : passesB p s = true) : p.Passes s := by
  simp only [passesB, Bool.and_eq_true, Bool.not_eq_true', Option.isNone_iff_eq_none] at h
  obtain ⟨⟨⟨⟨⟨⟨⟨⟨⟨⟨⟨⟨⟨a, b⟩, c⟩, d⟩, e⟩, f⟩, g⟩, i⟩, j⟩, k⟩, l⟩, m⟩, n⟩, o⟩ := h
  exact ⟨a, b, c, d, e, f, g, i, j, k, l, m, n, o⟩

/-- The group in hand can issue an instruction with the checks `p`, and it passes them. -/
abbrev Meets (s : State) (p : Group → Pre) : Prop := s.issues ∧ (p s.begun.me).Passes s.begun

/-- The same, as a Bool. -/
def meetsB (s : State) (p : Group → Pre) : Bool :=
  decide (s.me.sched = .active) && decide (s.me.bundle ≠ []) && passesB (p s.begun.me) s.begun

theorem meets {s : State} {p : Group → Pre} {q : Prop} (h : meetsB s p = true) (hq : q) : Meets s p ∧ q := by
  simp only [meetsB, Bool.and_eq_true, decide_eq_true_eq] at h
  exact ⟨⟨⟨h.1.1, h.1.2⟩, passes_of h.2⟩, hq⟩

/-- The checks `p`, with those of a latch run (R82). -/
def inRun (nw : Bool) (p : Group → Pre) (g : Group) : Pre := { p g with legal := runLegal g nw }

/-- A result without a trap or a wait. -/
def isOk {ε α : Type} : Except ε α → Bool
  | .ok _ => true
  | .error _ => false

theorem ok_of {ε α : Type} {x : Except ε α} (h : isOk x = true) : ∃ a, x = .ok a := by
  cases x with
  | ok a => exact ⟨a, rfl⟩
  | error e => cases h

theorem ok2_of {ε α β : Type} {x : Except ε (α × β)} {b : β} (h : x.toOption.map (·.2) = some b) : ∃ a, x = .ok (a, b) := by
  cases x with
  | ok a => exact ⟨a.1, by simp only [Except.toOption, Option.map_some, Option.some.injEq] at h; rw [← h]⟩
  | error e => cases h

/-- A privileged group of 32 live lanes on core 0, about to issue at 0x10000 (R350). -/
def base : State := State.reset.withProgram []

/-- The base state with its group changed. -/
def grp (f : Group → Group) : State := base.setMe (f base.me)

/-- v1 is the lane number, v2 is 3, s3 is 5, p1 the even lanes, h2 the lanes 0 to 3. -/
def demo : State := grp fun g => { g with
  v := Tab.writeFrom 0#32 (Tab.writeFrom 0#32 [] 32 ((List.range 32).map (BitVec.ofNat 32))) 64 (List.replicate 32 3#32)
  s := [(3, 5#32)], p := [(1, 0x55555555#32)], h := [(2, 0xF#32)] }

/-- A state with queue 0 of its core behind c0, which holds two words, of a ring of 32. -/
def queueAt (s : State) (n : Nat) : State :=
  let q : Queue := ⟨true, 1, 0, 0, 5, 15, 0, (List.range n).map fun i => (BitVec.ofNat 32 (i + 7), false), [], 0⟩
  let s := s.setQueue 0 0 q
  s.setMe { s.me with chans := [(0, some ⟨s.qidOf 0 0 1, true, 0, 5⟩)] }
def queued (n : Nat) : State := queueAt demo n

-- Witnesses: encoding and step -------------------------------------------------------------------------------------------

theorem witness_DecodeEncode : (Instr.add false (.v 1) (.v 2) (.s 3)).encoded = true ∧ (Instr.add false (.v 1) (.v 2) (.s 3)).wf = true := by
  decide +kernel
theorem witness_EncodeDecode : decode 0x20042430#32 = .ok (.add false (.v 1) (.v 4) (.s 3)) := by decide +kernel
theorem witness_ExecAnswers : base.me.sched = .active := by decide +kernel

/-- The state whose next word is `w`. -/
def next (w : Nat) : State := State.reset.withFetchWord 32 w

theorem chosen_next (w : Nat) (h : (next w).pickGroup = some 0 ∧ (((next w).select 0).beforeIssue 0).isNone = true ∧
    (((next w).select 0).group 0).liveLanes ≠ []) : Chosen (next w) 0 :=
  ⟨rfl, rfl, rfl, h.1, Option.isNone_iff_eq_none.mp h.2.1, h.2.2⟩

/-- What the fetch of the chosen group's word answers. -/
def fetched (s : State) : Except (Nat × Nat) (State × Word) :=
  (aboutToIssue s 0).fetchWord ((aboutToIssue s 0).group 0) ((aboutToIssue s 0).group 0).pc.toNat

theorem witness_StepRunsDecoded : Chosen (next 0x20042430) 0 ∧ fetchFree (next 0x20042430) 0 ∧
    (∃ s1, fetched (next 0x20042430) = .ok (s1, 0x20042430#32)) ∧
    decode 0x20042430#32 = .ok (.add false (.v 1) (.v 4) (.s 3)) :=
  ⟨chosen_next _ (by decide +kernel), by unfold fetchFree; decide +kernel, ok2_of (by decide +kernel), by decide +kernel⟩

/-- The state whose next two words are `w` and `w2`. -/
def next2 (w w2 : Word) : State := State.reset.withProgram [w, w2]

theorem witness_StepPairsAndTraps :
    ((next2 0xF8000024#32 0x41122345#32).pickGroup = some 0 ∧
      (∃ s1, fetched (next2 0xF8000024#32 0x41122345#32) = .ok (s1, 0xF8000024#32)) ∧
      decode 0xF8000024#32 = .ok (.imx 0x24) ∧ decode 0x41122345#32 = .ok (.addi false (.s 4) (.s 4) 0x345)) ∧
    (Chosen (next 0) 0 ∧ (∃ s1, fetched (next 0) = .ok (s1, 0#32)) ∧ isOk (decode 0#32) = false) ∧
    (let s := (next 0).setGroup 0 { (next 0).group 0 with lanes := List.replicate 32 ⟨0x20000#64, 0#64, .live⟩ };
      s.pickGroup = some 0 ∧ isOk (fetched s) = false) :=
  ⟨⟨by decide +kernel, ok2_of (by decide +kernel), by decide +kernel, by decide +kernel⟩,
    ⟨chosen_next _ (by decide +kernel), ok2_of (by decide +kernel), by decide +kernel⟩, by decide +kernel⟩

-- Witnesses: pipe instructions --------------------------------------------------------------------------------------------

/-- Register sources; a pop and a peek of queues that hold 32 words, and just 32 are asked for. -/
theorem witness_SourcesRead : plainOperand (.v 1) = true ∧ plainOperand .link = true ∧
    (let s := queued 32;
      (s.me.chans.read none 0).isSome = true ∧ 32 ≤ (s.queue 0 0).entries.length ∧ (s.queue 0 0).waiters = [] ∧
      ((s.queue 0 0).entries.take 32).all (fun e => !e.2) = true) := by decide +kernel

/-- An ADD of a vector and a scalar register, with a destination and with nw; and one into a scalar register. -/
theorem witness_PipeResult :
    (Meets demo (inRun false fun g => Pre.plain g 0 (.v 4) [dst (.v 4), src (.v 1), src (.s 3)]) ∧
      demo.pipesSound ∧ isOk (readSources demo.begun (List.range 32) demo.begun [.v 1, .s 3]) = true) ∧
    (Meets demo (inRun true fun g => Pre.plain g 0 .zero [dst .zero, src (.v 1), src (.s 3)]) ∧
      isOk (readSources demo.begun (List.range 32) demo.begun [.v 1, .s 3]) = true) ∧
    Meets demo (inRun false fun g => Pre.plain g 0 (.s 15) [dst (.s 15), src (.s 0), src (.s 3)]) ∧
      isOk (readSources demo.begun [0] demo.begun [.s 0, .s 3]) = true :=
  ⟨meets (by decide +kernel) ⟨rfl, by decide +kernel⟩, meets (by decide +kernel) (by decide +kernel),
    meets (by decide +kernel) (by decide +kernel)⟩
/-- MUL of two vector registers; MAD into v4, into nothing with nw, and into s3 itself; a remainder that is not 0. -/
theorem witness_MulDivResults :
    (Meets demo (inRun false fun g => Pre.plain g 0 (.v 4) [dst (.v 4), src (.v 1), src (.v 2)]) ∧ demo.pipesSound) ∧
    Meets demo (inRun false fun g => { Pre.plain g 0 (.v 4) (uses3 false (.v 4) (.v 1) (.v 2)) with operandOk := false || isReg (.v 4) }) ∧
    Meets demo (inRun true fun g => { Pre.plain g 0 .zero (uses3 true .zero (.v 1) (.v 2)) with operandOk := true || isReg .zero }) ∧
    Meets demo (inRun false fun g => { Pre.plain g 0 (.s 3) (uses3 false (.s 3) (.s 3) (.s 0)) with operandOk := false || isReg (.s 3) }) ∧
    plainOperand (.v 4) = true ∧ plainOperand .zero = true ∧ BitVec.ofInt 32 (7 - (-2) * Int.tdiv 7 (-2)) ≠ 0#32 :=
  ⟨meets (by decide +kernel) rfl, meets (by decide +kernel) (meets (by decide +kernel) (meets (by decide +kernel) (by decide +kernel)))⟩
theorem witness_LogicResults :
    Meets demo (inRun false fun g => Pre.plain g 0 (.v 63) [dst (.v 63), src (.v 1), src (.s 3)]) ∧ demo.pipesSound ∧
      plainOperand (.v 63) = true ∧ plainOperand (.s 3) = true :=
  meets (by decide +kernel) ⟨rfl, by decide +kernel⟩
theorem witness_FclassMask : Meets demo (inRun true fun g => floatPre g .zero [dst .zero, src (.v 1)]) ∧ demo.pipesSound ∧
    plainOperand .zero = true :=
  meets (by decide +kernel) ⟨rfl, by decide +kernel⟩

/-- Just the room for 32 words in a live queue of the core; a stale binding; a full queue; another core's queue. -/
theorem witness_Pushes :
    (Meets (queued 0) (inRun false fun g => Pre.plain g 0 (.chan 0) [dst (.chan 0), src (.v 1), src (.s 3)]) ∧
      (queued 0).pipesSound ∧ (let s := queued 0;
      isOk (readSources s.begun (List.range 32) s.begun [.v 1, .s 3]) = true ∧ s.qidHere (s.qidOf 0 0 1) = true ∧
      qidCore (s.qidOf 0 0 1) = 0 ∧ s.qidLive (s.qidOf 0 0 1) = true ∧ (s.queue 0 0).entries.length + 32 ≤ 2 ^ (s.queue 0 0).logcap)) ∧
    (let s := (queued 0).setQueue 0 0 Queue.init; s.qidHere (s.qidOf 0 0 1) = true ∧ s.qidLive (s.qidOf 0 0 1) = false) ∧
    (let s := queued 1; s.qidLive (s.qidOf 0 0 1) = true ∧ 2 ^ (s.queue 0 0).logcap < (s.queue 0 0).entries.length + 32) ∧
    (let s := queued 0; qidCore (s.qidOf 5 0 1) ≠ s.me.core ∧ s.me.outstanding .msg < 4095) :=
  ⟨meets (by decide +kernel) ⟨rfl, by decide +kernel⟩, by decide +kernel, by decide +kernel, by decide +kernel⟩

/-- ADD64 with pairs, its last register v63; CMP into p15; PAND. -/
theorem witness_WideAndPredicateResults :
    (∃ r, wideSpec (.add64 (.v 62) (.v 2) .zero) = some r ∧ Meets demo r.pre ∧ demo.pipesSound ∧
      isOk (readWides demo.begun (List.range 32) demo.begun r.srcs) = true) ∧
    (∃ r, predSpec (.cmp 15 (.v 1) (.s 3) 9) = some r ∧ Meets demo r.pre ∧ demo.pipesSound ∧
      isOk (readWides demo.begun (List.range 32) demo.begun r.srcs) = true) ∧
    ∃ r, predSpec (.pand 14 0 1) = some r ∧ Meets demo r.pre :=
  ⟨⟨_, rfl, meets (by decide +kernel) ⟨rfl, by decide +kernel⟩⟩, ⟨_, rfl, meets (by decide +kernel) ⟨rfl, by decide +kernel⟩⟩,
    ⟨_, rfl, (meets (q := True) (by decide +kernel) trivial).1⟩⟩

theorem witness_LaneConvertSeed :
    (Meets demo (fun g => { laneVec g false (.v 4) (uses3 false (.v 4) (.s 3) (.s 3)) with
      operandOk := scalarSource g true (.s 3) && scalarSource g true (.s 3), legal := runLegal g false }) ∧ demo.pipesSound) ∧
    (Meets demo (fun g => { laneVec g true .zero (uses3 true .zero (.s 3) (.s 3)) with
      operandOk := scalarSource g true (.s 3) && scalarSource g true (.s 3), legal := runLegal g true }) ∧ demo.pipesSound) ∧
    (Meets demo (fun g => { floatPre g (.v 4) [dstN (.v 4) 2, srcN (.v 2) 1] with legal := runLegal g false && !(false && true) }) ∧
      Ty.i64.width = 64 ∧ drawsMode 5 = true ∧ isOk (readWides demo.begun (List.range 32) demo.begun [(.v 2, 1)]) = true) ∧
    (let g := { demo.begun.me with run := none };
      passesB { Pre.plain g 0 .zero [src (.s 3)] with vec := true, roleOk := floatRole g true } (demo.begun.setMe g) = true ∧
      isOk (readSource (demo.begun.setMe g) (demo.begun.setMe g) g.bundle (.s 3)) = true) :=
  ⟨meets (by decide +kernel) rfl, meets (by decide +kernel) rfl, meets (by decide +kernel) (by decide +kernel), by decide +kernel⟩

/-- One check after another that fails: an IMX that is not taken, a pop as destination, no privilege, a role, a bundle, a
window, a channel. -/
theorem witness_CheckOrder :
    (imxOk { demo.me with imx := some 0 } 0 = false) ∧ (Use.ok demo.me (dst (.pop 0)) = false) ∧
    (windowBreach { demo.me with wb := 504 } [dst (.v 8)]).isSome = true ∧
    (windowBreach { demo.me with wb := 504 } [dst (.v 7)]).isNone = true ∧
    (channelBreaches demo demo.me [src (.chan 7)]).isSome = true ∧
    passesB (Pre.plain demo.me 0 (.v 1) [dst (.v 1), src (.v 2)]) demo = true := by decide +kernel

/-- A branch by p1, a call, a return to the link of 0, and a return to a misaligned link. -/
theorem witness_Jumps :
    (∃ r, jumpSpec (.brt 1 5) = some r ∧ Meets demo r.pre ∧ r.checked = false) ∧
    (∃ r, jumpSpec .ret = some r ∧ Meets demo r.pre ∧ r.checked = true ∧ ∀ l ∈ demo.me.bundle, r.to' demo.begun.me l % 4 = 0) ∧
    (let s := grp fun g => { g with lanes := List.replicate 32 ⟨0x10000#64, 3#64, .live⟩ };
      ∃ r, jumpSpec .ret = some r ∧ Meets s r.pre ∧ r.checked = true ∧ ∃ l ∈ s.me.bundle, r.to' s.begun.me l % 4 ≠ 0) :=
  ⟨⟨_, rfl, meets (by decide +kernel) rfl⟩, ⟨_, rfl, meets (by decide +kernel) ⟨rfl, by decide +kernel⟩⟩,
    ⟨_, rfl, meets (by decide +kernel) ⟨rfl, by decide +kernel⟩⟩⟩

/-- Lane 31 is parked at another word on h2, lane 30 is out of the bundle, the rest are at one word. -/
def parted : State := grp fun g => { demo.me with
  lanes := g.lanes.take 30 ++ [⟨0x10040#64, 0#64, .live⟩, ⟨0x10040#64, 0#64, .parked 2⟩]
  h := [(2, 0x80000000#32)] }

/-- SLEEP of 0 (s0), of 5 (s3) and past the section's end; EXIT of 30 lanes beside a live and a parked one, and of all 32. -/
theorem witness_PausesAndExit :
    (Meets demo (fun g => controlPre g []) ∧ faultedOps demo.begun.me = .ok () ∧ demo.me.reg.nest = 0 ∧
      (∀ l < 32, demo.me.isParked l = false)) ∧
    (Meets parted (fun g => controlPre g []) ∧ faultedOps parted.begun.me = .ok () ∧
      (∃ l, l < 32 ∧ l ∉ parted.me.bundle ∧ parted.me.isLive l = true)) ∧
    (Meets demo (fun g => { controlPre g [src (.s 3)] with operandOk := !isVec g (.s 3) }) ∧
      scalarRead demo.begun (.s 3) = .ok (demo.begun, 5#32) ∧ scalarRead demo.begun (.s 0) = .ok (demo.begun, 0#32)) ∧
    demo.me.sched = .active ∧ demo.me.imx = none :=
  ⟨meets (by decide +kernel) (by decide +kernel), meets (by decide +kernel) ⟨by decide +kernel, ⟨30, by decide +kernel⟩⟩,
    meets (by decide +kernel) ⟨rfl, rfl⟩, rfl, rfl⟩

/-- Heddles 0 and 11; HWAIT on h2, where lanes outside the set stay live, and where the last member arrives. -/
theorem witness_Heddles :
    (Meets parted (fun g => { controlPre g [] with codes := [3001] }) ∧ (11#4).toNat < 12 ∧
      (∃ l, l < 32 ∧ parted.me.isLive l = true ∧ parted.me.parkedOn 2 l = false)) ∧
    (Meets parted (fun g => { controlPre g [src (.s 3)] with operandOk := !isVec g (.s 3), codes := [3001] }) ∧
      scalarRead parted.begun (.s 3) = .ok (parted.begun, 5#32)) ∧
    (Meets parted (fun g => { controlPre g [dst (.v 4)] with operandOk := isReg (.v 4), codes := [3001] }) ∧ True) ∧
    Freed (fun l => (decide (l ∈ parted.me.bundle) && Word.has 0x80000000#32 l) || parted.me.parkedOn 2 l) 0x80000000#32 31 :=
  ⟨meets (by decide +kernel) ⟨by decide +kernel, ⟨30, by decide +kernel⟩⟩, meets (by decide +kernel) rfl,
    meets (by decide +kernel) trivial, by decide +kernel, .inl (by decide +kernel)⟩

/-- A closed queue with one item, and 32 lanes that ask. -/
theorem witness_Items :
    (let s := demo.setTeam 0 { demo.team 0 with items := [9#32], itemClosed := true };
      Meets s (fun g => { controlPre g [dst (.v 4)] with operandOk := isReg (.v 4), inRegion := false }) ∧
      (∃ l ∈ s.me.execLanes true, ((takeItems (s.team 0) 32).2.getD l none).isSome)) ∧
    (let s := grp fun g => { g with ihead := some 0x10000#64 };
      Meets s (fun g => { controlPre g [dst (.s 4)] with operandOk := isReg (.s 4), inRegion := false }) ∧ s.me.ihead.isSome = true) :=
  ⟨meets (by decide +kernel) ⟨0, by decide +kernel⟩, meets (by decide +kernel) rfl⟩

/-- The window may stand at 504 of 512 registers, and not at 512 or 5. -/
theorem witness_WindowMoves :
    (let s := grp fun g => { g with s := [(3, 504#32), (4, 512#32), (5, 5#32)] };
      Meets s (fun g => { controlPre g [dst (.s 6), src (.s 3)] with operandOk := !isVec g (.s 3) && (isS (.s 6) || isZero (.s 6)) }) ∧
      scalarRead s.begun (.s 3) = .ok (s.begun, 504#32) ∧ scalarRead s.begun (.s 4) = .ok (s.begun, 512#32) ∧
      scalarRead s.begun (.s 5) = .ok (s.begun, 5#32) ∧ s.me.nreg = 512) :=
  meets (by decide +kernel) ⟨rfl, rfl, rfl, rfl⟩

-- Witnesses: memory --------------------------------------------------------------------------------------------------------

/-- The state after an instruction or a step. -/
def ran (i : Instr) (s : State) : State :=
  match exec i s with
  | .next t => t
  | .fault _ => s
  | .refused _ => s

/-- v2:v3 and s4:s5 hold 0x20000, s6:s7 the first byte of the team's scratch; page 2 is mapped to itself, W and X. -/
def mem0 : State :=
  let s := grp fun g => { g with
    v := Tab.writeFrom 0#32 (Tab.writeFrom 0#32 [] 64 (List.replicate 32 0x20000#32)) 128 (List.replicate 32 9#32)
    s := [(4, 0x20000#32), (7, 0xF0000000#32), (8, 6#32)] }
  { s with tlb := [⟨s.transHome 0x20000, 0, 0, 2, 0x2000F#64⟩] }

/-- The result is this state. -/
def mergesTo (s : State) : Go State → Bool
  | .ok t => decide (t = s)
  | .error _ => false

/-- The hypotheses of LoadsIssue on an access. -/
def loadsB (r : MemSpec) (s : State) : Bool :=
  let ts := r.lanesAt s.begun.me
  match s.begun.checkAddrs s.begun.me r.lin false 0 r.width ts with
  | .ok ps => meetsB s r.loadPre && (r.scope.isNone || isOk (faultedOps s.begun.me) && !ts.isEmpty) &&
      isOk (s.begun.chanRoom (r.resultTo s.begun.me) (ts.zip ps).length) && isOk (gateAccess s.begun.me) &&
      mergesTo s.begun (s.begun.mergeDst (dstN r.d (regsOf r.width)) (r.lanesAt s.begun.me).length) &&
      (!r.full || (scratchLines ps).all (fun e => s.lineFull e.1 e.2)) && decide (s.me.loadsOut < 32) &&
      s.begun.requestRoom s.begun.me true
  | .error _ => false

/-- A vector load of words, a load of a quad into v60 to v63, a scratch load with .wait of a full line, a load into a queue
with just the room for its lanes, an acquire read with lanes, and one whose predicate p0 has no lane. -/
theorem witness_LoadsIssue :
    (∃ r, loadSpec (.ldv 15 (.v 4) (.v 2) 4 0 false false false) = some r ∧ loadsB r mem0 = true) ∧
    (∃ r, loadSpec (.ldl 1 (.v 60) (.s 4) 6 3 true false false) = some r ∧
      loadsB r (mem0.setMe { mem0.me with p := [(1, 1#32)] }) = true) ∧
    (∃ r, loadSpec (.lds 15 (.s 9) (.s 6) 1 0 false false true) = some r ∧ loadsB r (mem0.setFullBit 0 0 true) = true ∧ r.full = true) ∧
    (∃ r, loadSpec (.ldv 15 (.chan 0) (.v 2) 4 0 false false false) = some r ∧ loadsB r (queueAt mem0 0) = true ∧
      loadsB r (queueAt mem0 1) = false) ∧
    (∃ r, loadSpec (.ldacq 15 (.v 4) (.v 2) 4 3 false) = some r ∧ loadsB r mem0 = true ∧ r.lanesAt mem0.begun.me ≠ []) ∧
    ∃ r, loadSpec (.ldacq 0 (.v 4) (.v 2) 4 3 false) = some r ∧ meetsB mem0 r.loadPre = true ∧ r.lanesAt mem0.begun.me = [] ∧
      isOk (gateAccess mem0.begun.me) = true ∧ isOk (loadsReturned mem0.begun.me) = true ∧ mem0.me.outstanding .mem < 4095 :=
  ⟨⟨_, rfl, by decide +kernel⟩, ⟨_, rfl, by decide +kernel⟩, ⟨_, rfl, by decide +kernel⟩, ⟨_, rfl, by decide +kernel⟩, ⟨_, rfl, by decide +kernel⟩,
    ⟨_, rfl, by decide +kernel⟩⟩

/-- mem0 with the line of 0x20000 in the L1 of core 0 and in the L2. -/
def cached : State :=
  let l := Line.ofBytes ((List.range 128).map (BitVec.ofNat 8)) ⟨true, true, false, false⟩ 0 false
  let c := mem0.core 0
  (mem0.setCore 0 { c with l1 := c.l1.put (lineKey 0 0x400) l }).setL2 (lineKey 0 0x400) l

/-- The same with a load of words issued: of the L1's line, and of a line that nothing holds. -/
def loaded : State := ran (.ldv 15 (.v 4) (.v 2) 4 0 false false false) cached
def loading : State := ran (.ldv 15 (.v 4) (.v 2) 4 0 false false false) mem0

theorem witness_LoadsComplete :
    (let line := (cached.core 0).l1.read Line.absent (cached.me.key 0x20000); line.present = true ∧
      (line.marks.any fun m => m.allow false false true) = true ∧ cached.me.atomicBefore cached.me.seq 0x400 = false ∧ cached.me.loadBefore cached.me.seq 0x400 = false ∧
      cached.fillBefore 0 cached.me.seq 0x400 = false ∧ cached.me.regionSlot = 0) ∧
    ((mem0.core 0).l1.read Line.absent (mem0.me.key 0x20000)).present = false ∧
    (((loaded.group 0).op 1).any fun o => (loaded.group 0).completes o && isOk (State.deliver { loaded with cur := 0 } o) &&
      decide (o.order % 2 = 0)) = true ∧ (loaded.group 0).sched = .active := by decide +kernel

/-- A vector store of words outside a region; the same inside region slot 0. -/
def storesB (r : MemSpec) (s : State) (slot : Nat) : Bool :=
  match s.begun.checkAddrs s.begun.me r.lin true 0 r.width (r.lanesAt s.begun.me) with
  | .ok ps => meetsB s r.storePre && isOk (gateAccess s.begun.me) && decide (s.me.regionSlot = slot) &&
      (decide (s.me.reg.nest = 0) || (scratchLines ps).isEmpty) && isOk (faultedOps s.begun.me) &&
      s.begun.requestRoom s.begun.me false && isOk (readWides s.begun s.me.bundle s.begun [(r.d, regsOf r.width)])
  | .error _ => false

/-- mem0 inside the region of slot 0. -/
def inRegion : State := mem0.setMe { mem0.me with reg := { mem0.me.reg with nest := 1, slot := 0 } }

theorem witness_StoresLeave :
    (∃ r, storeSpec (.stv 15 (.v 4) (.v 2) 4 0 false false false) = some r ∧ r.scope = none ∧ storesB r mem0 0 = true) ∧
    (∃ r, storeSpec (.sts 15 (.s 8) (.s 6) 5 0 true false true) = some r ∧ storesB r mem0 0 = true) ∧
    (∃ r, storeSpec (.stv 15 (.v 4) (.v 2) 4 0 false false false) = some r ∧ storesB r inRegion 1 = true ∧
      inRegion.me.heldCount < 48 ∧ (inRegion.me.ops.filter fun o => o.heldKind = some 2).length < 16) ∧
    (∃ r, storeSpec (.strel 15 (.v 4) (.v 2) 4 2 false) = some r ∧ r.scope = some 2 ∧ storesB r mem0 0 = true ∧
      r.lanesAt mem0.begun.me ≠ [] ∧ (mem0.begun.openRelease 2 [(0, 0, 0x400)]).me.heldCount + 1 ≤ 48) ∧
    (mem0.me.storing = none ∧ (mem0.setMe { mem0.me with storing := some (0, 1) }).me.storing = some (0, 1)) ∧
    (mem0.me.heldBy 1 0 0 = none ∧ (mem0.team 0).resident = true ∧
      isOk (mem0.storeLine 0 0 false true 0 (1, 0, 0, putBytes [] 120 (zeros 8))) = true) ∧
    mem0.me.heldBy 0 0 0x400 = none ∧ isOk (mem0.storeLine 0 0 false false 0 (0, 0, 0x400, putBytes [] 120 (zeros 8))) = true :=
  ⟨⟨_, rfl, by decide +kernel⟩, ⟨_, rfl, by decide +kernel⟩, ⟨_, rfl, by decide +kernel⟩, ⟨_, rfl, by decide +kernel⟩,
    by decide +kernel⟩

/-- A load that waits for its home slice, there and at its translation home. -/
theorem witness_LoadsTravel :
    (((loading.group 0).op 1).any fun o => o.onPath && (o.accs.any fun a => decide (a.addr / 128 = 0x400) && decide (a.st = .wait))) = true ∧
    (loading.group 0).atomicBefore 1 0x400 = false ∧ (loading.group 0).loadBefore 1 0x400 = false ∧
    loading.fillBefore 0 1 0x400 = false ∧ (loading.group 0).mayRedo 1 = true ∧ loading.locked (lineKey 0 0x400) = false ∧
    (loading.group 0).sched = .active ∧ loading.rehashHolds 0 0x20000 (some (0, 1)) = false ∧ loading.homePath 0 0x20000 = true ∧
    (loading.l2Line (lineKey 0 0x400)).present = false ∧
    (let s := loading.setL2 (lineKey 0 0x400) (cached.l2Line (lineKey 0 0x400));
      (s.l2Line (lineKey 0 0x400)).marks.isSome = true ∧
      (match s.fetch 0 0x400 false false true 0 with
        | .line _ l => decide (l.poison = false)
        | .ext _ => false
        | .fail _ _ => false) = true) ∧
    (let s := ran (.homeSliceRequest 0 1 0x400 none) loading;
      (((s.group 0).op 1).any fun o => o.accs.any fun a => decide (a.addr / 128 = 0x400) && decide (a.st = .walk)) = true ∧
      (match s.translate 0 0x20000 false false true with
        | .mem pa _ => !s.degraded (pa / 128)
        | _ => false) = true) := by decide +kernel

/-- A store of words in the buffer, drained, and failed at its home slice. -/
def storing : State :=
  let s := ran (.stl 1 (.v 4) (.s 4) 4 0 false false false) (mem0.setMe { mem0.me with p := [(1, 1#32)] })
  s.setMe { s.me with blocked := true }
def drained : State := ran (.wcbLineDrain 0 0x400) storing
def failedWrite : State := drained.setGroup 0 { drained.group 0 with parts := (drained.group 0).parts.map fun p => { p with st := .failed 9 0x10 } }
def recorded : State := ran (.storeFaultRecordArrival 0) failedWrite

theorem witness_StoresTravel :
    ((storing.group 0).wcb.find? fun w => w.line = 0x400).isSome = true ∧ (storing.group 0).blocked = true ∧
    (storing.group 0).drained < 16 ∧ storing.coreRequests 0 < 4096 ∧
    ((drained.group 0).parts.any fun p => decide (p.st = .wait) && decide (p.rel = none) && (drained.group 0).mayWrite p &&
      (drained.group 0).mayRedo p.first && !drained.tstBefore 0 p.first p.line &&
      ((drained.group 0).recordOver p).isNone && decide (p.cls = 0)) = true ∧
    drained.regionHolds 0 0x400 = false ∧ drained.rehashHolds 0 0x20000 none = false ∧ drained.homePath 0 0x20000 = true ∧
    (let s := (drained.setGroup 0 { drained.group 0 with parts := (drained.group 0).parts.map fun p => { p with st := .held } }).setL2
        (lineKey 0 0x400) (cached.l2Line (lineKey 0 0x400));
      ((s.group 0).parts.any fun p => decide (p.st = .held)) = true ∧ (s.l2Line (lineKey 0 0x400)).present = true ∧
      (s.setGroup 0 ((s.group 0))).regionHolds 0 0x400 = false) ∧
    (let s := { drained with batten := { drained.batten with
        slots := [(1, some ⟨1, 0, .opened, 0, [], 1, [], []⟩)], versions := [⟨1, lineKey 0 0x400, []⟩] } };
      s.regionHolds 0 0x400 = true) ∧
    (match mem0.homeWrite 0 0x400 (putBytes [] 120 (zeros 8)) true 0 with
      | .line _ l => l.dirty
      | .ext _ => false
      | .fail _ _ => false) = true ∧
    (inTables (128 * 0x400) = false ∧ ppaState (mem0.ppa (0x400 / 512)) ≠ 2 ∧ mem0.res.poison.contains (0x400 / 4) = false ∧
      128 * 0x400 < Config.reservedBase ∧ (mem0.initPage (0x400 / 512)).erasures (0x400 / 4) = [] ∧ mem0.res.heldW = []) := by decide +kernel

theorem witness_FinishFrame : (base.me.enter).bundle = base.me.bundle := by decide +kernel

theorem witness_StoreFaults :
    (((failedWrite.group 0).parts.find? fun p => match p.st with
        | .failed _ _ => true
        | _ => false).any fun p => decide (p.st = .failed 9 0x10)) = true ∧ (failedWrite.group 0).sfq.length < 16 ∧
    (recorded.group 0).sfq.length = 1 ∧ (recorded.group 0).sfnew = true ∧
    (let s := loading.setGroup 0 { (loading.group 0).setOp 1 (fun o => { o with fault := some (8, 11, 0, 0x20000) }) with blocked := true };
      (((s.group 0).ops.find? fun o => !o.done && o.fault.isSome && ((s.group 0).blocked || o.isRegionStore)).any fun o =>
        decide (o.fault = some (8, 11, 0, 0x20000))) = true ∧
      s.lineBusy 0 0 (s.frameBase (s.group 0)) (frameSize (s.group 0).nreg (s.group 0).rgn) = false) ∧
    (let s := ran (.externalAcknowledgement 0 1 true (zeros 4)) (loading.setGroup 0 ((loading.group 0).setOp 1 fun o =>
        o.mapAccs (fun a => decide (a.lane = 0)) fun a => { a with st := .ext true }));
      ((s.group 0).op 1).any (fun o => o.accs.any fun a => decide (a.lane = 0) && decide (a.st = .got)) = true) ∧
    (0 : Nat) ≠ noGroup := by decide +kernel
/-- One line by a vector pair, one by a scalar pair, a scratch line; SDRAIN with nothing on its way; WBL of a range that ends
with the address space, and one at its home slice over a modified line. -/
theorem witness_MemcInstructions :
    (Meets mem0 (fun g => memcPre g [srcN (.v 2) 2] 2) ∧
      isOk (mem0.begun.checkAddrs mem0.begun.me false false 0 1 (mem0.begun.me.pairTargets (.v 2))) = true) ∧
    (Meets mem0 (fun g => { controlPre g [] with inRegion := false }) ∧ isOk (faultedOps mem0.begun.me.drain) = true ∧
      (mem0.begun.me.drain.ops.any fun o => o.isStore && !o.done) = false ∧ mem0.begun.me.drain.sfq = []) ∧
    (Meets mem0 (fun g => memcPre g [srcN (.s 6) 2] 0) ∧ isOk (gateAccess mem0.begun.me) = true ∧ mem0.me.reg.nest = 0 ∧
      isOk (mem0.begun.checkAddrs mem0.begun.me false true 2 1 (mem0.begun.me.pairTargets (.s 6))) = true ∧ mem0.me.parts = [] ∧ mem0.me.outstanding .mem < 4095) ∧
    (Meets mem0 (fun g => { memcPre g [dst (.s 9), srcN (.s 6) 2] 0 with
      operandOk := (isV (.s 6) && isV (.s 9)) || (!isV (.s 6) && isS (.s 9)) }) ∧ True) ∧
    (let s := mem0.setMe { mem0.me with s := [(2, 0xFFFFFFFA#32), (3, 0x000FFFFF#32), (8, 6#32)] };
      Meets s (fun g => { controlPre g [srcN (.s 2) 2, src (.s 8)] with
        imx := 2, operandOk := !isV (.s 2) && !isVec g (.s 8), inRegion := false }) ∧
      scalarRead s.begun (.s 8) = .ok (s.begun, 6#32) ∧ isOk (gateAccess s.begun.me) = true ∧
      addAddr (s.begun.me.scalar64 (.s 2)) s.begun.me.offset + 6 = 2 ^ 52 ∧ s.me.drain.wcb = [] ∧
      s.me.outstanding .mem < 4095) ∧
    (let s := (mem0.setMe { mem0.me with ops := [Op.base 1 .mem (.wbl 0x20000 0x20080 true) 0#64] }).setL2 (lineKey 0 0x400)
        { cached.l2Line (lineKey 0 0x400) with dirty := true };
      ((s.group 0).op 1).isSome = true ∧ (s.group 0).parts = [] ∧ inBlocks 0x20000 0x20080 0x400 = true ∧
      s.l2.keys.contains (lineKey 0 0x400) = true ∧ s.repairHolds (lineKey 0 0x400) = false ∧
      s.rehashHolds 0 0x20000 none = false) :=
  ⟨meets (by decide +kernel) (by decide +kernel), meets (by decide +kernel) (by decide +kernel),
    meets (by decide +kernel) (by decide +kernel), meets (by decide +kernel) trivial,
    meets (by decide +kernel) ⟨rfl, by decide +kernel⟩, by decide +kernel⟩

theorem witness_AcquireRelease :
    (Meets mem0 (fun g => orderPre g [srcN (.s 4) 2]) ∧ isOk (gateAccess mem0.begun.me) = true ∧
      isOk (loadsReturned mem0.begun.me) = true ∧ isOk (faultedOps mem0.begun.me) = true ∧
      isOk (mem0.begun.checkAddrs mem0.begun.me false false 0 8 (mem0.begun.me.pairTargets (.s 4))) = true) ∧
    (Meets mem0 (fun g => orderPre g []) ∧ isOk (mem0.begun.releaseWait 3) = true) :=
  ⟨meets (by decide +kernel) (by decide +kernel), meets (by decide +kernel) (by decide +kernel)⟩

/-- Regions of 2^7 and 2^40 bytes; an object that is bound already; a slice with 16 bindings. -/
theorem witness_ObjectBindings :
    (let s := mem0.setMe { mem0.me with s := [(4, 0x20000#32), (10, 0x20007#32), (12, 40#32), (13, 0x100#32)] };
      Meets s (fun g => { orderPre g [dst (.s 9), srcN (.s 4) 2, srcN (.s 10) 2] with operandOk := isS (.s 9) && (isS (.s 4) || isZero (.s 4)) && (isS (.s 10) || isZero (.s 10)) }) ∧
      s.me.outstanding .mem < 4095 ∧
      s.begun.bindObject (.s 4) = .ok 0x20000 ∧ s.begun.me.scalar64 (.s 10) = 0x20000 + 7 ∧
      s.begun.me.scalar64 (.s 12) = 2 ^ 40 + 40) ∧
    (let s := { mem0 with binds := [⟨0, 0x20000, 0x20000, 7⟩] };
      s.binds.any (fun e => decide (e.asid = 0 ∧ e.obj = 0x20000)) = true) ∧
    (let s := { mem0 with binds := List.replicate 16 ⟨1, 0x20000, 0x20000, 7⟩ };
      s.binds.any (fun e => decide (e.asid = 0 ∧ e.obj = 0x20000)) = false ∧
      16 ≤ (s.binds.filter fun e => s.homeSlice e.obj = s.homeSlice 0x20000).length) ∧
    (let s := { mem0 with tlb := [⟨mem0.transHome 0, 0, 0, 0, 0xF#64⟩] };
      Meets s (fun g => { orderPre g [dst (.s 9), srcN .zero 2] with operandOk := isS (.s 9) && (isS .zero || isZero .zero) }) ∧
      isOk (s.begun.bindObject .zero) = true) :=
  ⟨meets (by decide +kernel) (by decide +kernel), by decide +kernel, by decide +kernel, meets (by decide +kernel) (by decide +kernel)⟩

/-- No operation outstanding and n = 0; a wait that the barrier has left behind, and one of another word of the program. -/
theorem witness_WaitsEnd :
    (Meets demo (fun g => orderPre g []) ∧ isOk (noImprecise demo.begun.me (clsOf 0)) = true ∧ demo.me.outstanding (clsOf 0) ≤ 0) ∧
    (Meets demo (fun g => { orderPre g [dst (.s 9)] with operandOk := isReg (.s 9) || isZero (.s 9) }) ∧
      isOk (faultedOps demo.begun.me.drain) = true ∧ isOk (noImprecise demo.begun.me.drain .mat) = true ∧
      demo.begun.me.drain.wcb = [] ∧ (demo.begun.me.drain.ops.any fun o => demo.begun.me.drain.fenceWaits 3 o) = false ∧
      demo.begun.me.drain.parts = []) ∧
    demo.me.wait = none ∧
    (let w : BarWait := ⟨1, 0, 0, demo.me.pc, 0xFFFFFFFF#32, []⟩;
      let s := (demo.setMe { demo.me with wait := some w, blocked := true }).setBar 0 0 ⟨1, 0, 1⟩;
      (s.group 0).waitHere 1 0 = some w ∧ (s.group 0).sched = .active ∧ (s.group 0).blocked = true ∧
      s.waitPhase (s.group 0) w ≠ 0 ∧ (s.group 0).ops = [] ∧ isOk (loadsReturned s.me) = true) ∧
    (let s := demo.setMe { demo.me with wait := some ⟨1, 0, 0, demo.me.pc + 4#64, 0xFFFFFFFF#32, []⟩ };
      (s.group 0).waitHere 1 0 = none) :=
  ⟨meets (by decide +kernel) (by decide +kernel), meets (by decide +kernel) (by decide +kernel), by decide +kernel,
    by decide +kernel⟩

/-- Barriers of count 1, whose first arrival is the last; a ring of 4 slots in its first and second lap. -/
theorem witness_BarriersAndRings :
    (let s := (demo.setBar 0 15 ⟨1, 0, 65535⟩).setMe { demo.me with s := [(3, 1#32), (4, 4095#32)] };
      Meets s (fun g => { orderPre g [src (.s 3)] with operandOk := !isVec g (.s 3) }) ∧
      scalarRead s.begun (.s 3) = .ok (s.begun, 1#32) ∧ (s.bar 0 15).arrive 1 = .ok (⟨1, 0, 0⟩, 65535) ∧
      isOk (s.begun.releaseWait 0) = true ∧ isOk (loadsReturned s.begun.me) = true ∧ s.begun.me.waitHere 1 15 = none ∧ s.begun.me.waitHere 2 0 = none ∧
      (s.bar 0 15).phase ≠ 1 % 65536) ∧
    ((⟨0, 0, 0⟩ : Bar).arrive 4096 = .error (.trap (Trap.precise 0x0B (some 0)))) ∧
    ((⟨2, 0, 0⟩ : Bar).arrive 0 = .ok (⟨2, 1, 0⟩, 0)) ∧
    (Meets demo (fun g => { orderPre g [dst (.s 9), src (.s 3)] with operandOk := (isReg (.s 9) || isZero (.s 9)) && !isVec g (.s 3) }) ∧
      isOk (demo.begun.releaseWait 1) = true ∧ ((demo.cluster demo.me.clusterOf).bar.arrive 1).toBool = true) ∧
    (let w : BarWait := ⟨2, 0, 7, demo.me.pc, 0xFFFFFFFF#32, []⟩;
      let s := demo.setMe { demo.me with wait := some w };
      s.begun.me.waitHere 2 0 = some w ∧ s.waitPhase s.begun.me w ≠ w.token ∧ isOk (loadsReturned s.begun.me) = true) ∧
    (demo.begun.ringSlots demo.begun.me 0 = .ok 4 ∧ scalarRead demo.begun (.s 0) = .ok (demo.begun, 0#32) ∧
      b2n ((demo.team 0).ringE.read false 0) = 0 / 4 % 2 ∧ b2n ((demo.team 0).ringF.read false 3) = (7 / 4 % 2 + 1) % 2) :=
  ⟨meets (by decide +kernel) ⟨rfl, by decide +kernel⟩, by decide +kernel, by decide +kernel, meets (by decide +kernel) (by decide +kernel),
    by decide +kernel, by decide +kernel⟩

/-- The hypotheses of AtomicsIssue. -/
def atomicsB (r : AtomSpec) (s : State) : Bool :=
  let g := s.begun.me
  let ts := r.lanesAt g
  match (if 2 ≤ r.order then s.begun.releaseWait r.scope else .ok s.begun) with
  | .error _ => false
  | .ok s1 =>
    let now := ts.isEmpty && decide (r.order % 2 = 1)
    let u := if now then s1.acquire g r.scope allMemory else s1
    match u.checkAddrs g false true (if r.inScratch then 2 else 1) r.k.width ts with
    | .error _ => false
    | .ok ps =>
      match (if r.isRed then .ok u else u.mergeDst (dstN r.d r.res) ts.length) with
      | .error _ => false
      | .ok v =>
      meetsB s r.pre && isOk (gateAccess g) && (!now || isOk (loadsReturned g)) &&
      (decide (r.order % 2 = 0) || isOk (faultedOps g)) &&
      (!r.inScratch || !v.me.relHolds (ps.map (·.2)) && !v.me.scratchOpen (ps.map (·.2))) &&
      (if r.isRed then v.tableRoom v.me false && decide (v.me.outstanding .red < 4095) else v.requestRoom v.me true) &&
      match drainOver v.me (if r.inScratch then [] else (ts.map fun t => t.2 / 128).eraseDups) with
      | none => false
      | some g1 => isOk (readWides (v.setMe g1) (if isV r.a then s.me.bundle else s.me.bundle.take 1) (v.setMe g1) [(r.d, r.words)])

/-- ATOM.add with acqrel by every lane; RED by one; CAS.128 with octet s8; ATOML in scratch; ATOM.acq by no lane. -/
theorem witness_Atomics_issue :
    (∃ r, atomSpec (.atom 15 (.v 4) (.v 2) 0 2 3) = some r ∧ atomicsB r mem0 = true) ∧
    (∃ r, atomSpec (.red 15 (.s 8) (.s 4) 0 2 true) = some r ∧ atomicsB r mem0 = true) ∧
    (∃ r, atomSpec (.cas 15 (.s 8) (.s 4) 2 3 0) = some r ∧ atomicsB r mem0 = true) ∧
    (∃ r, atomSpec (.atoml 15 (.s 8) (.s 6) 14 1 0) = some r ∧ atomicsB r mem0 = true) ∧
    ∃ r, atomSpec (.atom 0 (.v 4) (.v 2) 0 2 1) = some r ∧ atomicsB r mem0 = true ∧ r.lanesAt mem0.begun.me = [] :=
  ⟨⟨_, rfl, by decide +kernel⟩, ⟨_, rfl, by decide +kernel⟩, ⟨_, rfl, by decide +kernel⟩, ⟨_, rfl, by decide +kernel⟩,
    ⟨_, rfl, by decide +kernel⟩⟩

/-- An atomic on its way, and two REDs of two groups, or of one, that their routers may combine. -/
def atomic1 : State := ran (.atom 15 (.s 8) (.s 4) 0 2 0) cached
def reds : State :=
  let s := (ran (.red 15 (.s 8) (.s 4) 0 2 false) cached)
  let s := s.setCore 0 { s.core 0 with sys := [(0x520, 1#64)] }
  s.setGroup 1 (s.group 0)

theorem witness_Atomics :
    (((atomic1.group 0).op 1).any fun o => o.isAtomic && !o.done && (atomic1.group 0).mayPerform o 0x400 &&
      (atomic1.group 0).mayRedo 1 &&
      (o.accs.all fun a => decide (a.addr / 128 = 0x400) && a.unperformed && decide (a.st ≠ .held) && a.origins.isEmpty) &&
      !atomic1.tstBefore 0 1 0x400 && !atomic1.rehashHolds 0 0x20000 (some (0, 1)) && !atomic1.locked (lineKey 0 0x400) &&
      ((atomic1.group 0).redBehind o 0x400 o.accs).isNone && !o.accs.isEmpty) = true ∧ atomic1.homePath 0 0x20000 = true ∧
    (match atomic1.fetch 0 0x400 true false true 0 with
      | .line s' l => !l.poison && !s'.regionHolds 0 0x400
      | .ext _ => false
      | .fail _ _ => false) = true ∧
    (((reds.group 0).op 1).any fun o => o.mergeable && decide (o.accs.length = 1) && (o.accs.all fun a => decide (a.st = .wait)) &&
      (o.accs.all fun a => a.origins.isEmpty) &&
      ((reds.group 0).without 0 [(0, 1, 0), (1, 1, 0)]).mayPerform o 0x400) = true ∧ (reds.group 1).op 1 = (reds.group 0).op 1 ∧
    reds.combines 0 0 0x20000 = true ∧
    (let s := ran (.red 15 (.s 8) (.s 4) 0 2 false) reds;
      (((s.group 0).op 1).any fun o => o.mergeable && ((s.group 0).without 0 [(0, 1, 0), (0, 2, 0)]).mayPerform o 0x400) = true ∧
      (((s.group 0).op 2).any fun o => o.mergeable && ((s.group 0).without 0 [(0, 1, 0), (0, 2, 0)]).mayPerform o 0x400) = true) := by
  decide +kernel

theorem witness_AtomicValues : 0 < 4 ∧ leNat [1#8, 0#8] = leNat [1#8] ∧ leNat [2#8] ≠ leNat [1#8] := by decide

/-- Tree 0 of core 0: node 0 with a contributor and its child, node 1; E is 32. s3 names tree 0, node 0. -/
def tree (f : Tree → Tree) : State :=
  (demo.setMe { demo.me with s := [(4, 0x20000#32), (3, 0#32)] }).setTree 0 (f { Tree.init with
    st := 1, op := 3, e1 := 31, nodes := [⟨0, 0x3F, true⟩, ⟨1, 0, true⟩] })

/-- A contribution to an idle tree; a round's result, the newer of two; a descriptor at 0x20000; TRSTAT; a node with its
inputs, a child's value beside its own; an open tree that times out. -/
theorem witness_TreeInstructions :
    (Meets (tree id) (fun g => { orderPre g [dst (.s 9), src (.v 1), src (.s 3)] with
      operandOk := (isReg (.s 9) || isZero (.s 9)) && (isReg (.v 1) || isZero (.v 1)) && !isVec g (.s 3) }) ∧
      scalarRead (tree id).begun (.s 3) = .ok ((tree id).begun, 0#32) ∧ isOk ((tree id).begun.treeCheck 0#32 true) = true ∧
      (tree id).me.outstanding .red < 4095 ∧ ((tree id).tree 0).st ≠ 3 ∧ ((tree id).tree 0).given 0 = false) ∧
    (let s := (tree fun t => { t with st := 2, sent := [(0, 0, 1)] });
      let s := s.setMe { s.me with ops := [Op.base 1 .red (.tred 0 0 [7#32]) 0#64] };
      ((s.group 0).op 1).isSome = true ∧ (s.tree 0).st = 2 ∧ (0, 0, 1) ∈ (s.tree 0).sent) ∧
    (let s := tree fun t => { t with results := [(1, [7#32]), (0, [5#32])] };
      Meets s (fun g => { orderPre g [dst (.v 4), src (.s 0), src (.s 3)] with operandOk := !isVec g (.s 0) && !isVec g (.s 3), whole := true }) ∧
      isOk (s.begun.treeCheck 0#32 true) = true ∧
      ((s.tree 0).results.find? fun r => r.1 = 0) = some (0, [5#32])) ∧
    (let s := (tree id).setL2 (lineKey 0 0x400) (Line.ofBytes (leBytes 8 (1 + 3 * 2 ^ 8 + 31 * 2 ^ 12) ++ leBytes 4 (0x3F * 2 ^ 9 + 2 ^ 15))
        ⟨true, true, false, false⟩ 0 false);
      Meets s (fun g => { orderPre g [dst (.s 9), srcN (.s 4) 2, src (.s 3)] with
        operandOk := isS (.s 9) && !isV (.s 4) && !isVec g (.s 3), privOk := g.priv }) ∧
      isOk (gateAccess s.begun.me) = true ∧ isOk (s.begun.checkAddrs s.begun.me false false 1 8 [(0, 0x20000)]) = true ∧
      isOk (s.begun.readOwn 0x20000 8) = true ∧ isOk (s.begun.readOwn 0x20008 4) = true) ∧
    (Meets (tree id) (fun g => { orderPre g [dstN (.s 8) 2, src (.s 3)] with
      legal := (2#2).toNat ≠ 3, operandOk := !isV (.s 8) && !isVec g (.s 3) }) ∧
      isOk ((tree id).begun.treeCheck 0#32 false) = true) ∧
    (let s := tree fun t => { t with st := 2, contrib := [(0, [1#32])], folded := [(1, [2#32])] };
      (s.tree 0).st = 2 ∧ 0 < (s.tree 0).nodes.length ∧ (s.tree 0).inputs 0 = some [[1#32], [2#32]] ∧ (s.tree 0).err.read 0 0 < 2 ∧
      ((s.tree 0).folded.find? fun e => e.1 = 0) = none) :=
  ⟨meets (by decide +kernel) ⟨rfl, by decide +kernel⟩, by decide +kernel, meets (by decide +kernel) (by decide +kernel),
    meets (by decide +kernel) (by decide +kernel), meets (by decide +kernel) (by decide +kernel), by decide +kernel⟩

-- Witnesses: regions --------------------------------------------------------------------------------------------------------

/-- A group that holds region slot 0, `n` regions deep. -/
def opened (n : Nat) : State :=
  let s := mem0.setMe { mem0.me with reg := { mem0.me.reg with nest := n, slot := 0, ckpt := some mem0.me.checkpoint } }
  { s with batten := { s.batten with slots := [(0, some ⟨0, 0, .opened, 1, [], 1, [], []⟩)], nextBegin := 2 } }

/-- Its access to the line of 0x20000, in the state `st` of its way. -/
def access (i : Instr) (st : AccSt) : State :=
  let s := ran i (opened 1)
  (s.setMe (s.me.setOp 1 fun o => { o with accs := o.accs.map fun a => { a with st := st } })).setL2 (lineKey 0 0x400)
    (cached.l2Line (lineKey 0 0x400))

theorem witness_RegionInstructions :
    (Meets demo (fun g => { controlPre g [dst (.s 9)] with operandOk := isS (.s 9), bundleOk := g.whole }) ∧ demo.me.rgn = true ∧
      demo.me.reg.nest = 0 ∧ demo.me.reg.serial = false ∧ isOk demo.begun.waitAsSdrain = true ∧ isOk (loadsReturned demo.begun.me) = true ∧
      (demo.batten.serial.any fun e => e.1 = demo.me.asid) = false ∧ demo.batten.freeSlots ≠ [] ∧
      bitOf ((demo.setSys 0x560 1).sysv 0x560) 0 = true ∧ bitOf ((demo.setSys 0x560 0).sysv 0x560) 0 = false ∧
      (demo.batten.serial.all fun e => decide (e.1 ≠ demo.me.asid) || decide (e.2 = demo.cur)) = true ∧
      (demo.batten.list.any fun e => decide (e.2.asid = demo.me.asid ∧ e.2.st ≠ .aborting)) = false) ∧
    (let s := { demo with batten := { demo.batten with serial := [(0, 5)] } };
      bitOf ((s.setSys 0x560 1).sysv 0x560) 0 = true ∧ (s.batten.serial.any fun e => e.1 = s.me.asid) = true ∧
      (s.batten.serial.any fun e => decide (e.1 = s.me.asid ∧ e.2 ≠ s.cur)) = true ∧ isOk s.begun.waitAsSdrain = true) ∧
    (let s := { demo with batten := { demo.batten with serial := [(0, 0)] } };
      (s.batten.serial.any fun e => e.2 = s.cur) = true ∧ (s.batten.serial.all fun e => decide (e.1 ≠ s.me.asid) || decide (e.2 = s.cur)) = true) ∧
    (let s := (opened 1).setMe { (opened 1).me with reg := { (opened 1).me.reg with serial := true } };
      Meets s (fun g => { controlPre g [] with bundleOk := g.whole }) ∧ isOk s.begun.waitAsSdrain = true) ∧
    (Meets demo (fun g => { controlPre g [] with bundleOk := g.whole }) ∧ demo.me.rgn = true) ∧
    (Meets (opened 14) (fun g => { controlPre g [dst (.s 9)] with operandOk := isS (.s 9), bundleOk := g.whole }) ∧
      (opened 14).me.reg.nest < 15) ∧
    (Meets (opened 1) (fun g => { controlPre g [] with bundleOk := g.whole }) ∧ (opened 1).me.reg.nest = 1 ∧
      ((opened 1).setMe { (opened 1).me with reg := { (opened 1).me.reg with slot := 256 } }).me.reg.slot = 256) ∧
    (Meets (opened 1) (fun g => { controlPre g [src (.s 8)] with operandOk := !isVec g (.s 8) }) ∧
      scalarRead (opened 1).begun (.s 8) = .ok ((opened 1).begun, 6#32)) ∧
    (Meets (opened 1) (fun g => { controlPre g [dstN (.s 10) 2] with operandOk := !isV (.s 10) }) ∧ True) :=
  ⟨meets (by decide +kernel) (by decide +kernel), by decide +kernel, by decide +kernel, meets (by decide +kernel) (by decide +kernel),
    meets (by decide +kernel) (by decide +kernel), meets (by decide +kernel) (by decide +kernel),
    meets (by decide +kernel) (by decide +kernel), meets (by decide +kernel) rfl, meets (by decide +kernel) trivial⟩

/-- A store and a load at the batten, a store that merges (into an empty and into a full write set), a load that waits. -/
theorem witness_Regions_access :
    (let s := access (.stl 15 (.v 4) (.s 4) 4 0 false false false) .batten;
      ((s.regionAccess 0 1).any fun e => e.1.accessAt 0x400 .batten && e.1.isStore) = true ∧ (s.group 0).regionBefore 1 0x400 = false ∧
      s.lineTaken 0 0 0x400 true = false ∧ s.lineTaken 0 0 0x400 false = false ∧
      s.batten.cycle 0 (s.batten.writers 0 (lineKey 0 0x400) ++ s.batten.readers 0 0 0x400) = []) ∧
    (let s := access (.ldl 15 (.v 4) (.s 4) 4 0 false false false) .batten;
      ((s.regionAccess 0 1).any fun e => e.1.accessAt 0x400 .batten && !e.1.isStore) = true ∧
      s.batten.depthOf [] ≤ 8 ∧ (s.l2Line (lineKey 0 0x400)).present = true ∧ (s.l2Line (lineKey 0 0x400)).poison = false) ∧
    (let s := access (.ldl 15 (.v 4) (.s 4) 4 0 false false false) .depth;
      ((s.regionAccess 0 1).any fun e => e.1.accessAt 0x400 .depth) = true) ∧
    (let s := access (.stl 15 (.v 4) (.s 4) 4 0 false false false) .merge;
      ((s.regionAccess 0 1).any fun e => e.1.accessAt 0x400 .merge) = true ∧ s.batten.versions = [] ∧
      s.versionWays (lineKey 0 0x400) < s.vways ∧ (s.makeRoom (lineKey 0 0x400) none).setFull (lineKey 0 0x400) = false ∧
      (((s.setRslot 0 (some ⟨0, 0, .opened, 1, [], 1, [], List.range 512⟩)).regionAccess 0 1).any fun e =>
        !e.2.2.wset.contains (lineKey 0 0x400) && decide (512 ≤ e.2.2.wset.length)) = true) := by decide +kernel

/-- An edge back to a region that waits for this one closes a cycle whose latest member is the accessing region; or the other
one, where that began later, and then no cycle is left. -/
theorem witness_Regions_cycle :
    (let s := access (.stl 15 (.v 4) (.s 4) 4 0 false false false) .batten;
      let s := { s with batten := { s.batten with
        slots := s.batten.slots.put 1 (some ⟨1, 0, .opened, 0, [], 1, [], []⟩), edges := [(0, 1)]
        versions := [⟨1, lineKey 0 0x400, []⟩] } };
      s.batten.cycle 0 (s.batten.writers 0 (lineKey 0 0x400)) ≠ [] ∧
      s.batten.latest (s.batten.cycle 0 (s.batten.writers 0 (lineKey 0 0x400))) = some 0) ∧
    (let s := access (.stl 15 (.v 4) (.s 4) 4 0 false false false) .batten;
      let s := { s with batten := { s.batten with
        slots := s.batten.slots.put 1 (some ⟨1, 0, .opened, 7, [], 1, [], []⟩), edges := [(0, 1)]
        versions := [⟨1, lineKey 0 0x400, []⟩] } };
      let u := s.abortRegion 1 0x10 0 true;
      s.batten.cycle 0 (s.batten.writers 0 (lineKey 0 0x400)) ≠ [] ∧
      s.batten.latest (s.batten.cycle 0 (s.batten.writers 0 (lineKey 0 0x400))) = some 1 ∧
      (u.rslot 0).any (fun r => decide (r.st ≠ .aborting)) = true ∧ u.batten.cycle 0 (u.batten.writers 0 (lineKey 0 0x400)) = []) := by
  decide +kernel

theorem witness_Regions_end :
    (let s := (opened 1).setRslot 0 (some ⟨0, 0, .requesting, 1, [], 1, [], []⟩);
      ((s.rslot 0).any fun r => s.commits 0 r) = true) ∧
    (let s := (opened 1).setRslot 0 (some ⟨0, 0, .committing, 1, [], 1, [], []⟩);
      ((s.rslot 0).any fun r => s.commits 0 r) = true) ∧
    (let s := (opened 1).setRslot 0 (some ⟨0, 0, .aborting, 1, [], 1, [], []⟩);
      ((s.rslot 0).any fun r => decide (r.st = .aborting) && !s.regionFlies 0 r) = true) ∧
    ((opened 1).batten.slots.length ≤ 256 ∧ (opened 1).batten.dependants 0 = [] ∧
      (let s := (opened 1).setRslot 1 (some ⟨1, 0, .opened, 2, [], 1, [0], []⟩);
        (s.rslot 1).any (fun d => d.flow.contains 0 && decide (d.st ≠ .aborting)) = true)) ∧
    (let s := (opened 1).abortRegion 0 0x14 3 true;
      (s.group 0).reg.abortPending = some (0x14, 3) ∧ (s.group 0).reg.ckpt.isSome = true ∧ (s.group 0).sched = .active) := by
  decide +kernel

-- Witnesses: array, copies, channels ------------------------------------------------------------------------------------------

/-- mem0 with operand slots 0 to 2 and tile 0 claimed for the team; s3 is a stride of 128, s8 a mask, row or stride of 0. -/
def matrix0 : State :=
  let s := mem0.setMe { mem0.me with s := [(3, 128#32), (4, 0x20000#32), (9, 7#32)] }
  let s := s.claimSlots s.me [0, 1, 2]
  s.claimTiles s.me [0]

theorem witness_MatrixInstructions :
    (isOk (noImprecise matrix0.begun.me .mat) = true ∧ ((matrix0.team 0).slot 0).isSome = true ∧
      ((matrix0.team 0).slot 2).isSome = true ∧ ((matrix0.team 0).tile 0).isSome = true ∧
      (matrix0.core 0).queued < 16 ∧ matrix0.begun.me.outstanding .mat < 4095 ∧
      matrix0.begun.requestRoom matrix0.begun.me true = true ∧ matrix0.begun.matrixBase (.s 4) true 128 128 = .ok 0x20000 ∧
      matrix0.begun.matrixBase (.s 4) false 64 0 = .ok 0x20000 ∧
      (((matrix0.team 0).tile 0).any fun p => !(matrix0.core 0).kindNow p) = true ∧ (matrix0.core 0).arr = [] ∧ matrix0.me.tstat = none ∧ matrix0.begun.matOpen 0 = [] ∧
      (drainOver matrix0.begun.me []).isSome = true ∧ matrix0.begun.me.wcb = []) ∧
    (Meets matrix0 (fun g => matrixPre g [dst (.s 10), src (.s 9)] (roleMatrix g) (isS (.s 10) && !isVec g (.s 9)) 0) ∧
      scalarRead matrix0.begun (.s 9) = .ok (matrix0.begun, 7#32)) ∧
    (Meets matrix0 (fun g => matrixPre g [src (.s 9)] (roleMatrix g) (!isVec g (.s 9)) 0) ∧ True) ∧
    (Meets matrix0 (fun g => matrixPre g [] (roleMatrix g) true 0) ∧ famInt 3 = false ∧ famScaled 3 = false) ∧
    (Meets matrix0 (fun g => matrixPre g [srcN (.s 4) 2, src (.s 3)] (roleFill g) (!isV (.s 4) && !isVec g (.s 3)) 2) ∧
      scalarRead matrix0.begun (.s 3) = .ok (matrix0.begun, 128#32)) ∧
    (Meets matrix0 (fun g => matrixPre g [srcN (.s 4) 2, src (.s 3)] (roleFill g) (!isV (.s 4)) 2) ∧ True) ∧
    (Meets matrix0 (fun g => matrixPre g [dstN (.v 60) 4, src (.s 9)] (roleTmv g) (isV (.v 60) && !isVec g (.s 9)) 0) ∧ True) ∧
    (Meets matrix0 (fun g => matrixPre g [src (.s 9), srcN (.v 60) 4] (roleTmv g) (isV (.v 60) && !isVec g (.s 9)) 0) ∧ True) :=
  ⟨by decide +kernel, meets (by decide +kernel) rfl, meets (by decide +kernel) trivial, meets (by decide +kernel) (by decide +kernel),
    meets (by decide +kernel) rfl, meets (by decide +kernel) trivial, meets (by decide +kernel) trivial,
    meets (by decide +kernel) trivial⟩

/-- A product of family 4 (integers) that waits alone in the queue of core 0, and a fill. -/
def arrayOf (k : ArrKind) : State := matrix0.setCore 0 { matrix0.core 0 with arr := [⟨0, 1, 0, k, 0#64⟩] }

theorem witness_ArrayEntries :
    ((arrayOf (.mma 4 false false false true 0 0 1)).entryReady 0 0 = true ∧ famInt 4 = true ∧
      (((arrayOf (.mma 4 false false false true 0 0 1)).core 0).tile 0).poison = false ∧
      ((arrayOf (.mma 4 false false false true 0 0 1)).core 0).arrErr = []) ∧
    (let s := arrayOf (.tlds 0 3 0x30000);
      s.entryReady 0 0 = true ∧ (s.group 0).mayRedo 1 = true ∧ ((s.core 0).units (.tlds 0 3 0x30000)).1 = [0] ∧
      ((ArrKind.tlds 0 3 0x30000).rows.1.all fun a => !s.lineBusy 0 0 a (ArrKind.tlds 0 3 0x30000).rows.2) = true ∧
      (s.readRows (s.group 0) (ArrKind.tlds 0 3 0x30000).rows.2 (ArrKind.tlds 0 3 0x30000).rows.1).toBool = false) ∧
    (0x20000 % 128 = 0 ∧ ((matrix0.core 0).tile 0).poison = false ∧ (matrix0.core 0).arrErr = []) ∧
    (arrayOf (.tmvi 0 127 [])).entryReady 0 0 = true ∧ (arrayOf (.tscale 0 none)).entryReady 0 0 = true := by decide +kernel

/-- A record of four n8 elements at 0x20000, and the words of its body. -/
def body4 : Bytes := leBytes 4 12 ++ leBytes 4 7 ++ leBytes 8 0 ++ leBytes 4 4 ++ leBytes 4 1
/-- The handle of entry 1, generation 1, of the team. -/
@[irreducible] def handle1 : Word := BitVec.ofNat 32 (base.handleOf 0 1 1)

/-- mem0 with the body at 0x20000, entry 1 of the record table, and a CPYF of it in s8 to s13. -/
def records : State :=
  let s := mem0.setMe { mem0.me with s := [(4, 0x20000#32), (8, handle1)] }
  let s := s.setL2 (lineKey 0 0x400) (Line.ofBytes body4 ⟨true, true, false, false⟩ 0 false)
  s.setTeam 0 { s.team 0 with recs := [(1, ⟨true, 1, body4, 0x20000⟩)] }

theorem handle_valid (s : State) (g : Group) (h : (s.team g.team).launch = (base.team 0).launch)
    (hr : s.recEntry g.team 1 = ⟨true, 1, body4, 0x20000⟩) : s.checkHandle g handle1 = .ok 1 := by
  have e : s.handleOf g.team 1 1 = base.handleOf 0 1 1 := by simp only [State.handleOf, h]
  have n : handle1.toNat = base.handleOf 0 1 1 := by
    unfold handle1
    simp only [BitVec.toNat_ofNat, State.handleOf]
    split <;> omega
  have m : base.handleOf 0 1 1 % 64 = 1 := by
    simp only [State.handleOf]; split <;> omega
  simp only [State.checkHandle, n, m, hr, e, and_self, if_true]

theorem records_handle : records.begun.checkHandle records.begun.me handle1 = .ok 1 :=
  handle_valid _ _ (by decide +kernel) (by decide +kernel)

theorem witness_Copies_record :
    (records.leavePlace = records ∧ records.begun.me.outstanding .mem < 4095) ∧
    (let s := records;
      Meets s (fun g => copyPre g [dst (.s 9), srcN (.s 4) 2, srcN (.s 4) 2] true (isS (.s 9))) ∧
      isOk (copyFaults s.begun.me) = true ∧ isOk (gateAccess s.begun.me) = true ∧
      isOk (s.begun.checkAddrs s.begun.me false false 1 8 [(0, 0x20000)]) = true ∧
      (s.begun.setMe s.begun.me.drain).me.ownWrites 0x20000 144 = false ∧
      (s.begun.setMe s.begun.me.drain).ownPending 0x20000 144 = false ∧
      (s.begun.setMe s.begun.me.drain).lineBusy 0 0 0x20000 144 = false ∧
      isOk ((s.begun.setMe s.begun.me.drain).bodyRead 0x20000 16) = true ∧ bodyLength 12 = 24 ∧
      isOk (s.begun.bodyRead 0x20010 8) = true ∧ bodyFault body4 = none ∧
      isOk (s.checkRecord s.begun.me (layoutOf body4 0x20000)) = true ∧ s.freeRecs 0 ≠ []) ∧
    (Meets records (fun g => copyPre g [src (.s 8)] true true) ∧
      readSource records.begun records.begun [0] (.s 8) = .ok (records.begun, [handle1]) ∧
      records.begun.checkHandle records.begun.me handle1 = .ok 1) :=
  ⟨⟨rfl, by decide +kernel⟩, meets (by decide +kernel) (by decide +kernel), meets (by decide +kernel) ⟨rfl, records_handle⟩⟩

/-- A fill by entry 1, its words in s8 to s13. -/
theorem witness_Copies_transfer :
    Meets records (fun g => copyPre g [dstN .zero 1, srcN (.s 8) 4, srcN (.s 12) 2] (decide (g.role = 0 ∨ g.role = 1)) (isReg .zero || isZero .zero)) ∧
      Names records.begun records.begun.me handle1 true [1] ∧ Names records.begun records.begun.me 0#32 false [] ∧
      wordsOk 8 0 0 0 false = true ∧ isOk (records.begun.checkRecord records.begun.me (layoutOf body4 0x20000)) = true ∧
      isOk (shapeChecks 8 false (layoutOf body4 0x20000) (layoutOf body4 0x20000) (layoutOf [] 0)) = true ∧
      (records.core 0).shuttle.length < 32 ∧ records.begun.me.outstanding .copy < 4095 :=
  meets (by decide +kernel) ⟨⟨1, records_handle, rfl⟩, rfl, by decide +kernel⟩

/-- A transfer of fn 8 that moves alone; the same moved. -/
def transfer1 (moved : Bool) : Transfer where
  g := 0
  seq := 1
  team := 0
  pc := 0#64
  fn := 8
  dstRec := ⟨true, 1, body4, 0x20000⟩
  srcRec := ⟨true, 1, body4, 0x20000⟩
  idxRec := RecEntry.init
  handles := [1]
  word1 := 0#32
  word2 := 0#32
  mode := 0
  slot := none
  after := []
  started := moved
  paused := false
  passed := none
  given := []
  pos := 0
  moved := moved
  fault := none
  status := 0
  refused := 0
  oob := 0
  poisonVa := none
  entry := none
  buf := []
  teams := []
  lines := []
  dst := .none
  lanes := [0]
  ring := none
  setFull := false
  first := false
  last := false
  reply := none
  tag := none

theorem witness_Copies_steps :
    (let s := records.setCore 0 { records.core 0 with shuttle := [transfer1 false] }; s.mayMove 0 0 = true) ∧
    (let s := records.setCore 0 { records.core 0 with shuttle := [transfer1 true] };
      s.mayComplete 0 0 = true ∧ (transfer1 true).failure = none ∧ (s.group 0).sched = .active ∧
      (s.writeDst 0 .none [0] [BitVec.ofNat 32 (transfer1 true).word]).isSome = true) ∧
    (let t := { transfer1 true with slot := some 0, ring := some (0, 5), fn := 5, last := true, reply := some 7#32 };
      let s := records.setCore 0 { records.core 0 with shuttle := [t] };
      s.mayComplete 0 0 = true ∧ s.chainOpen t = false ∧
      (s.writeDst 0 .none [0] (s.transferWords t).2).isSome = true) ∧
    (let t := { transfer1 true with fn := 6, teams := [0] };
      let s := records.setCore 0 { records.core 0 with shuttle := [t] };
      t.moved = true ∧ t.teams.contains 0 = true ∧ (s.team (s.clusterTeam (s.group 0) 0)).done = false ∧
      (t.linesOf (t.buf.drop 0)).any (fun l => s.lineChanging 0 l) = false ∧ s.scratchDead 0 0 0 = false) ∧
    (let s := records.setTeam 0 { records.team 0 with done := true }; (s.team 0).done = true) ∧
    (let t := { transfer1 true with fn := 5, last := true }; let s := records.setGroup 0 { records.group 0 with crcAt := 2 };
      t.last = true ∧ t.moved = true ∧ t.reply = none ∧ (s.group 0).crcAt = 2) ∧
    ({ transfer1 false with fault := some (8, 1, 0x20000) }.fault = some (8, 1, 0x20000) ∧
      ¬((records.group 0).sched = .done ∨ (records.group 0).sched = .killed)) := by decide +kernel

/-- Every form of CHBIND's control word that makes a queue or joins one; a channel bound and unbound; a push of class 0. -/
theorem witness_Channels :
    (let s := demo.setMe { demo.me with s := [(3, 0x50#32), (4, 8#32)] };
      Meets s (fun g => chanPre g [dstN (.s 8) 2, srcN .zero 2, src (.s 3)] (!isV (.s 8) && (isS .zero || isZero .zero) && !isVec g (.s 3))) ∧
      scalarRead s.begun (.s 3) = .ok (s.begun, 0x50#32) ∧ scalarRead s.begun (.s 4) = .ok (s.begun, 8#32)) ∧
    (Meets (queued 1) (fun g => chanPre g [] true) ∧ ((queued 1).me.chans.read none 0).isSome = true ∧
      ((queued 1).me.chans.read none 7) = none) ∧
    (Meets (queued 0) (fun g => { chanPre g [dst (.chan 0), src (.v 1)] true with
        vec := execVec g (.chan 0) [.v 1], privOk := decide ((0#2 : BitVec 2) ≠ 3#2) || g.priv }) ∧
      isOk ((queued 0).push 0 (List.replicate 32 1#32) 0) = true) ∧
    (Meets demo (fun g => chanPre g [dstN (.s 8) 2, src (.s 3)] (!isV (.s 8) && !isVec g (.s 3))) ∧
      scalarRead demo.begun (.s 3) = .ok (demo.begun, 5#32)) ∧
    ((List.range 64).filter (fun q => !demo.queueBusy 0 q) ≠ [] ∧ demo.queueSpace 0 5 ≠ []) ∧
    (let s := queued 0; let id := s.qidOf 0 0 1; s.qidHere id = true ∧ s.diePath 0 (qidCore id / 96) = true ∧ bitOf id 15 = false ∧
      id < 2 ^ 48 ∧ s.qidLive id = true ∧ (s.queue 0 0).asid = s.me.asid) :=
  ⟨meets (by decide +kernel) ⟨rfl, rfl⟩, meets (by decide +kernel) (by decide +kernel), meets (by decide +kernel) (by decide +kernel),
    meets (by decide +kernel) rfl, by decide +kernel, by decide +kernel⟩

/-- A push on its way to core 96: its queue dead, live with just the room, full; a bundle that waits for a queue's entry. -/
def pushing (n : Nat) : State :=
  let q : Queue := ⟨true, 1, 0, 0, 5, 15, 0, (List.range n).map fun _ => (1#32, false), [], 0⟩
  let s := demo.setQueue 1 0 q
  s.setMe { s.me with ops := [Op.base 1 .msg (.push (s.qidOf 1 0 1) (List.replicate 32 1#32) 0) 0#64] }

theorem witness_Channels_steps :
    (let s := pushing 0; let id := s.qidOf 1 0 1; s.qidHere id = true ∧ s.qidLive id = true ∧ (s.queue 1 0).entries.length + 32 ≤ 2 ^ (s.queue 1 0).logcap ∧
      s.diePath 0 (qidCore id / 96) = true ∧ (s.group 0).pushBefore 1 id = false ∧ s.reserved id = 0 ∧ ((s.group 0).op 1).isSome = true) ∧
    (let s := pushing 1; 2 ^ (s.queue 1 0).logcap < (s.queue 1 0).entries.length + 32) ∧
    (let s := pushing 0; let s := s.setGroup 0 { s.group 0 with ops := (s.group 0).ops.map fun o =>
        { o with accs := [⟨0, s.qidOf 1 0 1, .held, [], [], [], []⟩] } };
      (((s.group 0).op 1).any fun o => (o.accs.any fun a => decide (a.st = .held)) && decide (o.cls = .msg)) = true) ∧
    (demo.qidHere (2 ^ 48) = false ∧ (demo.peerLive (qidDev (2 ^ 48))).2 = false) ∧
    (let s := (queued 1).setQueue 0 0 { (queued 1).queue 0 0 with waiters := [0] };
      (s.cores.any fun c => decide (c.1 = 0) && c.2.queues.any fun q => decide (q.1 = 0) && decide (q.2.waiters.head? = some 0) && !q.2.entries.isEmpty) = true) := by
  decide +kernel

-- Witnesses: tasks, groups, traps ---------------------------------------------------------------------------------------------

/-- A launch record of one cluster of one team of one group with 8 registers; `v` is its version byte. -/
def record1 (v : Nat) : Bytes := leBytes 8 v ++ zeros 8 ++ leBytes 8 1 ++ zeros 376

/-- mem0 with these bytes at 0x20000, in the L2. -/
def placed (bs : Bytes) : State :=
  (List.range 4).foldl (fun s i => s.setL2 (lineKey 0 (0x400 + i))
    (Line.ofBytes ((bs.drop (128 * i)).take 128) ⟨true, true, false, false⟩ 0 false)) mem0

/-- A record that may be launched, and one whose version is 2; a device whose task table is full but for entry 255. -/
theorem witness_WorkInstructions_launch :
    (Meets (placed (record1 1)) (fun g => workPre g [dst (.s 9), srcN (.s 4) 2] (isS (.s 9) && !isV (.s 4)) g.priv) ∧
      (let s := placed (record1 1); s.leavePlace = s) ∧
      (let s := placed (record1 1); let u := s.begun.setMe s.begun.me.drain;
        s.begun.me.outstanding .mem < 4095 ∧
        isOk (gateAccess s.begun.me) = true ∧ isOk (s.begun.checkAddrs s.begun.me false false 1 64 [(0, 0x20000)]) = true ∧
        u.me.ownWrites 0x20000 400 = false ∧ u.ownPending 0x20000 400 = false ∧
        u.lineBusy 0 0 0x20000 400 = false ∧ (u.bodyRead 0x20000 400).toOption.map (·.2) = some (record1 1))) ∧
    recordFault (record1 1) = none ∧ recordFault (record1 2) = some 1 ∧
    ((base.setPhase 4).phase = 4 ∧ base.phase ≠ 4 ∧ bitOf (base.sysv 0x703) 3 = false ∧
      bitOf ((base.setSys 0x703 8).sysv 0x703) 3 = true ∧
      (let s := { base with tasks := (List.range 255).map fun i => (i, { Task.init with state := .active }) };
        (s.task 255).state = .free ∧ ∀ j < 255, (s.task j).state ≠ .free)) :=
  ⟨meets (by decide +kernel) ⟨rfl, by decide +kernel⟩, by decide +kernel, by decide +kernel, by decide +kernel⟩

/-- s3 is the id of the running task (slot 0, generation 1), s4 priority 23, s9 a stale id. -/
def working : State := (grp fun g => { g with s := [(3, 256#32), (4, 23#32), (9, 512#32)] }).setTask 0
  { base.task 0 with record := { (base.task 0).record with prio := 23 } }

theorem witness_WorkInstructions_tasks :
    (Meets working (fun g => workPre g [dst (.s 8), src (.s 9)] ((isS (.s 8) || isZero (.s 8)) && !isVec g (.s 9)) g.priv) ∧
      scalarRead working.begun (.s 9) = .ok (working.begun, 512#32) ∧ working.me.twait = none ∧ working.begun.stale 512 = true ∧
      working.begun.stale 256 = false) ∧
    (let s := grp fun g => { g with twait := some (256, some 2) }; s.me.twait = some (256, some 2)) ∧
    (Meets working (fun g => workPre g [dstN (.s 8) 2, src (.s 3)] (!isV (.s 8) && !isVec g (.s 3)) g.priv) ∧ True) ∧
    (Meets working (fun g => workPre g [dst (.s 8), src (.s 4), src .zero] ((isS (.s 8) || isZero (.s 8)) && !isVec g (.s 4) && !isVec g .zero)
        (isZero .zero || g.priv)) ∧
      scalarRead working.begun (.s 4) = .ok (working.begun, 23#32) ∧ (23#32 : Word).toNat ≤ 23 ∧ (23#32 : Word).toNat ≤ (working.task 0).record.prio) ∧
    (Meets working (fun g => workPre g [src (.s 3), src .zero] (!isVec g .zero) true) ∧
      isOk (working.begun.itemTeam working.begun.me .zero 0#32) = true ∧ (working.team 0).itemClosed = false ∧
      (working.team 0).items.length + 32 ≤ (working.team 0).itemCap) ∧
    (Meets working (fun g => workPre g [] true true) ∧ True) :=
  ⟨meets (by decide +kernel) ⟨rfl, by decide +kernel⟩, by decide +kernel, meets (by decide +kernel) trivial,
    meets (by decide +kernel) ⟨rfl, by decide +kernel⟩, meets (by decide +kernel) (by decide +kernel), meets (by decide +kernel) trivial⟩

/-- GKILL of group 0, of every group, of a group beyond the grid; BANKCFG of bank 0 to pool, of a bank with a live queue, of
every cache bank. -/
theorem witness_WorkInstructions_kills :
    (Meets working (fun g => workPre g [dst (.s 8), src (.s 3), src (.s 4)] ((isS (.s 8) || isZero (.s 8)) && !isVec g (.s 3) && !isVec g (.s 4)) g.priv) ∧
      scalarRead working.begun (.s 3) = .ok (working.begun, 256#32) ∧ working.stale 512 = true ∧ working.stale 256 = false ∧
      (working.task 0).state = .active ∧ (working.task 0).record.groups = 1 ∧ (working.group 0).ended = false) ∧
    (Meets working (fun g => { controlPre g [dst (.s 8), src (.s 3), src (.s 4)] with
        operandOk := isS (.s 8) && !isVec g (.s 3) && !isVec g (.s 4), privOk := g.priv, inRegion := false }) ∧
      (working.core 0).change = none ∧ ((working.core 0).banksIn 0).filter (fun j => !([0].contains j)) ≠ [] ∧
      (working.core 0).bankMode 0 ≠ 1) ∧
    (let c := (queued 0).core 0; c.queues.any (fun q => q.2.live && decide (q.2.bank = 15)) = true ∧ c.bankMode 15 = 2) :=
  ⟨meets (by decide +kernel) ⟨rfl, by decide +kernel⟩, meets (by decide +kernel) (by decide +kernel), by decide +kernel⟩

/-- base with a second group of the same team, fresh and not yet ACTIVE. -/
def waitingGroup : State :=
  base.setGroup 1 { base.group 0 with gidx := 1, groupid := 1, sched := .inactive, fresh := true, since := 9 }

theorem witness_Scheduling_groups :
    (waitingGroup.nextActivation 0 = some 1 ∧ waitingGroup.teamCore 1 = 0 ∧ (waitingGroup.restoreTeam 0).isSome = true ∧
      (waitingGroup.group 1).frameRetry ≠ 4 ∧ (waitingGroup.group 1).fresh = true) ∧
    (0 ∈ waitingGroup.removable 0 ∧ (∃ w ∈ waitingGroup.waitersOn 0, waitingGroup.prioOf 0 ≤ waitingGroup.prioOf w)) ∧
    (let s := waitingGroup.setGroup 0 { waitingGroup.group 0 with blocked := true };
      0 ∈ s.removable 0 ∧ (s.group 0).blocked = true ∧ s.waitersOn 0 ≠ []) ∧
    (let s := grp fun g => { g with nopre := true }; (s.group 0).nopre = true) ∧
    (let s := grp fun g => { g with overrun := true }; (s.group 0).nopre = false ∧ (s.group 0).overrun = true ∧ (s.group 0).sched = .active) ∧
    (let s := grp fun g => { g with stall := [(0, 1023), (31, 1024)] };
      ((s.group 0).run.any fun r => !r.closed) = false ∧ (s.group 0).isLive 31 = true ∧ 1024 ≤ (s.group 0).stall.read 0 31 ∧
      ∀ j < 31, (s.group 0).isLive j = true → (s.group 0).stall.read 0 j < 1024) ∧
    (let s := grp fun g => { g with lanes := List.replicate 32 ⟨0x10000#64, 0#64, .exited⟩ };
      (s.group 0).sched = .active ∧ s.frameBusy 0 = false ∧ (∀ l < 32, (s.group 0).isLive l = false ∧ (s.group 0).isParked l = false) ∧
      (let h := (((s.setGroup 0 (s.group 0).drain).settle 0).group 0);
        h.sfq = [] ∧ isOk (faultedOps h) = true ∧ isOk (noImprecise h .mat) = true ∧ h.ops = [] ∧ h.wcb = [] ∧ h.parts = [] ∧ h.rels = [])) := by
  decide +kernel

/-- 64 groups on a core, the last of lower priority than one that waits. -/
theorem witness_Scheduling_priority :
    (let s := (List.range 64).foldl (fun s i => s.setGroup i { base.group 0 with gidx := i, since := i }) base;
      let s := (s.setTask 1 { base.task 0 with prio := 5 }).setTeam 1 (base.team 0);
      let s := s.setGroup 64 { base.group 0 with gidx := 64, task := 1, taskId := 257, sched := .inactive, fresh := true, team := 1 };
      64 ≤ (s.slotsOn 0).length ∧ (∃ w ∈ s.waitersOn 0, s.prioOf 63 < s.prioOf w) ∧
      minBy (fun k => s.prioOf k * 2 ^ 64 + (2 ^ 64 - 1 - (s.group k).since)) (s.removable 0) = some 63) := by decide +kernel

/-- A task whose predecessor has gone; a task of one cluster that waits for a rectangle; a cluster that leaves; a task that
completes into 0x20000. -/
def completing : State := (placed []).setTask 0 { base.task 0 with
  state := .completing, record := { (base.task 0).record with done := 0x20000 } }

theorem witness_Scheduling_tasks :
    (let s := base.setTask 1 { base.task 0 with state := .waiting, preds := [0x300] };
      (s.task 1).state = .waiting ∧ ∀ i ∈ (s.task 1).preds, s.idLive i = false) ∧
    (let s := base.setTask 1 { base.task 0 with placedN := 0 };
      s.nextPlacement = some (clusterKey 1 0) ∧ (s.rectFor (clusterKey 1 0)).isSome = true) ∧
    (let s := base.setCluster 0 { base.cluster 0 with leaving := 2 }; s.outDue 0 = true) ∧
    (base.cluster 0).placed = true ∧
    ((completing.task 0).state = .completing ∧ completing.taskQuiet 0 = true ∧
      isOk (completing.vwrite (some 0) 0 0x20000 (zeros 8) true) = true) := by decide +kernel

/-- A sleeping group, which has slept for longer than 4,096 issues; a faulted frame that may be raised again. -/
theorem witness_Sleeping :
    (let s := waitingGroup.setGroup 0 { waitingGroup.group 0 with sleep := 9000, sleepCount := 4097 };
      0 ∈ s.removable 0 ∧ (s.group 0).sleep ≠ 0 ∧ 4096 < (s.group 0).sleepCount ∧ s.waitersOn 0 ≠ []) := by decide +kernel

/-- A trap that the group's own handler takes, one that it does not; a frame that can be written, through a
handover entry, and one that nothing maps. -/
theorem witness_TrapEntry :
    (let s := grp fun g => { g with trapMask := 0xFFFFFFFFFFFFFFFF#64 };
      s.me.localTrap (Trap.precise 0x11 (some 5)) = true ∧ s.me.bundle ≠ [] ∧ s.me.run = none) ∧
    (demo.me.localTrap (Trap.precise 0x11 (some 5)) = false) ∧
    (let s := { base with sys := [(0x700, 0x200030003#64), (0x7C1, 0x1000000#64), (0x7C3, 7#64)] };
      isOk (s.writeFrame { s.me.suspend with sched := .held, nreg := 8, absent := List.range 8 }) = true) ∧
    isOk (base.writeFrame { base.me.suspend with sched := .held }) = false := by decide +kernel

theorem witness_TrapsTaken :
    (Meets demo (fun g => sysPre g [src (.s 3)] (!isVec g (.s 3)) true) ∧ scalarRead demo.begun (.s 3) = .ok (demo.begun, 5#32)) ∧
    (Meets demo (fun g => { sysPre g [] true true with inRegion := true }) ∧ bitOf (demo.sysv 0x600) 0 = false ∧
      bitOf ((demo.setSys 0x600 1).sysv 0x600) 0 = true) ∧
    (demo.me.sched = .active ∧ (decode 0#32).toBool = false) :=
  ⟨meets (by decide +kernel) rfl, meets (by decide +kernel) (by decide +kernel), by decide +kernel⟩

/-- A group in its handler: RETT with nothing to settle; FPOP to 0x20000; FRESUME. -/
def handling : State := mem0.setMe { mem0.me with inTrap := true, tmask := 0xFFFFFFFF#32 }

theorem witness_TrapReturns :
    (Meets handling (fun g => { sysPre g [src .zero] (!isVec g .zero) g.priv with
      bundleOk := decide (g.bundle = (lanesOf g.tmask).filter g.isLive) }) ∧ handling.begun.me.priv = true ∧
      handling.begun.me.inTrap = true ∧ handling.begun.me.rett = none ∧ flagsOk 0 = true ∧ handling.begun.me.tpc.toNat % 4 = 0 ∧
      ((handling.begun.rettSettle 0).me.rett.any fun r => (handling.begun.rettSettle 0).me.rettOver r.2.1 r.2.2) = true ∧
      plainOperand .zero = true ∧ handling.begun.me.ops = [] ∧ handling.begun.me.sfq = [] ∧ handling.begun.me.sfwait = []) ∧
    (handling.setMe { handling.me with tpc := 2#64 }).begun.me.tpc.toNat % 4 ≠ 0 ∧
    (let s := handling.setMe { handling.me with rett := some (true, [], []) };
      s.begun.me.rett = some (true, [], []) ∧ s.begun.me.rettOver [] [] = true) ∧
    (Meets mem0 (fun g => sysPre g [dst (.s 9), srcN (.s 4) 2, srcN .zero 2] (isS (.s 9) && !isV (.s 4) && !isV .zero) g.priv) ∧
      isOk (gateAccess mem0.begun.me) = true ∧ mem0.begun.requestRoom mem0.begun.me false = true ∧
      isOk (mem0.begun.checkAddrs mem0.begun.me false true 1 8 [(0, 0x20000)]) = true ∧ mem0.fqHead = mem0.fqTail ∧
      isOk (mem0.begun.storeBytes 0#64 0x20000 []) = true ∧ isOk (mem0.begun.writeResult (.s 9) [0] [0#32]) = true) ∧
    (mem0.stale 256 = false ∧ (mem0.task (idSlot 256)).record.groups = 1 ∧ mem0.stale 512 = true ∧
      (mem0.forceSys 0x222 1).fqHead ≠ (mem0.forceSys 0x222 1).fqTail) ∧
    (Meets mem0 (fun g => sysPre g [dst (.s 9), srcN (.s 4) 2, src .zero] ((isS (.s 9) || isZero (.s 9)) && !isV (.s 4) && !isVec g .zero) g.priv) ∧
      isOk (mem0.begun.releaseWait 2) = true) :=
  ⟨meets (by decide +kernel) (by decide +kernel), by decide +kernel, ⟨rfl, by decide +kernel⟩, meets (by decide +kernel) (by decide +kernel),
    by decide +kernel, meets (by decide +kernel) (by decide +kernel)⟩

/-- A record that waits, with and without room: a disabled queue, an empty one, one of 64 with 63 records; a register line
that the frame gives, and one whose frame nothing maps. -/
theorem witness_FaultQueue :
    (let s := { base with fqWait := [FaultRec.none] }; s.fqWait = FaultRec.none :: []) ∧ base.fqWait = [] ∧
    base.fqRoom = false ∧ (base.setSys 0x221 16).fqRoom = true ∧ (((base.setSys 0x221 16).forceSys 0x222 63).fqRoom = false) ∧
    (let s := ({ base with tlb := [⟨base.transHome 0, 0, 0, 0, 0xF#64⟩] }).setMe { base.me with absent := [1], missing := some 1 };
      (s.group 0).sched = .active ∧ (s.group 0).lineWanted = some 1 ∧ s.frameBusy 0 = false ∧ isOk (s.vread (some 0) 0 (s.frameBase (s.group 0) + 0x880) 128 true) = true) ∧
    (let s := base.setMe { base.me with sched := .held, frameRetry := 2, frameLate := some (5, 0x20000) };
      (s.group 0).frameWaits = true ∧ s.frameHeld 0 < 4) ∧
    isOk (base.vread (some 0) 0 (base.frameBase base.me + 0x880) 128 true) = false := by decide +kernel

/-- MFSR and MTSR of 0x7FF, and of 0x800, from scalar registers. -/
theorem witness_SystemRegisters :
    (let s := grp fun g => { g with s := [(3, 0x7FF#32), (4, 0x800#32)] };
      Meets s (fun g => { sysPre g [dstN (.s 8) 2, src (.s 3)] (!isVec g (.s 3)) true with privOk := g.priv || false }) ∧
      scalarRead s.begun (.s 3) = .ok (s.begun, 0x7FF#32) ∧ scalarRead s.begun (.s 4) = .ok (s.begun, 0x800#32) ∧
      s.begun.me.priv = true ∧ plainOperand (.s 3) = true ∧ (s.begun.me.scalar (.s 3)).toNat < 0x800) ∧
    (Meets demo (fun g => sysPre g [src (.s 3), srcN .zero 2] (!isVec g (.s 3) && !isV .zero) g.priv) ∧
      scalarRead demo.begun (.s 3) = .ok (demo.begun, 5#32)) :=
  ⟨meets (by decide +kernel) ⟨rfl, rfl, rfl, rfl, by decide +kernel⟩, meets (by decide +kernel) rfl⟩

-- Witnesses: memory maintenance, networks, the device --------------------------------------------------------------------------

/-- s3 is a channel and a page, s4 a count, s2 the most pages of one MSCRUB, s6 an address; tables map 0x20000 to itself. -/
def maint : State :=
  let s := grp fun g => { g with s := [(2, 4096#32), (3, 5#32), (4, 1#32), (6, 0x20000#32), (8, 0x30000#32), (9, 0x100#32)] }
  let s := s.initPage 0
  { s with mem := [(0, 1#8), (1, 0x10#8), (0x1000, 1#8), (0x1001, 0x20#8), (0x2000, 1#8), (0x2001, 0x30#8), (0x3000, 1#8),
    (0x3001, 0x40#8), (0x4010, 3#8), (0x4012, 2#8)] ++ s.mem }

/-- MSCRUB of 4,096 pages from page 5; MREPAIR of a channel in use, and of one whose repair has ended for this group; MREBUILD and
MDROP; MPLACE of a page that tables map; MINJECT with and without its feature; MSTAT. -/
theorem witness_MaintInstructions :
    (Meets maint (fun g => maintPre g [dst (.s 10), src (.s 3), src (.s 2)] ((isS (.s 10) || isZero (.s 10)) && !isVec g (.s 3) && !isVec g (.s 2))) ∧
      scalarRead maint.begun (.s 3) = .ok (maint.begun, 5#32) ∧ scalarRead maint.begun (.s 2) = .ok (maint.begun, 4096#32) ∧
      5 + 4096 ≤ Config.lastPage + 1 ∧ (maint.chan 5).owner ≠ 1 ∧ (∀ i < 32, (maint.chan i).st ≠ .repair)) ∧
    (let s := maint.setChan 5 { maint.chan 5 with owner := 1, ended := some true }; (s.chan 5).owner = s.cur + 1 ∧ (s.chan 5).ended = some true) ∧
    (let s := maint.setChan 5 { maint.chan 5 with st := .dropped };
      (s.chan 5).st = .dropped ∧ s.res.rebuild.queue.contains 5 = false ∧ s.res.rebuild.cur ≠ some 5 ∧ (s.chan 5).st.takes = false) ∧
    (Meets maint (fun g => maintPre g [dst (.s 10), src (.s 3), src .zero] ((isS (.s 10) || isZero (.s 10)) && !isVec g (.s 3) && !isVec g .zero)) ∧
      (maint.chan 5).st ≠ .dropped ∧ (maint.chan 5).st ≠ .retired) ∧
    (Meets maint (fun g => maintPre g [dst (.s 10), srcN (.s 6) 2, srcN (.s 8) 2] ((isS (.s 10) || isZero (.s 10)) && !isV (.s 6) && !isV (.s 8))) ∧
      maint.res.retiring = none ∧ maint.readPhys8 (maint.sysv 0x300) = some 0x1001 ∧ bitOf 0x1001 0 = true ∧ bitsOf 0x1001 1 11 = 0 ∧
      bitsOf 0x1001 41 23 = 0 ∧ maint.leafAt 0x20000 4 0x1000 = some (0x4010, 0x20003)) ∧
    (Meets maint (fun g => maintPre g [dst (.s 10), srcN (.s 6) 2, srcN (.s 9) 1] ((isS (.s 10) || isZero (.s 10)) && !isV (.s 6) && !isVec g (.s 9))) ∧
      bitOf (maint.sysv 0x400) 2 = false ∧ bitOf ((maint.setSys 0x400 4).sysv 0x400) 2 = true ∧ bitsOf 0x100 8 2 = 1) ∧
    (Meets maint (fun g => maintPre g [dstN (.s 10) 2, src (.s 3)] (!isV (.s 10) && !isVec g (.s 3))) ∧
      (maint.mstatWord 0 383).isSome = true ∧ (maint.mstatWord 0 384) = none) :=
  ⟨meets (by decide +kernel) ⟨rfl, rfl, by decide +kernel⟩, by decide +kernel, by decide +kernel,
    meets (by decide +kernel) (by decide +kernel), meets (by decide +kernel) (by decide +kernel),
    meets (by decide +kernel) (by decide +kernel), meets (by decide +kernel) (by decide +kernel)⟩

/-- Nine uncorrectable slots beyond a limit of 0; a slice that prepares, with every requester's marker; patrol scrubs on; a channel
under repair; a dirty block; the rebuild engine between channels, between pages, inside a page and at its end. -/
theorem witness_ResilientMemory :
    (let s := (base.setSys 0x400 0).setChan 383 { base.chan 383 with uncorr := [1] };
      bitsOf (s.sysv 0x400) 3 8 < (s.chan 383).uncorr.length ∧ (s.chan 383).st ≠ .dropped ∧ (s.chan 383).st ≠ .retired) ∧
    (let s := { base with res := { base.res with retiring := some 3 } }; s.res.retiring = some 3 ∧ 580 ∉ s.res.markers) ∧
    (let s := { base with res := { base.res with retiring := some 3, markers := List.range 581 } };
      requesters ≤ s.res.markers.length) ∧
    bitOf ((base.setSys 0x401 1).sysv 0x401) 0 = true ∧
    (let c : Charge := ⟨3903, 5, 9, 1, 0⟩; let s := { base with res := { base.res with charges := [c] } };
      c.entry < 3904 ∧ s.res.charges.find? (fun x => decide (x.entry = c.entry)) = some c) ∧
    ((base.setChan 7 { base.chan 7 with st := .repair }).chan 7).st = .repair ∧
    (let s := cached.setL2 (lineKey 0 0x403) { cached.l2Line (lineKey 0 0x400) with dirty := true };
      ((List.range 4).any fun i => (s.l2Line (lineKey 0 0x403 / 4 * 4 + i)).dirty) = true) ∧
    (let s := loading.setGroup 0 ((loading.group 0).setOp 1 fun o => { o with accs := o.accs.map fun a => { a with st := .degraded 0x400 } });
      (((s.group 0).op 1).any fun o => o.accs.any fun a => decide (a.st = .degraded 0x400)) = true) ∧
    (let s := { base with res := { base.res with map := [(bucketOf 0x20000, 8)] } };
      let s := s.setGroup 0 ((loading.group 0).setOp 1 fun o => { o with accs := o.accs.map fun a => { a with st := .walk } });
      s.res.map.read 0 (bucketOf (128 * 0x400)) ≠ 0 ∧
      (((s.group 0).ops.find? fun o => o.seq = 1).any fun o => o.accs.any fun a => decide (a.addr / 128 = 0x400)) = true) ∧
    (let r := base.res.rebuild; let x := base.engine 2;
      r.paused = false ∧ r.cur = none ∧ x.page = none ∧ x.pass < 3 ∧
      (List.range 3).all (fun e => (base.setRebuild { r with queue := [9] }).mayCopy e &&
        (base.setRebuild { r with cur := some 9 }).mayCopy e) = true ∧
      (let s := (base.setRebuild { r with cur := some 9, engines := [0, 1, 2].map fun e =>
          (e, { x with page := some (4, 2, 1, 7), t := 127 }) }); (List.range 3).all s.mayCopy = true) ∧
      (let s := (base.setRebuild { r with cur := some 9, engines := [0, 1, 2].map fun e =>
          (e, { x with page := some (4, 2, 1, 7), t := 128 }) });
        (List.range 3).all s.mayCommit = true ∧ (List.range 3).any s.mayCopy = false) ∧
      (let s := base.setRebuild { r with queue := [9] }; s.res.rebuild.queue = 9 :: []) ∧
      (let s := (base.setRebuild { r with cur := some 9 }).setEngine 2 { x with page := some (4, 2, 1, 7), t := 127 };
        s.res.rebuild.cur = some 9 ∧ (s.engine 2).page = some (4, 2, 1, 7) ∧ (s.engine 2).t < 128) ∧
      (let s := base.setEngine 0 { x with page := some (4, 2, 1, 7), t := 128 }; 128 ≤ (s.engine 0).t) ∧
      (ppaRelocate (base.ppa 4) 2 1 7).isSome = true ∧ (base.setRebuild { r with paused := true }).res.rebuild.paused = true ∧
      ((base.setChan 9 { base.chan 9 with st := .dropped }).slotDue 0 9 2 0 ≠ none ∨
        (base.setChan 9 { base.chan 9 with st := .dropped }).slotDue 1 9 2 0 ≠ none ∨
        (base.setChan 9 { base.chan 9 with st := .dropped }).slotDue 2 9 2 0 ≠ none)) := by decide +kernel

/-- A flit as another port would send it, with its check and the first number. -/
def flit1 (idx : Nat) : Flit :=
  let f : Flit := ⟨1, true, true, idx, false, false, 0, 0, 0, 0, zeros 64, 0⟩
  { f with chk := flitCheck f }

theorem witness_Links :
    ((flit1 0).idx ≠ 15 ∧ (flit1 0).chk = flitCheck (flit1 0) ∧ (flit1 0).lseq = (base.port 3).expect % 256 ∧
      (portKind 3 = .mirmar → (flit1 0).frame = (base.port 3).expect / 8 % 65536)) ∧
    ({ flit1 0 with lseq := 1 }.lseq ≠ (base.port 3).expect % 256) ∧
    base.net.peerOut = [] ∧ (let s := base.setLink 3 { base.link 3 with st := 2 }; base.portUp 3 = false ∧ s.portUp 3 = true) ∧ ((flit1 15).idx = 15 ∧ (flit1 15).chk = flitCheck (flit1 15)) ∧
    (let s := base.setPort 3 { base.port 3 with replay := [([], flit1 0)], resend := [flit1 0] };
      (s.port 3).replay ≠ [] ∧ (s.port 3).resend = flit1 0 :: []) ∧ (base.port 3).resend = [] ∧ (base.port 3).out = [] ∧
    (let s := base.setLink 17 { base.link 17 with st := 2 }; (s.link 17).st = 2 ∧ 0x0F % 16 = 15 ∧ 0xF7 % 16 ≠ 15 ∧ 0xF7 / 16 = 15 ∧ 0x77 / 16 ≠ 15) ∧
    (let s := base.setLink 17 { base.link 17 with st := 1, lanes := 0x0F }; (s.link 17).st = 1 ∧ (s.link 17).lanes ≠ 0) ∧
    (let s := base.setPort 1024 { base.port 1024 with retries := 1001 };
      portKind 1024 = .mesh ∧ 1000 < (s.port 1024).retries ∧ 1024 ∉ s.net.meshOut) ∧
    ((base.link 0).en = true ∧ (base.link 0).st = 0) := by decide +kernel

/-- A load that peer 9 sends to device 3, whose incoming window 0 names it, of address 0x20000; the same without a window. -/
def peerLoad : PeerReq := ⟨.load, 0, 40, 5, 3, 9, 0, 0x20000, 8, [], 0, 0, false⟩
def peered : State := (cached.setSys 0x502 3).forceSys 0x5C3 (7 + 9 * 2 ^ 32)
/-- The packet that answers it, kept until it is acknowledged; and a request of this device that waits for its answer. -/
def keptAnswer : OutPkt := ⟨0x02, 40, 7, 0, false, 5, 9, 3, 0x20000, 0, 0, [0#8], zeros 8, 1, 255, false⟩

theorem witness_PeerSteps :
    base.admits peerLoad = false ∧ peered.admits peerLoad = true ∧ isOk (peered.vread none 0 0x20000 8 true) = true ∧
    isOk (peered.vread none 0 0x50000 8 true) = false ∧
    (let q := { peerLoad with kind := .store, data := zeros 8 };
      peered.admits q = true ∧ (peered.peerPass q).2 = true ∧ peerStores q.kind = true ∧
      (peered.peerPass { q with va := 0x50000 }).2 = false ∧ peered.peerHeld q = false) ∧
    (let q := { peerLoad with kind := .copyWrite, data := zeros 8, chain := 5 };
      peered.admits q = true ∧ bitOf q.chain 2 = true ∧ (peered.foldChain q).isSome = true ∧
      (peered.foldChain { q with chain := 4 }) = none ∧ (peered.peerPass q).2 = true) ∧
    (let s := (queued 0).setSys 0x502 3; let s := s.forceSys 0x5C3 (7 + 9 * 2 ^ 32);
      let q := { peerLoad with kind := .push, va := s.qidOf 0 0 1, data := zeros 128 };
      s.admits q = true ∧ s.qidHere q.va = true ∧ s.qidLive q.va = true ∧ s.peerHeld q = false ∧ s.reserved q.va = 0 ∧
      s.admits { q with kind := .query } = true ∧ s.peerHeld { q with kind := .query } = false ∧
      (s.queue (qidCore q.va) (qidIndex q.va)).asid = q.asid) ∧
    (peered.net.kept = [] ∧ peered.net.held = [] ∧ peered.peerHeld peerLoad = false ∧
      (let s := { peered with net := { peered.net with kept := [keptAnswer] } };
        (s.net.kept.filter fun p => decide (p.ddev = peerLoad.sdev ∧ p.dst = peerLoad.src ∧ p.tag = peerLoad.tag)) = [keptAnswer]) ∧
      (let s := { peered with batten := { peered.batten with
          slots := [(1, some ⟨1, 0, .opened, 0, [], 1, [], []⟩)], versions := [⟨1, lineKey 0 0x400, []⟩] } };
        let q := { peerLoad with kind := .store, data := zeros 8 };
        s.admits q = true ∧ s.peerHeld q = true)) ∧
    (let s := { peered with batten := { peered.batten with
        slots := [(1, some ⟨1, 0, .committing, 0, [], 1, [], [lineKey 0 0x400]⟩)], versions := [⟨1, lineKey 0 0x400, []⟩] } };
      s.peerHeld peerLoad = true) ∧
    (let s := { peered with net := { peered.net with held := [(peerLoad, none)] } };
      s.net.held.find? (fun e => !s.peerHeld e.1) = some (peerLoad, none)) ∧
    (let s := { peered with net := { peered.net with tags := [(keptAnswer, 0, 1)] } };
      s.net.tags.find? (fun e => decide (e.2 = (0, 1))) = some (keptAnswer, 0, 1) ∧ (s.peerLive 9).2 = false) ∧
    (let s := failedWrite.setGroup 0 { failedWrite.group 0 with parts := (failedWrite.group 0).parts.map fun p => { p with st := .ext false } };
      ((s.group 0).parts.find? (fun p => match p.st with
        | .ext false => true
        | _ => false)).isSome = true ∧ ((s.group 0).parts.all fun p => !p.kind.isCopy) = true) := by decide +kernel

/-- The first and the last window; an entry of the range that window 15 is to name. -/
theorem witness_TranslationWrites : 0 < 16 ∧ 15 < 16 ∧
    (ran (.hovCtlWrite 15 7) (cached.forceSys 0x7FD 0x40000)).tlb.length < cached.tlb.length := by decide +kernel

/-- A group in a debug stop, one that is none, one that is due in three ways; tests of cores and channels. -/
theorem witness_DebugAndTest :
    (let s := grp fun g => { g with dbgStop := true, sched := .held, hrec := some FaultRec.none };
      s.debugGroup 256 0 = some 0 ∧ (s.group 0).dbgStop = true ∧ (s.group 0).hrec.isSome = true) ∧
    (base.debugGroup 256 0 = some 0 ∧ (base.group 0).dbgStop = false ∧ (base.group 0).ended = false) ∧
    (let s := { base with groups := [] }; s.debugGroup 256 0 = some 0 ∧ (s.newGroup 0).ended = false ∧ (s.newGroup 0).dbgStop = false) ∧
    (let s := (base.setSys 0x600 1).setSys 0x610 0x10001;
      (s.group 0).sched = .active ∧ (s.group 0).dbg = false ∧ (s.group 0).dbgStep ≠ 4 ∧ s.breakpointDue 0 = true ∧ (s.group 0).inStep = false ∧
      ({ s.group 0 with run := some ⟨0#64, 1#32, 1, 0, [], [], false⟩, dbgStep := 1 } : Group).inStep = true) ∧
    (base.iftState ≠ 1 ∧ base.iftState ≠ 2 ∧ (base.chan 0).st ≠ .watch ∧
      ((base.setChan 383 { base.chan 383 with st := .watch }).chan 383).st = .watch) ∧
    (let s := base.setIft 1 false false; s.iftState = 1) ∧ (let s := base.setIft 2 false false; s.iftState = 2) := by decide +kernel

theorem witness_HostPort :
    (8 = 8 ∧ 0x8000 % 8 = 0 ∧ 0x8000 < 2 ^ 26 ∧ 0x8000 * 287 + 8 * 0x7FF < 2 ^ 26 ∧ ¬(4 = 8 ∧ 0 % 8 = 0 ∧ 0 < 2 ^ 26)) ∧
    (bar2Reaches 0 = true ∧ (base.linearByte 0).isSome = true ∧ bar2Reaches (2 ^ 40) = false) ∧
    (let s := ran (.startUp true) State.reset; s.mgmt.measured.isSome = true) := by decide +kernel

theorem witness_Resets : base.phase ≠ 0 ∧ State.reset.phase = 0 ∧ (∀ e ∈ base.l2, e.2.dirty = false) ∧ base.res.heldW = [] := by decide +kernel

theorem witness_DrainAndHealth :
    (∃ e ∈ base.tasks, e.2.state ≠ .free) ∧ (∀ e ∈ State.reset.tasks, e.2.state = .free) ∧
    (let s := (State.reset.forceSys 0x703 8).setPhase 2; s.phase = 2 ∧ bitOf (s.sysv 0x703) 3 = true) ∧
    (let s := { base with mgmt := { base.mgmt with log := [{ FaultRec.none with grade := 5 }] } };
      (∃ r ∈ s.mgmt.log, r.grade = 5) ∧ s.phase ≠ 4) := by decide +kernel

theorem witness_MemoryStaysCanonical : Memory.wf base.mem = true ∧ Memory.wf maint.mem = true := by decide +kernel

-- Tests on fixed values ---------------------------------------------------------------------------------------------------

/-- demo with s4 = `a` and s5 = `b`. -/
def withSS (a b : Word) : State := grp fun g => { g with v := demo.me.v, p := demo.me.p, h := demo.me.h, s := [(4, a), (5, b)] }
/-- s8 after an instruction with s4 = `a` and s5 = `b`. -/
def out (f : Operand → Operand → Operand → Instr) (a b : Word) : Word := (ran (f (.s 8) (.s 4) (.s 5)) (withSS a b)).me.sreg 8

/-- R102: sums are kept to 32 bits, a saturated sum stays at the end of its range. -/
theorem test_add : out (.add false) 0xFFFFFFFF 2 = 1#32 ∧ out (.addsat false) 0x7FFFFFFF 2 = 0x7FFFFFFF#32 ∧
    out (.addsatn false) 0xFFFFFFFF 2 = 0xFFFFFFFF#32 := by decide +kernel
/-- R103: a shift by 40 has no bit left, and an arithmetic one only the sign. -/
theorem test_shift : out (.shl false) 1 40 = 0#32 ∧ out (.sar false) 0x80000000 40 = 0xFFFFFFFF#32 ∧
    out (.ror false) 1 33 = 0x80000000#32 := by decide +kernel
/-- R104: the corners of division. -/
theorem test_div : out (.div false) 7 0 = 0xFFFFFFFF#32 ∧ out (.div false) 0x80000000 0xFFFFFFFF = 0x80000000#32 ∧
    out (.rem false) 7 0 = 7#32 ∧ out (.rem false) 0xFFFFFFF9 2 = 0xFFFFFFFF#32 ∧ out (.divn false) 0xFFFFFFF9 2 = 0x7FFFFFFC#32 := by
  decide +kernel
theorem test_min : out (.min false) 0xFFFFFFFF 1 = 0xFFFFFFFF#32 ∧ out (.minn false) 0xFFFFFFFF 1 = 1#32 ∧
    out (fun d a _ => .clz false d a) 0 0 = 32#32 ∧ out (fun d a _ => .brev false d a) 1 0 = 0x80000000#32 := by decide +kernel
/-- R105: the example that the specification gives of BMIX. -/
theorem test_bmix : out (.bmix false) 0x12349A78 0x0000E0E1 = 0xFFFFFF9A#32 := by decide +kernel
/-- R101, R110 to R112: SEL takes a where the predicate has a bit; BALLOT reads a predicate; a prefix sum without its own lane; a sum of all lanes. -/
theorem test_lanes : (let t := ran (.sel false (.v 4) (.v 1) (.v 2) 1) demo; (List.range 4).map (t.me.vreg 4) = [0#32, 3#32, 2#32, 3#32]) ∧
    (ran (.ballot false (.s 8) 1) demo).me.sreg 8 = 0x55555555#32 ∧
    (let t := ran (.psum false (.v 4) (.v 2)) demo; (List.range 3).map (t.me.vreg 4) = [0#32, 3#32, 6#32]) ∧
    (ran (.lred false (.s 8) (.v 1) 0) demo).me.sreg 8 = 496#32 := by decide +kernel
/-- R121: 1.0 + 1.0 and 2^-24 + 1.0, which ties to the even 1.0; R135: the reciprocal of +0. -/
theorem test_float : out (fun d a b => .fadd false d a b 0 0) 0x3F800000 0x3F800000 = 0x40000000#32 ∧
    out (fun d a b => .fadd false d a b 0 0) 0x33800000 0x3F800000 = 0x3F800000#32 ∧
    out (fun d a _ => .frcp false d a) 0 0 = 0x7F800000#32 ∧ out (fun d a _ => .fclass false d a) 0x80000000 0 = 8#32 := by decide +kernel
/-- R64: the even lanes go 8 words on and the odd lanes to the next word; R66: a call leaves the next address in every link. -/
theorem test_branch : ((ran (.brt 1 8) demo).me.lanes.take 2).map (·.pc) = [0x10020#64, 0x10004#64] ∧
    (ran (.call 4) demo).me.lanes.all (fun l => l.link == 0x10004#64 && l.pc == 0x10010#64) = true := by decide +kernel
/-- R79: h2 holds lanes 0 to 3; lanes outside it are released at once, and the check keeps h2. -/
theorem test_heddle : (ran (.hwait 2) demo).me.lanes.all (fun l => decide (l.st = .live) && l.pc == 0x10004#64) = true ∧
    (ran (.hwait 2) demo).me.heddle 2 = 0xF#32 := by decide +kernel

/-- The record of the group's trap: its cause, its word and its program counter. Nothing maps the frame here, so the
write-back waits and the record is kept for it (R385). -/
def recordOf (t : State) : Option (Nat × Nat × Nat) := t.me.trapWait.map fun r => (r.cause, r.word, r.pc)
/-- R378 and the example beside it: with NREG 24, v24 traps WINDOW; WB 0 + 24 lies past 16 and does so as well. -/
theorem test_window : (let s := grp fun g => { g with nreg := 24, s := [(3, 24#32)] };
    (recordOf (ran (.mov false (.v 24) (.s 3)) s), recordOf (ran (.wbadd .zero (.s 3)) s))) =
    (some (0x0E, 24, 0x10000), some (0x0E, 24, 0x10000)) := by decide +kernel
/-- R386, R171, R398: a system register write without privilege (cause 5), a load of a word at an odd address (6), and TRAP (0x11). -/
theorem test_traps : ((recordOf (ran (.mtsr (.s 4) (.s 6)) (grp fun g => { g with asid := 7, s := [(4, 0x100#32)] }))).map (·.1),
    (recordOf (ran (.ldl 15 (.v 4) (.s 4) 4 0 false false false) (withSS 0x20001 0))).map (·.1),
    (recordOf (ran (.trap (.s 4)) (withSS 77 0))).map fun r => (r.1, r.2.1)) = (some 5, some 6, some (0x11, 77)) := by decide +kernel
/-- R33, R193: of bytes 00 01 02 ... of the line, .b and .w read the low byte first; .bs of the byte 0x80 extends its sign. -/
theorem test_load : (let s := ran (.ldl 15 (.s 8) (.s 4) 4 0 false false false) cached; (ran (.loadCompletion 0 1) s).me.sreg 8) = 0x03020100#32 ∧
    (let l := Line.ofBytes (List.replicate 128 0x80#8) ⟨true, true, false, false⟩ 0 false; let c := mem0.core 0;
      let s := mem0.setCore 0 { c with l1 := c.l1.put (lineKey 0 0x400) l };
      let t := ran (.ldl 15 (.s 8) (.s 4) 1 0 false false false) s; (ran (.loadCompletion 0 1) t).me.sreg 8) = 0xFFFFFF80#32 := by
  decide +kernel
/-- R106, R108, R109: a carry into the high word; CMP.lt of the lane number with 5; R35: the immediate is signed. -/
theorem test_pairs : (let t := ran (.add64 (.s 8) (.s 4) (.s 6)) (grp fun g => { g with s := [(4, 0xFFFFFFFF#32), (6, 1#32)] });
      (t.me.sreg 8, t.me.sreg 9)) = (0#32, 1#32) ∧
    (ran (.cmp 3 (.v 1) (.s 3) 2) demo).me.preg 3 = 0x1F#32 ∧ (ran (.addi false (.s 8) (.s 3) 0x7FF) demo).me.sreg 8 = 4#32 ∧
    (ran (.pnot 3 1) demo).me.preg 3 = 0xAAAAAAAA#32 := by decide +kernel
/-- R394, R400: register 3 gives WB, NREG 512 and the frame's bytes, 2 x (2,048 + 512 x 128 rounded up to 4 KiB). -/
theorem test_mfsr : (let t := ran (.mfsr (.s 8) (.s 3)) (grp fun g => { g with s := [(3, 3#32)] }); (t.me.sreg 8, t.me.sreg 9)) =
    (BitVec.ofNat 32 (512 * 1024), 139264#32) := by decide +kernel
/-- R317, R326: SEND of a vector register pushes one word of every lane, in lane order. -/
theorem test_send : ((ran (.send (.v 1) 1 0) (queued 0)).queue 0 0).entries.map (·.1) = (List.range 32).map (BitVec.ofNat 32) := by
  decide +kernel
end Sys2Proof.Tests
end

section
/-! PROOFS. LOGIC and MULDIV (04_integer.md, R103 and R104): the fields of an F3 word, instructions of two and of three
plain sources as a whole, the computations as arithmetic, and the two obligations. -/
namespace Sys2Proof.Machine

-- The major and the function code of an F3 word -----------------------------------------------------------------------

theorem toNat_append_eq_mul_add {m n : Nat} (x : BitVec m) (y : BitVec n) :
    (x ++ y).toNat = 2 ^ n * x.toNat + y.toNat := by
  rw [BitVec.toNat_append, ← Nat.shiftLeft_add_eq_or_of_lt y.isLt, Nat.shiftLeft_eq, Nat.mul_comm]

theorem toNat_append_div {m n : Nat} (x : BitVec m) (y : BitVec n) : (x ++ y).toNat / 2 ^ n = x.toNat := by
  rw [toNat_append_eq_mul_add, Nat.mul_add_div (Nat.two_pow_pos n), Nat.div_eq_of_lt y.isLt, Nat.add_zero]

theorem toNat_append_mod {m n : Nat} (x : BitVec m) (y : BitVec n) : (x ++ y).toNat % 2 ^ n = y.toNat := by
  rw [toNat_append_eq_mul_add, Nat.mul_add_mod, Nat.mod_eq_of_lt y.isLt]

/-- The instruction has no word but one of major `major` and function code `fn` (R30). -/
def HasCode (major fn : Nat) (i : Instr) : Prop :=
  ∀ w : Word, encode i = [w] → w.toNat / 2 ^ 26 = major ∧ w.toNat % 16 = fn

/-- The fields of an F3 word stand in the order major, nw, d, a, b, fn. -/
theorem HasCode.of_fields {i : Instr} {major : BitVec 6} {fn : BitVec 4} {nw : Bool} {d a b : BitVec 7}
    (h : encode i = [major ++ BitVec.ofBool nw ++ d ++ a ++ b ++ fn]) : HasCode major.toNat fn.toNat i := by
  intro w hw
  obtain rfl : major ++ BitVec.ofBool nw ++ d ++ a ++ b ++ fn = w := List.singleton_injective (h.symm.trans hw)
  constructor
  · rw [show 2 ^ 26 = 2 ^ 4 * 2 ^ 7 * 2 ^ 7 * 2 ^ 7 * 2 ^ 1 from rfl]
    simp only [← Nat.div_div_eq_div_mul, toNat_append_div]
  · exact toNat_append_mod _ fn

-- Instructions of plain sources, whole --------------------------------------------------------------------------------

/-- An instruction that runs as the pipe instruction `r` on plain operands has its effect on this machine alone. -/
theorem PipeSpec.ends {r : PipeSpec} {i : Instr} {s : State} {f : Group → List Nat → List (List Word) → List Word}
    {val : Nat → Word} (hexec : exec i s = s.run fun s => s.pipe (r.pre s.me) r.nw r.d r.srcs f) (hi : s.issues)
    (hd : plainOperand r.d = true) (hsrcs : r.srcs.all plainOperand = true) (hsound : s.pipesSound)
    (hp : { r.pre s.begun.me with legal := (r.pre s.begun.me).legal && runLegal s.begun.me r.nw }.Passes s.begun)
    (hv : isV r.d = true → (r.pre s.begun.me).vec = true)
    (hf : ∀ lanes, f s.begun.me lanes (r.srcs.map fun o => lanes.map fun l => s.begun.me.wordAt o 0 l) = lanes.map val) :
    Ends i s s s.me r.d 1 fun _ => val := by
  obtain ⟨t, ht, hdel, hadv, hmasks, hregs, hme⟩ := PipeSpec.completes hi hp hd rfl
    (readSources_plain _ _ _ hsrcs) hsound hv (hf _)
  exact ⟨t, hexec.trans ht, hme.of_begun, hregs, hdel, hadv, hmasks⟩

/-- An instruction `op d, a, b` on plain operands ends with `f` of its sources in d. -/
theorem ends_of_alu2 {i : Instr} {s : State} {nw : Bool} {d a b : Operand} {f : Word → Word → Word}
    (hexec : exec i s = s.alu2 nw d a b f) (hi : s.issues) (hd : plainOperand d = true) (ha : plainOperand a = true)
    (hb : plainOperand b = true) (hsound : s.pipesSound)
    (hp : { Pre.plain s.begun.me 0 d [dst d, src a, src b] with legal := runLegal s.begun.me nw }.Passes s.begun) :
    Ends i s s s.me d 1 fun _ l => f (s.begun.me.wordAt a 0 l) (s.begun.me.wordAt b 0 l) :=
  PipeSpec.ends (r := spec2 nw d a b f) hexec hi hd (by simp [spec2, ha, hb]) hsound hp
    (fun h => execVec_of_isV h _) fun lanes => perLane_two f lanes _ _

/-- An instruction `op d, a, b` that reads d as a third source, on plain operands: that source is 0 with nw = 1 (R100). -/
theorem ends_of_alu3 {i : Instr} {s : State} {nw : Bool} {d a b : Operand} {f : Word → Word → Word → Word}
    (hexec : exec i s = s.alu3 nw d a b f) (hi : s.issues) (hd : plainOperand d = true) (ha : plainOperand a = true)
    (hb : plainOperand b = true) (hsound : s.pipesSound)
    (hp : { Pre.plain s.begun.me 0 d (uses3 nw d a b) with
      legal := runLegal s.begun.me nw, operandOk := nw || isReg d }.Passes s.begun) :
    Ends i s s s.me d 1 fun _ l => f (s.begun.me.wordAt a 0 l) (s.begun.me.wordAt b 0 l)
      (if nw then 0#32 else s.begun.me.wordAt d 0 l) := by
  have hthird : plainOperand (if nw then .zero else d) = true := by cases nw <;> [exact hd; rfl]
  have hread : ∀ l, s.begun.me.wordAt (if nw then .zero else d) 0 l = if nw then 0#32 else s.begun.me.wordAt d 0 l :=
    fun l => apply_ite (s.begun.me.wordAt · 0 l) _ _ _
  simp only [← hread]
  exact PipeSpec.ends (r := spec3 nw d a b f) hexec hi hd (by simp [spec3, ha, hb, hthird]) hsound hp
    (fun h => execVec_of_isV h _) fun lanes => perLane_three f lanes _ _ _

/-- The instruction `op d, a, b` has the code `major`, `fn`, and on plain operands it ends with `f` of its sources in d. -/
def Computes (major fn : Nat) (nw : Bool) (d a b : Operand) (i : Instr) (f : Word → Word → Word) : Prop :=
  HasCode major fn i ∧
  ∀ s : State, s.issues → plainOperand d = true → plainOperand a = true → plainOperand b = true → s.pipesSound →
    { Pre.plain s.begun.me 0 d [dst d, src a, src b] with legal := runLegal s.begun.me nw }.Passes s.begun →
    Ends i s s s.me d 1 fun _ l => f (s.begun.me.wordAt a 0 l) (s.begun.me.wordAt b 0 l)

/-- An instruction that the model encodes with its fields and runs as `alu2` of `f` computes `f`. -/
theorem Computes.of_alu2 (major : BitVec 6) (fn : BitVec 4) {nw : Bool} {d a b : Operand} (i : Instr)
    (f : Word → Word → Word) (hexec : ∀ s, exec i s = s.alu2 nw d a b f)
    (hcode : encode i = [major ++ BitVec.ofBool nw ++ encodeOperand d ++ encodeOperand a ++ encodeOperand b ++ fn]) :
    Computes major.toNat fn.toNat nw d a b i f :=
  ⟨.of_fields hcode, fun s hi hd ha hb hsound hp => ends_of_alu2 (hexec s) hi hd ha hb hsound hp⟩

theorem Computes.congr {major fn : Nat} {nw : Bool} {d a b : Operand} {i : Instr} {f g : Word → Word → Word}
    (h : Computes major fn nw d a b i f) (hfg : ∀ x y, f x y = g x y) : Computes major fn nw d a b i g :=
  funext₂ hfg ▸ h

-- The shifts and rotations as arithmetic (R103) -----------------------------------------------------------------------

theorem shiftL_eq_mul_two_pow (x y : Word) : shiftL x y = BitVec.ofNat 32 (x.toNat * 2 ^ y.toNat) := by
  have shifted : BitVec.ofNat 32 (x.toNat * 2 ^ y.toNat) = x <<< y.toNat := by
    rw [← Nat.shiftLeft_eq]
    exact BitVec.eq_of_toNat_eq (by simp)
  unfold shiftL
  split
  · exact shifted.symm
  · next h => rw [shifted, BitVec.shiftLeft_eq_zero (Nat.le_of_not_lt h)]

theorem shiftR_eq_div_two_pow (x y : Word) : shiftR x y = BitVec.ofNat 32 (x.toNat / 2 ^ y.toNat) := by
  have shifted : BitVec.ofNat 32 (x.toNat / 2 ^ y.toNat) = x >>> y.toNat := by
    rw [← Nat.shiftRight_eq_div_pow, ← BitVec.toNat_ushiftRight, BitVec.ofNat_toNat, BitVec.setWidth_eq]
  unfold shiftR
  split
  · exact shifted.symm
  · next h => rw [shifted, BitVec.ushiftRight_eq_zero (Nat.le_of_not_lt h)]

/-- Past 31 places only the sign is left, as after 32. -/
theorem toInt_div_two_pow_of_le (x : Word) {c : Nat} (h : 32 ≤ c) :
    x.toInt / 2 ^ c = if x.toInt < 0 then -1 else 0 := by
  have hlo := x.le_toInt
  have hhi := x.toInt_lt
  have hc : (2 : Int) ^ 32 ≤ 2 ^ c := pow_le_pow_right₀ (by norm_num) h
  split
  · exact Int.ediv_eq_neg_one_of_neg_of_le (by omega) (by omega)
  · exact Int.ediv_eq_zero_of_lt (by omega) (by omega)

theorem shiftA_eq_div_two_pow (x y : Word) : shiftA x y = BitVec.ofInt 32 (x.toInt / 2 ^ y.toNat) := by
  unfold shiftA trunc32
  rcases Nat.le_total y.toNat 32 with h | h
  · rw [show Nat.min y.toNat 32 = y.toNat from Nat.min_eq_left h]
  · rw [show Nat.min y.toNat 32 = 32 from Nat.min_eq_right h, toInt_div_two_pow_of_le x h,
      toInt_div_two_pow_of_le x le_rfl]

theorem rotL_eq_rotateLeft (x : Word) (c : Nat) : rotL x c = x.rotateLeft (c % 32) := by
  have hc : (32 - c % 32) % 64 = 32 - c % 32 := by omega
  rw [BitVec.rotateLeft_def, Nat.mod_mod]
  unfold rotL
  rw [hc]

/-- To the right by c is to the left by 32 − c; nothing moves where c mod 32 is 0. -/
theorem rotL_sub_eq_rotateRight (x : Word) (c : Nat) : rotL x (32 - c % 32) = x.rotateRight (c % 32) := by
  rw [rotL_eq_rotateLeft, BitVec.rotateLeft_def, BitVec.rotateRight_def, Nat.mod_mod, Nat.mod_mod, BitVec.or_comm]
  by_cases h0 : c % 32 = 0
  · simp [h0, BitVec.ushiftRight_eq_zero]
  · rw [Nat.mod_eq_of_lt (show 32 - c % 32 < 32 by omega), show 32 - (32 - c % 32) = c % 32 by omega]

-- Products and remainders (R104) --------------------------------------------------------------------------------------

theorem mul_eq_ofNat (x y : Word) : x * y = BitVec.ofNat 32 (x.toNat * y.toNat) := by
  rw [BitVec.ofNat_mul, BitVec.ofNat_toNat, BitVec.ofNat_toNat, BitVec.setWidth_eq, BitVec.setWidth_eq]

theorem mul_add_eq_ofNat (x y z : Word) : x * y + z = BitVec.ofNat 32 (x.toNat * y.toNat + z.toNat) := by
  rw [BitVec.ofNat_add, ← mul_eq_ofNat, BitVec.ofNat_toNat, BitVec.setWidth_eq]

/-- REM is the library's signed remainder, the corners included. -/
theorem intRem_eq_srem (x y : Word) : intRem x y = x.srem y := by
  unfold intRem trunc32
  split
  · next h => rw [h, BitVec.srem_zero]
  · split
    · next h => rw [h.1, h.2]; rfl
    · rw [← Int.tmod_def, ← BitVec.toInt_srem, BitVec.ofInt_toInt]

/-- A remainder that is not 0 has the sign of the dividend. -/
theorem intRem_neg_iff (x y : Word) (h : intRem x y ≠ 0#32) : x.toInt < 0 ↔ (intRem x y).toInt < 0 := by
  rw [intRem_eq_srem] at *
  have hdvd : ¬ y.toInt ∣ x.toInt := fun hdvd =>
    h (BitVec.eq_of_toInt_eq (by rw [BitVec.toInt_srem, Int.tmod_eq_zero_of_dvd hdvd]; rfl))
  have hsign : (x.srem y).toInt.sign = x.toInt.sign := by rw [BitVec.toInt_srem, Int.sign_tmod, if_neg hdvd]
  rw [← Int.sign_eq_neg_one_iff_neg, ← Int.sign_eq_neg_one_iff_neg, hsign]

/-- MAD adds the old d, or 0 with nw = 1, to the product (R100, R104). -/
theorem mad_ends {nw : Bool} {d a b : Operand} {s : State} (hi : s.issues) (hd : plainOperand d = true)
    (ha : plainOperand a = true) (hb : plainOperand b = true) (hsound : s.pipesSound)
    (hp : { Pre.plain s.begun.me 0 d (uses3 nw d a b) with
      legal := runLegal s.begun.me nw, operandOk := nw || isReg d }.Passes s.begun) :
    Ends (.mad nw d a b) s s s.me d 1 fun _ l => BitVec.ofNat 32 ((s.begun.me.wordAt a 0 l).toNat *
      (s.begun.me.wordAt b 0 l).toNat + if nw then 0 else (s.begun.me.wordAt d 0 l).toNat) := by
  have hadd : ∀ l, (if nw then 0 else (s.begun.me.wordAt d 0 l).toNat) =
      (if nw then 0#32 else s.begun.me.wordAt d 0 l).toNat := fun l => by cases nw <;> rfl
  simp only [hadd, ← mul_add_eq_ofNat]
  exact ends_of_alu3 (i := .mad nw d a b) (f := fun x y z => x * y + z) rfl hi hd ha hb hsound hp

-- The obligations -----------------------------------------------------------------------------------------------------

/-- Settles O9: each member is `alu2` of its computation, and the shifts and rotations are the arithmetic of R103. -/
theorem logicResults : Obligations.LogicResults := by
  unfold Obligations.LogicResults
  intro nw d a b
  exact ⟨Computes.of_alu2 9 0 (.and nw d a b) (fun x y => x &&& y) (fun _ => rfl) rfl,
    Computes.of_alu2 9 1 (.or nw d a b) (fun x y => x ||| y) (fun _ => rfl) rfl,
    Computes.of_alu2 9 2 (.xor nw d a b) (fun x y => x ^^^ y) (fun _ => rfl) rfl,
    Computes.of_alu2 9 3 (.andn nw d a b) (fun x y => x &&& ~~~y) (fun _ => rfl) rfl,
    Computes.of_alu2 9 4 (.orn nw d a b) (fun x y => x ||| ~~~y) (fun _ => rfl) rfl,
    Computes.of_alu2 9 5 (.xnor nw d a b) (fun x y => ~~~(x ^^^ y)) (fun _ => rfl) rfl,
    (Computes.of_alu2 9 6 (.shl nw d a b) shiftL (fun _ => rfl) rfl).congr shiftL_eq_mul_two_pow,
    (Computes.of_alu2 9 7 (.shr nw d a b) shiftR (fun _ => rfl) rfl).congr shiftR_eq_div_two_pow,
    (Computes.of_alu2 9 8 (.sar nw d a b) shiftA (fun _ => rfl) rfl).congr shiftA_eq_div_two_pow,
    (Computes.of_alu2 9 9 (.rol nw d a b) (fun x y => rotL x y.toNat) (fun _ => rfl) rfl).congr
      fun x y => rotL_eq_rotateLeft x y.toNat,
    (Computes.of_alu2 9 10 (.ror nw d a b) (fun x y => rotL x (32 - y.toNat % 32)) (fun _ => rfl) rfl).congr
      fun x y => rotL_sub_eq_rotateRight x y.toNat⟩

/-- Settles O10: each member is `alu2` or `alu3` of its computation, and REM is the signed remainder, whose sign is the
dividend's. -/
theorem mulDivResults : Obligations.MulDivResults := by
  unfold Obligations.MulDivResults
  refine ⟨intRem_neg_iff, fun nw d a b => ?_⟩
  exact ⟨(Computes.of_alu2 10 0 (.mul nw d a b) (fun x y => x * y) (fun _ => rfl) rfl).congr mul_eq_ofNat,
    Computes.of_alu2 10 1 (.mulh nw d a b) (fun x y => BitVec.ofInt 32 (x.toInt * y.toInt / 2 ^ 32)) (fun _ => rfl) rfl,
    Computes.of_alu2 10 2 (.mulhn nw d a b) (fun x y => BitVec.ofNat 32 (x.toNat * y.toNat / 2 ^ 32)) (fun _ => rfl) rfl,
    ⟨HasCode.of_fields (major := 10) (fn := 3) rfl, fun _ hi hd ha hb hsound hp => mad_ends hi hd ha hb hsound hp⟩,
    Computes.of_alu2 10 4 (.div nw d a b) intDiv (fun _ => rfl) rfl,
    Computes.of_alu2 10 5 (.divn nw d a b) natDiv (fun _ => rfl) rfl,
    Computes.of_alu2 10 6 (.rem nw d a b) intRem (fun _ => rfl) rfl,
    Computes.of_alu2 10 7 (.remn nw d a b) natRem (fun _ => rfl) rfl⟩

end Sys2Proof.Machine
end

section
/-! PROOFS. FCLASS (05_numbers.md, R136): an instruction of one plain source on floating words as a whole, the class mask
by the fields of the word, and the obligation. -/
namespace Sys2Proof.Machine

-- Floating instructions of one plain source, whole --------------------------------------------------------------------

/-- An instruction `op d, a` on floating words and plain operands ends with `f` of its source in d. -/
theorem ends_of_float1 {i : Instr} {s : State} {nw : Bool} {d a : Operand} {f : Word → Word}
    (hexec : exec i s = s.float1 nw d a f) (hi : s.issues) (hd : plainOperand d = true) (ha : plainOperand a = true)
    (hsound : s.pipesSound)
    (hp : { floatPre s.begun.me d [dst d, src a] with legal := runLegal s.begun.me nw }.Passes s.begun) :
    Ends i s s s.me d 1 fun _ l => f (s.begun.me.wordAt a 0 l) :=
  PipeSpec.ends (r := specF1 nw d a f) hexec hi hd (by simp [specF1, ha]) hsound hp
    (fun h => execVec_of_isV h _) fun lanes => perLane_one f lanes _

-- The class of an f32 word (R136) -------------------------------------------------------------------------------------

/-- The sign of a word is the quotient by its top bit's weight. -/
theorem msb_iff_div_two_pow (x : Word) : x.msb = true ↔ x.toNat / 2 ^ 31 = 1 := by
  rw [BitVec.msb_eq_decide, decide_eq_true_iff]
  omega

/-- Fraction bit 22, which tells a quiet NaN from a signalling one (R136), is the quotient by its weight. -/
theorem testBit_fraction_iff (n : Nat) : (n % 2 ^ 23).testBit 22 = true ↔ ¬ n % 2 ^ 23 / 2 ^ 22 = 0 := by
  rw [Nat.testBit_eq_decide_div_mod_eq, decide_eq_true_iff]
  omega

/-- The model tests the fields of the word as R136 does, only with the branches of `≠` the other way about. -/
theorem fpClass_eq_two_pow_classBit (x : Word) : fpClass x = BitVec.ofNat 32 (2 ^ classBit x) := by
  unfold fpClass classBit
  simp only [msb_iff_div_two_pow, testBit_fraction_iff, ne_eq, ite_not, show 2 ^ 8 = 256 from rfl]

-- The obligation ------------------------------------------------------------------------------------------------------

/-- Settles O11: FCLASS is `float1` of the class mask, and that mask is the one bit of the word's class. -/
theorem fclassMask : Obligations.FclassMask := by
  unfold Obligations.FclassMask
  intro nw d a s hi hd ha hsound hp
  simp only [← fpClass_eq_two_pow_classBit]
  exact ends_of_float1 (i := .fclass nw d a) rfl hi hd ha hsound hp

end Sys2Proof.Machine
end
